-- ==== Sys2Proof/Word.lean ====
section
/-! DEFINITION. The word types of the KX2048 and the sparse maps its memories and arrays are held in. -/

set_option Elab.async false

namespace Sys2Proof

/-- A 32-bit register (R8). -/
abbrev Word := BitVec 32

/-- A byte of a frame, a message or a memory. -/
abbrev Byte := BitVec 8

/-- A sparse array: pairs of index and value with the indices strictly rising. An index that is not listed holds the
array's default. -/
abbrev SMap (V : Type) := List (Nat × V)

/-- The value at an index, or the default. -/
def SMap.get {V : Type} (m : SMap V) (k : Nat) (d : V) : V :=
  match m with
  | [] => d
  | (k', v) :: rest => if k' = k then v else SMap.get rest k d

/-- The value at an index, if one is listed. -/
def SMap.find? {V : Type} (m : SMap V) (k : Nat) : Option V :=
  match m with
  | [] => none
  | (k', v) :: rest => if k' = k then some v else SMap.find? rest k

/-- Take an index out of the list, so that it holds the default. -/
def SMap.erase {V : Type} (m : SMap V) (k : Nat) : SMap V :=
  m.filter fun p => p.1 != k

/-- List a value at an index, keeping the indices strictly rising. -/
def SMap.set {V : Type} (m : SMap V) (k : Nat) (v : V) : SMap V :=
  match m with
  | [] => [(k, v)]
  | (k', v') :: rest =>
    if k < k' then (k, v) :: (k', v') :: rest
    else if k = k' then (k, v) :: rest
    else (k', v') :: SMap.set rest k v

/-- Write a value, unlisting the index when the value is the default: the canonical form. -/
def SMap.put {V : Type} [DecidableEq V] (m : SMap V) (k : Nat) (v d : V) : SMap V :=
  if v = d then SMap.erase m k else SMap.set m k v

/-- Change the value at an index. -/
def SMap.upd {V : Type} (m : SMap V) (k : Nat) (d : V) (f : V → V) : SMap V :=
  SMap.set m k (f (SMap.get m k d))

/-- The indices are strictly rising. -/
def SMap.rising {V : Type} : SMap V → Bool
  | [] => true
  | [_] => true
  | (a, _) :: (b, v) :: rest => decide (a < b) && SMap.rising ((b, v) :: rest)

/-- The canonical form: strictly rising indices, and no entry equal to the default. -/
def SMap.wf {V : Type} [DecidableEq V] (m : SMap V) (d : V) : Bool :=
  SMap.rising m && m.all fun p => decide (p.2 ≠ d)

/-- Ceiling division of naturals. -/
def ceilDiv (a b : Nat) : Nat := (a + b - 1) / b

end Sys2Proof
end

