-- ==== Sys2Proof/Syntax.lean ====
section
/-! DEFINITION. The commands of the KX2048: one constructor per row of spec/opcode_table.json. The operands are what
comes from outside the device: the master and the data of an access, the bytes of a frame or message, a stamp's path,
a reading of a sensor, a draw of a generator, a choice the spec leaves to an allocator. -/

namespace Sys2Proof

/-- What a receive lane shows while its port is in LANE_LOCK (R364, R377): signal detected, CDR locked, adaptation converged,
and its signal-to-noise estimate. -/
structure LaneIn where
  signal : Bool
  cdr : Bool
  adapted : Bool
  snr : Nat
  deriving DecidableEq, Repr

/-- Why a link goes down by itself (R367): the signal of some lanes of the port is lost, by offset, or alignment-marker,
codeword or block lock is. -/
inductive LinkLoss where
  | signal (lanes : List Nat)
  | lock
  deriving DecidableEq, Repr

/-- How far the elastic buffers of the two receive lanes have moved since the last SKIP set, in characters: more than nothing where
the partner's reference is the faster (R383). -/
structure SkipIn where
  lane0 : Int
  lane1 : Int
  deriving DecidableEq, Repr

/-- One register write of a management cycle (R30): the master, the BAR0 offset it addresses, the width of the access
in bytes, the data, the W1C bits that hardware events set in the same core cycle (R12), and whether the request of a PCIe
function keeps the rules of PCIe 5.0 (R420). -/
structure RegWrite where
  m : Nat
  off : Nat
  width : Nat
  val : Word
  events : Nat
  pcieOk : Bool := true
  deriving DecidableEq, Repr

/-- What a parse engine meets besides the device's state: the address of the routine it enters at, and the words of the
active patch half that it fetches with a parity error (R240). -/
structure ParseIn where
  entry : Nat
  bad : List Nat
  deriving DecidableEq, Repr

/-- One byte of a stage's key as Psitos laid it out: given, or byte `i` of what the parse passes on (R233): the 256 bytes of
the result vector, then the 32 bytes of the header-valid map. -/
inductive KeyByte where
  | lit (b : Byte)
  | field (i : Nat)
  deriving DecidableEq, Repr

/-- The lookup Psitos assigned to one ingress stage (R244). -/
inductive StageLookup where
  /-- An exact-match table of on-die SRAM: the table t (0 L2 destination, 1 host route) and its key bytes (R268). -/
  | em (t : Nat) (key : List KeyByte)
  /-- The L2 source lookup, which learns (R281). -/
  | l2src (key : List KeyByte)
  /-- Longest prefix match: family 4 or 6 and the address as 16 bytes (R276). -/
  | lpm (fam : Nat) (addr : List KeyByte)
  /-- An ACL TCAM search over the entry range `lo` to `hi` (R278); the key's first byte is its highest. -/
  | tcam (lo hi : Nat) (key : List KeyByte)
  /-- The HBM exact-match table (R245): the key bytes. -/
  | hbm (key : List KeyByte)
  deriving DecidableEq, Repr

/-- An action of the egress stages (R248). -/
inductive EgressAct where
  /-- A MAC address is rewritten: the destination's, or the source's. -/
  | mac (dst : Bool) (addr : List Byte)
  /-- The outer VLAN tag's control field is rewritten, a tag is pushed, or the outer one is popped. -/
  | vlanSet (tci : Nat)
  | vlanPush (tpid tci : Nat)
  | vlanPop
  /-- TTL or hop limit is decremented. -/
  | ttl
  | dscp (v : Nat)
  /-- TX_STAMP, with its identifier and owner (R147). -/
  | stamp (ident owner : Nat)
  /-- COUNT, in a counter of the pipe. -/
  | count (i : Nat)
  deriving DecidableEq, Repr

/-- What the egress stages' own lookups find for copies of a port and Heat (R248): entries of the port's pipe. -/
structure EgressIn where
  port : Nat
  heat : Nat
  hits : List Nat
  deriving DecidableEq, Repr

/-- The injection descriptor of a frame injected on port 1024 or 1025 (R145, R147). -/
structure Injection where
  master : Nat
  stampId : Option Nat
  oneStep : Bool
  dest : Option Nat
  cls : Nat
  deriving DecidableEq, Repr

/-- A frame at an ingress port and what its ingress pipeline reads besides the device's state. -/
structure FrameIn where
  port : Nat
  /-- Bytes from the destination address; bytes past the list are zero. -/
  bytes : List Byte
  /-- Length received, FCS included. -/
  len : Nat
  /-- The path from the ball to this step, in 0.125 ns (R132): the stamp is device time less this. -/
  path8 : Nat
  parse : ParseIn
  /-- Lookups of ingress stages 1 to 11, by stage. -/
  stages : List (Nat × StageLookup)
  inj : Option Injection
  /-- The frame arrives at a full dispatcher of a slowed pipe (R481). -/
  overrun : Bool
  /-- The trace generator's draw, uniform below 2^24 (R505). -/
  draw : Nat
  /-- Set when the frame re-enters through port 1026: the frame it continues (R22). -/
  recirc : Option Nat
  /-- The members of the multicast group a SET_MCAST action may name, as Psitos laid them out. -/
  members : List Nat
  /-- What the egress lookups find for its copies (R248); a copy named in none misses. -/
  egress : List EgressIn
  deriving DecidableEq, Repr

/-- A collector's UDP datagram (R213): arrival port, source address and port, payload. -/
structure Collector where
  port : Nat
  srcIp : Nat
  srcPort : Nat
  body : List Byte
  deriving DecidableEq, Repr

/-- A received IVL message after its checks: source, sequence, class, type, hop limit, destination, body (R387). -/
structure IvlMsg where
  ver : Nat
  cls : Nat
  typ : Nat
  hop : Nat
  dst : Nat
  src : Nat
  seq : Nat
  body : List Byte
  deriving DecidableEq, Repr

/-- What PWRGD finds at its rise: the strap balls (R531), and which of IREFCLK and LREFCLK[0] to LREFCLK[7] run (R532). -/
structure ColdIn where
  straps : Nat
  iref : Bool
  lref : Nat
  deriving DecidableEq, Repr

/-- The fuses of R454. -/
structure FuseIn where
  parityOk : Bool
  serial : Nat
  secret : List Byte
  /-- The fused digest of the code-signing key (R221), and the key itself, which is held beside the fuses (assumption 129,
  DESIGN CHOICE). -/
  codeDigest : List Byte
  codeKeyX : Nat
  codeKeyY : Nat
  rootDigest : List Byte
  secVer : Nat
  floor : Nat
  spares : List Nat
  certDev : List Byte
  certCa : List Byte
  /-- The public key in certificate index 0 (R222). -/
  certKeyX : Nat
  certKeyY : Nat
  /-- The root's subjectPublicKeyInfo, whose SHA-256 is EV_ROOT_DIGEST; no rule says where the device keeps it (assumption 129,
  DESIGN CHOICE). -/
  rootSpki : List Byte
  /-- The per-lane stamp constants (R132) and the HBM repairs: kept with the fuses. Their effect is in the paths from the ball that
  a command gives, and in the memory that the repairs leave whole. -/
  stampConst : List Nat
  hbmRepairs : List Nat
  deriving DecidableEq, Repr

/-- What the sequencer reads of the flash for firmware (R456): the two directory copies and the container bytes. -/
structure FlashIn where
  dir0 : List Byte
  dir1 : List Byte
  fwA : List Byte
  fwB : List Byte
  deriving DecidableEq, Repr

/-- What Psitos laid out for a pipe: the nodes and transitions of its parse graph (R238), as (node, mask, miss) and (node,
key, address, next), and the actions of each rewrite and of each egress-stage entry (R248, R267). -/
structure GraphIn where
  pipe : Nat
  nodes : List (Nat × Nat × Nat)
  trans : List (Nat × Nat × Nat × Nat)
  rewrites : List (Nat × List EgressAct)
  egress : List (Nat × List EgressAct)
  deriving DecidableEq, Repr

/-- An image slot as the sequencer reads it (R459): its bytes, whether the flash answers, and the graphs Psitos' own section
layout holds. -/
structure ImageIn where
  slot : Nat
  readOk : Bool
  bytes : List Byte
  graphs : List GraphIn
  deriving DecidableEq, Repr

/-- A frame found bad, and whether its fragments did not fit together (R106, R107, R371). -/
structure BadFrame where
  fid : Nat
  frag : Bool
  deriving DecidableEq, Repr

/-- What ECC finds in the words of a granule: how many it corrects, and which are uncorrectable (R347). -/
structure EccIn where
  fixed : Nat
  bad : List Nat
  deriving DecidableEq, Repr

/-- A stream that sends its next frame, and the positions whose records' read ends with an error (R211, R349). -/
structure StreamSend where
  k : Nat
  bad : List Nat
  deriving DecidableEq, Repr

/-- A stream that sends the frames of a seal, and whether the seal's read ends with an error (R211, R349). -/
structure SealSend where
  k : Nat
  bad : Bool
  deriving DecidableEq, Repr

/-- The readings of the die's sensors, each with whether it is good, and of the stacks' own (R357, R492). -/
structure ThermalIn where
  die : List (Nat × Bool)
  hbm : List Nat
  deriving DecidableEq, Repr

/-- A same-cycle competitor of a Baton read (R423). -/
abbrev Readers := List Nat

/-- The commands of the device, one for each row of the opcode table: those with operands in the table's order, then the
others. -/
inductive Instr where
  | registerWrite (ws : List RegWrite)
  | rcRead (m off setBits : Nat)
  | lowWordRead (m off : Nat)
  | lowWordWrite (m off : Nat) (val : Word)
  | highWordWrite (m off : Nat) (val : Word)
  | frameReceive (f : FrameIn)
  | pfcFrameReceive (e enables : Nat) (times : List Nat)
  | pauseRx (e : Nat)
  | pauseExpiry (e k : Nat)
  | hbmLookupReturn (fid bad : Nat)
  | hbmLookupShed (fid : Nat)
  | alignRelease (p : Nat)
  | bufferWrite (cid pick : Nat)
  | enqueueOverflowLink (q : Nat)
  | mergeFifoEntry (cid : Nat)
  | launchEligible (cid : Nat)
  | launch (cid : Nat)
  | bankRead (bank ptr ecc : Nat)
  | queueSelect (q draw : Nat)
  | transmitStart (e : Nat)
  | preemptFrame (e : Nat)
  | copyDeparture (cid : Nat)
  | pfcRefresh (i k : Nat)
  | badTail (x : BadFrame)
  | frameNotAccepted (x : BadFrame)
  | discardWalk (p : Nat)
  | linkHoldExpiry (e : Nat)
  | admPipeDerateWrite (m p : Nat) (val : Word)
  | bufAllocReq (m : Nat) (val : Word) (pick : Nat)
  | bufAllocResp (m : Nat)
  | bufFree (m : Nat) (val : Word)
  | spillPageWrite (q pick : Nat)
  | spillRefill (q : Nat) (bad : List Nat) (pick : Nat)
  | timeRateWrite (m : Nat) (lo hi : Word)
  | timeSlewWrite (m : Nat) (val : Word)
  | timeSlewRateWrite (m : Nat) (val : Word)
  | timeNowNsRead (m : Nat)
  | timeStepGo (m : Nat) (val : Word)
  | newEpoch (m : Nat) (val : Word) (seed : Nat)
  | stepTick (seed : Nat)
  | stateReqLocked (m : Nat) (val : Word)
  | stateReqHoldover (m : Nat) (val : Word)
  | timeErrBaseWrite (m : Nat) (val : Word)
  | residenceEntryTimeout (p : Nat)
  | timeTxqPop (m p : Nat)
  | txqEntryAged (p : Nat)
  | txqFlush (m p : Nat) (val : Word)
  | pinArm (m n : Nat) (val : Word)
  | pinFire (n : Nat)
  | ppsEdge (n : Nat)
  | pinCapture (n : Nat) (rising : Bool)
  | pinCapPop (m n : Nat)
  | alarmEnable (m a : Nat) (val : Word)
  | alarmRelease (m a : Nat) (val : Word)
  | alarmFire (a : Nat)
  | sessRead (m : Nat)
  | sessWrite (m : Nat)
  | sessClear (m : Nat)
  | recordsSend (x : StreamSend)
  | ack (c : Collector)
  | resend (c : Collector)
  | sealClose (seed : Nat)
  | sealFrameSend (x : SealSend)
  | evEnable (m seed : Nat)
  | evDisable (m seed : Nat)
  | measurementChange (seed : Nat)
  | attestGo (m : Nat) (val : Word)
  | patchGo (m p : Nat) (val : Word)
  | patchSwitch (p : Nat)
  | heatOpen (m : Nat)
  | commitNow (m : Nat)
  | commitAt (m : Nat)
  | heatAbort (m : Nat)
  | sweeperVisit (t index : Nat) (hitBehind : Bool)
  | tblAdd (m : Nat) (cmd : Word)
  | tblDelete (m : Nat) (cmd : Word)
  | tblReplace (m : Nat) (cmd : Word)
  | tblRead (m : Nat) (cmd : Word)
  | tblSearch (m : Nat) (cmd : Word)
  | flushPort (m : Nat) (cmd : Word)
  | tblDmaGo (m : Nat) (val : Word)
  | corruptEntry (t structure_ pipe index foundBy : Nat)
  | lpmRebuildDone (node : Nat)
  | tcamScrub (p index : Nat) (bad : Bool)
  | tblNoticePop (m : Nat)
  | tblErrPop (m : Nat)
  | pacerWrite (m off : Nat) (val : Word)
  | meterWrite (m off : Nat) (val : Word)
  | hbmCommandSlot (pc : Nat) (ecc : EccIn)
  | selfRefreshEntry (stk : Nat)
  | selfRefreshExit (stk : Nat)
  | neighbourRefresh (stk draw : Nat)
  | scrubPass (granule : Nat) (ecc : EccIn)
  | hbmErrPop (m : Nat)
  | portEnable (m e : Nat) (val : Word)
  | portDisable (m e : Nat) (val : Word)
  | anComplete (e : Nat)
  | noCommon (e : Nat)
  | trainingComplete (e : Nat) (swapped taps : List Nat)
  | trainTimeout (e : Nat)
  | laneLockComplete (e : Nat) (lanes : List LaneIn)
  | lockTimeout (e : Nat)
  | alignComplete (e map skew8 : Nat) (swapped : List Nat)
  | alignTimeout (e : Nat)
  | debounceExpiry (e : Nat)
  | faultReceived (e : Nat) (remote lossOfAlign : Bool)
  | faultCleared (e : Nat)
  | linkDown (e : Nat) (cause : LinkLoss)
  | fecDegradeWindow (e corrCw uncorrCw corrSym : Nat)
  | verifyStart (e : Nat)
  | verifyResponse (e : Nat)
  | verifyTimeout (e : Nat)
  | verifyReceived (e : Nat)
  | lldpTlvReceived (e : Nat) (enabled : Bool) (addFrag : Nat)
  | lpiEntry (e : Nat)
  | lpiWake (e : Nat)
  | scanGo (m lane : Nat) (val : Word)
  | scanStop (m lane : Nat) (val : Word) (err cmp : Nat)
  | scanDone (lane err : Nat)
  | scanAborted (lane err cmp : Nat)
  | ivlSymbolLock (k : Nat)
  | ivlLockTimeout (k : Nat)
  | ivlTrainingComplete (k invMask : Nat) (reversed : Bool) (skew : Nat)
  | ivlTrainTimeout (k : Nat)
  | ivlLinkDown (k : Nat)
  | ivlSleep (k : Nat)
  | ivlWake (k : Nat)
  | wakeTimeout (k : Nat)
  | ivlMessageReceive (k : Nat) (bytes : List Byte) (path8 : Nat)
  | ivlEthReceive (e : Nat) (bytes : List Byte) (path8 : Nat)
  | versionSend (k : Nat)
  | version (k : Nat) (msg : IvlMsg)
  | ttReqSend (k : Nat)
  | ttReq (k : Nat) (msg : IvlMsg) (path8 turn8 : Nat)
  | ttResp (k : Nat) (msg : IvlMsg) (path8 : Nat)
  | ttTimeout (k : Nat)
  | ivlTtPop (m k : Nat)
  | ivlRegRead (k : Nat) (msg : IvlMsg)
  | ivlRegWrite (k : Nat) (msg : IvlMsg)
  | nak (k : Nat) (msg : IvlMsg)
  | echo (k : Nat) (msg : IvlMsg)
  | echoReply (k : Nat) (msg : IvlMsg)
  | envDerate (arrival : Nat) (eth : Bool) (msg : IvlMsg)
  | envLift (arrival : Nat) (eth : Bool) (msg : IvlMsg)
  | ivlEnvPop (m : Nat)
  | ctlThaw (m : Nat) (val : Word)
  | ctlMasterReset (m : Nat) (val : Word)
  | ctlVlogPop (m : Nat)
  | batonRead (n : Nat) (release : Option Nat) (readers : Readers)
  | batonRelease (m n : Nat) (val : Word)
  | batonPeek (m n : Nat)
  | mbDataWrite (m c i : Nat) (val : Word)
  | mbDoorbell (m c : Nat) (val : Word) (readFirst : Bool)
  | mbDataRead (m c i : Nat)
  | spdOwnerWrite (m b : Nat) (val : Word)
  | scratchpadAccess (m off : Nat) (write : Option Word) (waited : Nat)
  | pstateWrite (m b : Nat) (val : Word)
  | bankWakeDone (b : Nat)
  | lend (m b : Nat) (val : Word)
  | reclaim (m b : Nat) (val : Word)
  | bistPassDone (b : Nat) (failCol : Option Nat)
  | ctlFwGo (m : Nat) (val : Word)
  | runningAck (m : Nat)
  | fwConfirm (m : Nat)
  | cpRestart (m : Nat) (val : Word)
  | ctlLockSet (m : Nat) (val : Word)
  | coldStart (x : ColdIn)
  | idReset (m : Nat) (val : Word)
  | fuseLoadDone (f : FuseIn)
  | firmwareVerifyDone (f : FlashIn)
  | imageLoadDone (a b : Option ImageIn)
  | holdRelease (m : Nat) (val : Word)
  | enterService (seed : Nat)
  | spiGo (m : Nat) (val : Word)
  | spiDone (answered : Bool) (data : List Byte)
  | vinSample (mv : Nat)
  | pwrDomCmd (m dom : Nat) (val : Word)
  | domainTransitionDone (dom : Nat)
  | capEvaluation (dieDw iinDa : Nat) (pipeDw : List Nat)
  | stepDown (p : Nat)
  | stepUp (p : Nat)
  | droopEnd (ns : Nat)
  | thermalSample (x : ThermalIn)
  | energyUpdate (lg pp bq hb other : List Nat)
  | hintPush (m : Nat) (val : Word)
  | hintFlush (m : Nat) (val : Word)
  | pwrEvtPop (m : Nat)
  | refclkLost (which tile : Nat)
  | telCtrlWrite (m : Nat) (val : Word) (pick : Nat)
  | telRingRelposWrite (m : Nat) (lo hi : Word)
  | telRingRdData (m : Nat)
  | telHistCfgWrite (m n : Nat) (val : Word)
  | telSnap (m : Nat) (val : Word)
  | telPcClear (m : Nat) (val : Word)
  | telPcRead (m k : Nat)
  | telDescSel (m : Nat) (val : Word)
  | smbusWrite (cmd off count : Nat) (val : Word) (pecOk : Bool)
  | smbusRead (cmd off : Nat)
  | jtagInstruction (opcode : Nat)
  | registerRead (m off width : Nat)
  | timeTick (n : Nat)
  | lpiRxEntry (e : Nat)
  | lpiRxExit (e : Nat)
  | ivlRxSleep (k : Nat)
  | ivlRxWake (k : Nat)
  | skipSetReceive (k : Nat) (drift : SkipIn)
  | hurdleBatch
  | mergeRelease
  | readMatching
  | ageingPass
  | timedHeadCheck
  | noticeSend
  | recentClearPass
  | reclaimPass
  | slewComplete
  | stepMarkClear
  | wdog
  | errBoundUpdate
  | recordNumbering
  | attestDone
  | abortCleanupDone
  | heatCommit
  | heatRetire
  | heatCleanupDone
  | heatPromotion
  | learnCommit
  | unpin
  | trackerExpiry
  | tblDmaInstall
  | tblTimeout
  | hbmZeroFillDone
  | envelopeNoticeSend
  | fwVerifyDone
  | runningAckTimeout
  | confirmTimeout
  | deviceReset
  | pcieReset
  | pllLock
  | powerUpDone
  | timeAcquired
  | timeTimeout
  | holdExpiry
  | wakeSlot
  | droopStretch
  | throttle
  | hintStart
  | hintEnd
  | undervoltageLockout
  | trefLost
  | trefReturn
  | pwrgdLow
  | tblDmaDone
  deriving DecidableEq, Repr

end Sys2Proof
end

