-- ==== Sys2Proof/Machine/RegMap.lean ====
section
/-! DEFINITION. The register map of the KX2048 (R31 and the register tables of every chapter): every register under
the manual's own name, its BAR0 offset, its array strides and counts, and the access code and reset value of each of
its bits. A register table of the manual is one row here; a reserved field has no access bit and reads zero (R14). -/
namespace Sys2Proof.Machine

/-- The registers of the device, by the names of the manual. Word 0 of a pop register carries a `0` after its name,
because it alone is RC. -/
inductive Reg where
  | ID_IDENTITY
  | ID_REVISION
  | ID_STATUS
  | ID_BOOT_STATUS
  | ID_BOOT_WHERE
  | ID_BOOT_CTRL
  | ID_RESET
  | ID_BOOT_DISCARD
  | ID_BOOT_MS
  | ID_IMG_INFO
  | ID_IMG_SEQ
  | ID_CLK_STAT
  | ID_STRAP
  | ID_IMG_DIGEST
  | ID_SPI_CMD
  | ID_SPI_ADDR
  | ID_SPI_BUF
  | ID_HEAT_CTRL
  | ID_HEAT_AT_NS
  | ID_HEAT_AT_SEC_LO
  | ID_HEAT_AT_SEC_HI
  | ID_HEAT_STATE
  | ID_HEAT_CFG
  | ID_HEAT_PROMOTED
  | CTL_LOCK
  | CTL_THAW
  | CTL_MASTER_RESET
  | CTL_FROZEN
  | CTL_VLOG_STAT
  | CTL_VLOG_POP0
  | CTL_VLOG_POP
  | CTL_FN_MAP
  | CTL_FW_CTRL
  | CTL_FW_SRC
  | CTL_FW_STATUS
  | CTL_FW_CONFIRM
  | CTL_CP_CTRL
  | BAT
  | BAT_PEEK
  | BAT_STAT
  | MB_BIND
  | MB_STAT
  | MB_DOORBELL
  | MB_DATA
  | SPD_BANK_CFG
  | SPD_BANK_STAT
  | SPD_BANK_BIST
  | SPD_CONFLICT
  | PWR_STATUS
  | PWR_CAP
  | PWR_BMC_CAP
  | PWR_CAP_CFG
  | PWR_CAP_NOW
  | PWR_VIN
  | PWR_POWER
  | PWR_THERM
  | PWR_DROOP_CFG
  | PWR_DROOP_CNT
  | PWR_DROOP_MAX
  | PWR_HINT_CFG
  | PWR_HINT_STAT
  | PWR_HINT_START_NS
  | PWR_HINT_START_SEC_LO
  | PWR_HINT_START_SEC_HI
  | PWR_HINT_DURATION
  | PWR_HINT_LOAD
  | PWR_HINT_PUSH
  | PWR_SENSOR
  | PWR_DOM_CMD
  | PWR_DOM_STAT
  | PWR_PIPE_CFG
  | PWR_PIPE_STAT
  | PWR_PIPE_OVERRUN
  | PWR_EVT_POP0
  | PWR_EVT_POP
  | PWR_EVT_STAT
  | PWR_ENERGY
  | TIME_CTRL
  | TIME_STATUS
  | TIME_EPOCH
  | TIME_STEP_CTRL
  | TIME_STEP_NS
  | TIME_STEP_SEC_LO
  | TIME_STEP_SEC_HI
  | TIME_NOW_NS
  | TIME_NOW_SEC_LO
  | TIME_NOW_SEC_HI
  | TIME_NOW_LAP_LO
  | TIME_NOW_LAP_HI
  | TIME_NOW_SHORT
  | TIME_RATE
  | TIME_SLEW
  | TIME_SLEW_RATE
  | TIME_ERR_BASE
  | TIME_ERR_GROWTH
  | TIME_ERR_AGEING
  | TIME_ERR_BOUND
  | TIME_HOLD_CFG
  | TIME_PTP_DOM
  | TIME_PTP_CNT
  | TIME_SPLIT_MAP
  | TIME_PIN_CFG
  | TIME_PIN_T_NS
  | TIME_PIN_T_SEC_LO
  | TIME_PIN_T_SEC_HI
  | TIME_PIN_PERIOD
  | TIME_PIN_WIDTH
  | TIME_PIN_CAP_NS
  | TIME_PIN_CAP_SEC_LO
  | TIME_PIN_CAP_SEC_HI
  | TIME_PIN_CAP_STAT
  | TIME_ALARM_CFG
  | TIME_ALARM_T_NS
  | TIME_ALARM_T_SEC_LO
  | TIME_ALARM_T_SEC_HI
  | TIME_TXQ_POP_LO
  | TIME_TXQ_POP_HI
  | TIME_TXQ_STAT
  | TIME_TXQ_CTRL
  | TIME_PCAL
  | TIME_LINK_DELAY
  | EV_CTRL
  | EV_STATUS
  | EV_SEAL_CFG
  | EV_TAG_CFG
  | EV_SEAL_NUM
  | EV_REC_NUM
  | EV_SERIAL
  | EV_ATTEST_CTRL
  | EV_MEAS
  | EV_ROOT_DIGEST
  | EV_ATTEST_NONCE
  | EV_ATTEST_SIG
  | EV_SEAL_LAST
  | EV_SESS_SEL
  | EV_SESS_CMD
  | EV_SESS_DATA
  | EV_CERT_SEL
  | EV_CERT_LEN
  | EV_CERT_DATA
  | EV_TAG_PORT
  | EV_PART_CFG
  | EV_PART_STATUS
  | EV_PART_WRPOS
  | EV_PART_RELPOS
  | EV_PART_OVERWRITTEN
  | EV_PART_UNJOURNALED
  | EV_STR_CFG
  | EV_STR_RATE
  | EV_STR_MAC_LO
  | EV_STR_MAC_HI
  | EV_STR_DST_IP
  | EV_STR_SRC_IP
  | EV_STR_UDP
  | EV_STR_WINDOW
  | EV_STR_SENDPOS
  | FIN_CTRL
  | FIN_TIE_SEED
  | FIN_ENTRIES
  | FIN_GRP_CFG
  | FIN_GRP_WINDOW
  | FIN_GRP_HELD
  | FIN_GRP_SLACK
  | FIN_GRP_LAST_NS
  | FIN_GRP_LAST_TIE
  | FIN_CNT
  | FIN_LAG_MAX
  | STG_CTRL
  | STG_GRP_CFG
  | STG_GRP_DELAY
  | STG_GRP_GUARD
  | STG_MEMBERS
  | STG_TRIM
  | STG_PORT_STAT
  | STG_CNT
  | ADM_CTRL
  | ADM_ALIGN
  | ADM_ALIGN_LATE
  | ADM_NOTICE_CTRL
  | ADM_NOTICE_SPORT
  | ADM_NOTICE_LEVEL
  | ADM_NOTICE_QFULL
  | ADM_PIPE_DERATE
  | ADM_BOUND
  | ADM_RSV_RATE
  | ADM_RSV_BURST
  | ADM_POLICY
  | ADM_PORT_STATE
  | ADM_NOTICE_SRC4
  | ADM_NOTICE_SRC6
  | ADM_NOTICE_DPORT
  | ADM_BE_MTU
  | ADM_CNT
  | PIPE_UCODE_ROM
  | PIPE_UCODE_PATCH
  | PIPE_PATCH_SRC
  | PIPE_PATCH_CTRL
  | PIPE_PARSE_ERR
  | PIPE_PATCH_MATCH
  | PIPE_PARSE_CONST
  | PIPE_SLOW_CFG
  | PIPE_ETYPE
  | PIPE_TRAP_CFG
  | PIPE_PORT_CFG
  | PIPE_PORT_DEFAULT
  | PIPE_PORT_MIRROR
  | PIPE_PORT_CNT
  | PIPE_QSCHED
  | PIPE_QPACER_RATE
  | PIPE_QPACER_BURST
  | PIPE_PPACER_RATE
  | PIPE_PPACER_BURST
  | PIPE_ECN_CFG
  | PIPE_ECN_THR
  | PIPE_PFC_CFG
  | PIPE_PFC_TXMAP
  | PIPE_PFC_TIMING
  | PIPE_PFC_STATE
  | PIPE_PFC_THR_XOFF
  | PIPE_PFC_THR_XON
  | PIPE_PORT_QOS
  | PIPE_METER_CFG
  | PIPE_METER_CIR
  | PIPE_METER_PIR
  | PIPE_METER_CBS
  | PIPE_METER_EBS_PBS
  | PIPE_METER_DSCP
  | PIPE_METER_CNT
  | PIPE_QCNT
  | PIPE_PFC_CNT
  | BUF_CTRL
  | BUF_TIMED_RESERVE
  | BUF_HEADROOM
  | BUF_SHARED_FREE
  | BUF_STATUS
  | BUF_MC_FREE_ERR
  | BUF_ECC
  | BUF_ALLOC_REQ
  | BUF_ALLOC_RESP
  | BUF_FREE
  | BUF_FREE_ERR
  | BUF_POOL_CFG
  | BUF_POOL_FREE
  | BUF_QUOTA
  | BUF_HELD
  | BUF_QCFG
  | BUF_QUSE
  | BUF_PORT_CFG
  | BUF_AGE
  | BUF_PCNT
  | TBL_CTRL
  | TBL_LEARN_CFG
  | TBL_FLAP_CFG
  | TBL_AGE_CFG
  | TBL_HBM_SHED
  | TBL_TRACKER_FULL
  | TBL_CMD
  | TBL_CMD_INDEX
  | TBL_CMD_STATUS
  | TBL_CMD_RESULT
  | TBL_CMD_DATA
  | TBL_DMA_SRC
  | TBL_DMA_COUNT
  | TBL_DMA_CTRL
  | TBL_DMA_CFG
  | TBL_NOTICE_POP0
  | TBL_NOTICE_POP
  | TBL_NOTICE_STAT
  | TBL_ERR_POP0
  | TBL_ERR_POP
  | TBL_ERR_STAT
  | TBL_OCC
  | TBL_CAM
  | TBL_SEED
  | TBL_CNT
  | TBL_PORT_LEARN
  | TBL_PORT_LEARNED
  | HBM_CTRL
  | HBM_STATUS
  | HBM_SPILL_CFG
  | HBM_FLOOR
  | HBM_RH_CFG
  | HBM_SCRUB_CFG
  | HBM_ERR_STAT
  | HBM_QUARANTINE
  | HBM_REQ_CFG
  | HBM_STACK_CFG
  | HBM_STACK_STAT
  | HBM_ERR_POP0
  | HBM_ERR_POP
  | HBM_SPILL_LOST
  | HBM_JRN_LOST
  | HBM_STACK_CNT
  | HBM_REQ_CNT
  | LANE_CFG
  | LANE_STATUS
  | LANE_TXEQ
  | LANE_SCAN_CFG
  | LANE_SCAN_STAT
  | LANE_SCAN_ERR
  | LANE_SCAN_CMP
  | PORT_CFG
  | PORT_STATUS
  | PORT_LANE_MAP
  | PORT_SKEW
  | PORT_TIMER
  | PORT_PREEMPT_CFG
  | PORT_PREEMPT_STAT
  | PORT_LPI_CFG
  | PORT_FEC_CFG
  | PORT_CNT
  | IVL_CTRL
  | IVL_DEVNUM
  | IVL_ETH_CFG
  | IVL_NOTICE_MAC_LO
  | IVL_NOTICE_MAC_HI
  | IVL_TIME_CFG
  | IVL_ENV_STAT
  | IVL_ENV_POP0
  | IVL_ENV_POP
  | IVL_ROUTE_LO
  | IVL_ROUTE_HI
  | IVL_PORT_CFG
  | IVL_PORT_STATUS
  | IVL_PORT_ASYM
  | IVL_PORT_PEER_DEVNUM
  | IVL_PORT_PEER_MAC_LO
  | IVL_PORT_PEER_MAC_HI
  | IVL_TT_POP0
  | IVL_TT_POP
  | IVL_ETH_PORT
  | IVL_CNT
  | TEL_CTRL
  | TEL_RING_CFG
  | TEL_TAG_MISS
  | TEL_OFF_EPISODES
  | TEL_RING_WRPOS
  | TEL_RING_RELPOS
  | TEL_RING_RD_POS
  | TEL_RING_LOST
  | TEL_RING_OVERWRITTEN
  | TEL_RING_RD_DATA0
  | TEL_RING_RD_DATA
  | TEL_SNAP
  | TEL_SNAP_TIME_NS
  | TEL_SNAP_TIME_SEC_LO
  | TEL_SNAP_TIME_SEC_HI
  | TEL_PC_CLEAR
  | TEL_DESC_SEL
  | TEL_DESC_STAT
  | TEL_DESC_DATA
  | TEL_PORT_TRACE
  | TEL_HIST_CFG
  | TEL_HIST_MAX
  | TEL_TIMED_CFG
  | TEL_PC_CFG
  | TEL_PC
  | TEL_PC_SNAP
  | TEL_HIST
  deriving DecidableEq, Repr

/-- One row of the register map: privileged BAR0 offset of the first instance, (stride, count) of each array index,
whether it is a 64-bit quantity (R15), whether each master has its own copy, the reset value, and the bits of each
access code of R9. -/
structure RegRow where
  base : Nat
  dims : List (Nat × Nat)
  wide : Bool
  perMaster : Bool
  rst : Nat
  ro : Nat
  rw : Nat
  w1c : Nat
  rc : Nat
  wo : Nat
  rwl : Nat
  deriving DecidableEq, Repr

/-- The register map, row by row. The rule of each row is the register table it is taken from. -/
def Reg.row : Reg → RegRow
  | .ID_IDENTITY => ⟨0x0, [], false, false, 0x4b582048, 0xffffffff, 0x0, 0x0, 0x0, 0x0, 0x0⟩ -- R2
  | .ID_REVISION => ⟨0x4, [], false, false, 0xb0, 0xffffffff, 0x0, 0x0, 0x0, 0x0, 0x0⟩ -- R2
  | .ID_STATUS => ⟨0x8, [], false, false, 0x0, 0xffff, 0x0, 0x0, 0x0, 0x0, 0x0⟩ -- R35
  | .ID_BOOT_STATUS => ⟨0x10, [], false, false, 0x0, 0xfffc0000, 0x0, 0x0, 0x0, 0x0, 0x0⟩ -- R472
  | .ID_BOOT_WHERE => ⟨0x14, [], false, false, 0x0, 0xffffffff, 0x0, 0x0, 0x0, 0x0, 0x0⟩ -- R472
  | .ID_BOOT_CTRL => ⟨0x18, [], false, false, 0x0, 0x0, 0x0, 0x0, 0x0, 0x80000000, 0x0⟩ -- R472
  | .ID_RESET => ⟨0x1c, [], false, false, 0x0, 0x0, 0x0, 0x0, 0x0, 0xffffffff, 0x0⟩ -- R472
  | .ID_BOOT_DISCARD => ⟨0x20, [], true, false, 0x0, 0xffffffffffffffff, 0x0, 0x0, 0x0, 0x0, 0x0⟩ -- R473
  | .ID_BOOT_MS => ⟨0x28, [], false, false, 0x0, 0xffffffff, 0x0, 0x0, 0x0, 0x0, 0x0⟩ -- R473
  | .ID_IMG_INFO => ⟨0x2c, [], false, false, 0x0, 0xffffffff, 0x0, 0x0, 0x0, 0x0, 0x0⟩ -- R473
  | .ID_IMG_SEQ => ⟨0x30, [], false, false, 0x0, 0xffffffff, 0x0, 0x0, 0x0, 0x0, 0x0⟩ -- R473
  | .ID_CLK_STAT => ⟨0x34, [], false, false, 0x0, 0x780000ff, 0x0, 0x80000000, 0x0, 0x0, 0x0⟩ -- R532
  | .ID_STRAP => ⟨0x38, [], false, false, 0x0, 0x7f, 0x0, 0x0, 0x0, 0x0, 0x0⟩ -- R532
  | .ID_IMG_DIGEST => ⟨0x40, [(0x4, 8)], false, false, 0x0, 0xffffffff, 0x0, 0x0, 0x0, 0x0, 0x0⟩ -- R473
  | .ID_SPI_CMD => ⟨0x100, [], false, false, 0x0, 0x60000000, 0x1fff00ff, 0x0, 0x0, 0x80000000, 0x0⟩ -- R473
  | .ID_SPI_ADDR => ⟨0x104, [], false, false, 0x0, 0x0, 0xffffffff, 0x0, 0x0, 0x0, 0x0⟩ -- R473
  | .ID_SPI_BUF => ⟨0x200, [(0x4, 64)], false, false, 0x0, 0x0, 0xffffffff, 0x0, 0x0, 0x0, 0x0⟩ -- R473
  | .ID_HEAT_CTRL => ⟨0x1000, [], false, false, 0x0, 0x7000000, 0x0, 0x0, 0x0, 0xe0000000, 0x0⟩ -- R266
  | .ID_HEAT_AT_NS => ⟨0x1004, [], false, false, 0x0, 0x0, 0x3fffffff, 0x0, 0x0, 0x0, 0x0⟩ -- R266
  | .ID_HEAT_AT_SEC_LO => ⟨0x1008, [], false, false, 0x0, 0x0, 0xffffffff, 0x0, 0x0, 0x0, 0x0⟩ -- R266
  | .ID_HEAT_AT_SEC_HI => ⟨0x100c, [], false, false, 0x0, 0x0, 0xffff, 0x0, 0x0, 0x0, 0x0⟩ -- R266
  | .ID_HEAT_STATE => ⟨0x1010, [], false, false, 0x0, 0xc000ffff, 0x0, 0x0, 0x0, 0x0, 0x0⟩ -- R266
  | .ID_HEAT_CFG => ⟨0x1014, [], false, false, 0x4e20, 0x0, 0xfffff, 0x0, 0x0, 0x0, 0x0⟩ -- R266
  | .ID_HEAT_PROMOTED => ⟨0x1018, [], false, false, 0x0, 0x0, 0x0, 0x0, 0xffffffff, 0x0, 0x0⟩ -- R266
  | .CTL_LOCK => ⟨0x100000, [], false, false, 0x0, 0x0, 0x0, 0x0, 0x0, 0x0, 0x1⟩ -- R444
  | .CTL_THAW => ⟨0x100004, [], false, false, 0x0, 0x0, 0x0, 0x0, 0x0, 0x3f, 0x0⟩ -- R444
  | .CTL_MASTER_RESET => ⟨0x100008, [], false, false, 0x0, 0x0, 0x0, 0x0, 0x0, 0x3f, 0x0⟩ -- R444
  | .CTL_FROZEN => ⟨0x100010, [], true, false, 0x0, 0xffffffffffffffff, 0x0, 0x0, 0x0, 0x0, 0x0⟩ -- R444
  | .CTL_VLOG_STAT => ⟨0x100020, [], false, false, 0x0, 0x1ff, 0x0, 0x0, 0xffff0000, 0x0, 0x0⟩ -- R444
  | .CTL_VLOG_POP0 => ⟨0x100030, [], false, true, 0x0, 0x0, 0x0, 0x0, 0xffffffff, 0x0, 0x0⟩ -- R444
  | .CTL_VLOG_POP => ⟨0x100034, [(0x4, 3)], false, true, 0x0, 0xffffffff, 0x0, 0x0, 0x0, 0x0, 0x0⟩ -- R444
  | .CTL_FN_MAP => ⟨0x100044, [(0x4, 15)], false, false, 0x0, 0x0, 0x8000003f, 0x0, 0x0, 0x0, 0x0⟩ -- R444
  | .CTL_FW_CTRL => ⟨0x100100, [], false, false, 0x1e, 0x0, 0xff, 0x0, 0x0, 0x80000000, 0x0⟩ -- R445
  | .CTL_FW_SRC => ⟨0x100104, [], false, false, 0x0, 0x0, 0xffffff, 0x0, 0x0, 0x0, 0x0⟩ -- R445
  | .CTL_FW_STATUS => ⟨0x100108, [], false, false, 0x0, 0xff00ffff, 0x0, 0x0, 0x0, 0x0, 0x0⟩ -- R445
  | .CTL_FW_CONFIRM => ⟨0x10010c, [], false, false, 0x0, 0x0, 0x0, 0x0, 0x0, 0x3, 0x0⟩ -- R445
  | .CTL_CP_CTRL => ⟨0x100110, [], false, false, 0x0, 0xf0, 0x0, 0x0, 0x0, 0xf, 0x0⟩ -- R445
  | .BAT => ⟨0x101000, [(0x4, 256)], false, false, 0x0, 0x8000003f, 0x0, 0x0, 0x0, 0x0, 0x0⟩ -- R446
  | .BAT_PEEK => ⟨0x101400, [(0x4, 256)], false, false, 0x0, 0x8000003f, 0x0, 0x0, 0x0, 0x0, 0x0⟩ -- R446
  | .BAT_STAT => ⟨0x101800, [], false, false, 0x0, 0x1ff, 0x0, 0x0, 0x0, 0x0, 0x0⟩ -- R446
  | .MB_BIND => ⟨0x102000, [(0x40, 64)], false, false, 0x3f3f, 0x0, 0x0, 0x0, 0x0, 0x0, 0x80003f3f⟩ -- R447
  | .MB_STAT => ⟨0x102004, [(0x40, 64)], false, false, 0x0, 0xbfff0000, 0x3, 0x40000000, 0xff00, 0x0, 0x0⟩ -- R447
  | .MB_DOORBELL => ⟨0x102008, [(0x40, 64)], false, false, 0x0, 0x0, 0x0, 0x0, 0x0, 0xf, 0x0⟩ -- R447
  | .MB_DATA => ⟨0x102020, [(0x40, 64), (0x4, 8)], false, false, 0x0, 0x0, 0xffffffff, 0x0, 0x0, 0x0, 0x0⟩ -- R447
  | .SPD_BANK_CFG => ⟨0x103000, [(0x10, 32)], false, false, 0x1000, 0x0, 0xe0003f00, 0x0, 0x0, 0x0, 0x0⟩ -- R448
  | .SPD_BANK_STAT => ⟨0x103004, [(0x10, 32)], false, false, 0x0, 0xf01ff007, 0x0, 0x0, 0x0, 0x0, 0x0⟩ -- R448
  | .SPD_BANK_BIST => ⟨0x103008, [(0x10, 32)], false, false, 0x0, 0x0, 0x0, 0x0, 0xffffffff, 0x0, 0x0⟩ -- R448
  | .SPD_CONFLICT => ⟨0x103400, [(0x8, 64)], true, false, 0x0, 0xffffffffffffffff, 0x0, 0x0, 0x0, 0x0, 0x0⟩ -- R443
  | .PWR_STATUS => ⟨0x200000, [], false, false, 0x0, 0xf7000000, 0x0, 0x8000000, 0x0, 0x0, 0x0⟩ -- R498
  | .PWR_CAP => ⟨0x200004, [], false, false, 0x604, 0x0, 0x7ff, 0x0, 0x0, 0x0, 0x0⟩ -- R498
  | .PWR_BMC_CAP => ⟨0x200008, [], false, false, 0x604, 0x0, 0x7ff, 0x0, 0x0, 0x0, 0x0⟩ -- R498
  | .PWR_CAP_CFG => ⟨0x20000c, [], false, false, 0x2828, 0x0, 0xffff, 0x0, 0x0, 0x0, 0x0⟩ -- R498
  | .PWR_CAP_NOW => ⟨0x200010, [], false, false, 0x6040604, 0x7ff07ff, 0x0, 0x0, 0x0, 0x0, 0x0⟩ -- R498
  | .PWR_VIN => ⟨0x200014, [], false, false, 0x0, 0xffff, 0x0, 0x0, 0x0, 0x0, 0x0⟩ -- R498
  | .PWR_POWER => ⟨0x200018, [], false, false, 0x0, 0xffffffff, 0x0, 0x0, 0x0, 0x0, 0x0⟩ -- R498
  | .PWR_THERM => ⟨0x20001c, [], false, false, 0x604, 0xffff07ff, 0x0, 0x0, 0x0, 0x0, 0x0⟩ -- R498
  | .PWR_DROOP_CFG => ⟨0x200020, [], false, false, 0x32, 0x0, 0x7f, 0x0, 0x0, 0x0, 0x0⟩ -- R498
  | .PWR_DROOP_CNT => ⟨0x200024, [], false, false, 0x0, 0x0, 0x0, 0x0, 0xffffffff, 0x0, 0x0⟩ -- R498
  | .PWR_DROOP_MAX => ⟨0x200028, [], false, false, 0x0, 0x0, 0x0, 0x0, 0xffffffff, 0x0, 0x0⟩ -- R498
  | .PWR_HINT_CFG => ⟨0x200030, [], false, false, 0x3e8, 0x0, 0xffff, 0x0, 0x0, 0x0, 0x0⟩ -- R499
  | .PWR_HINT_STAT => ⟨0x200034, [], false, false, 0x0, 0xe000001f, 0x0, 0x0, 0x0, 0x0, 0x0⟩ -- R499
  | .PWR_HINT_START_NS => ⟨0x200040, [], false, false, 0x0, 0x0, 0x3fffffff, 0x0, 0x0, 0x0, 0x0⟩ -- R497
  | .PWR_HINT_START_SEC_LO => ⟨0x200044, [], false, false, 0x0, 0x0, 0xffffffff, 0x0, 0x0, 0x0, 0x0⟩ -- R497
  | .PWR_HINT_START_SEC_HI => ⟨0x200048, [], false, false, 0x0, 0x0, 0xffff, 0x0, 0x0, 0x0, 0x0⟩ -- R497
  | .PWR_HINT_DURATION => ⟨0x20004c, [], false, false, 0x0, 0x0, 0xffffffff, 0x0, 0x0, 0x0, 0x0⟩ -- R499
  | .PWR_HINT_LOAD => ⟨0x200050, [], false, false, 0x0, 0x0, 0xffff007f, 0x0, 0x0, 0x0, 0x0⟩ -- R499
  | .PWR_HINT_PUSH => ⟨0x200054, [], false, false, 0x0, 0x0, 0x0, 0x0, 0x0, 0xc0000000, 0x0⟩ -- R499
  | .PWR_SENSOR => ⟨0x200080, [(0x4, 32)], false, false, 0x0, 0x800000ff, 0x0, 0x0, 0x0, 0x0, 0x0⟩ -- R499
  | .PWR_DOM_CMD => ⟨0x200100, [(0x4, 96)], false, false, 0x0, 0x0, 0xfc000000, 0x0, 0x0, 0x0, 0x0⟩ -- R500
  | .PWR_DOM_STAT => ⟨0x200300, [(0x4, 96)], false, false, 0x0, 0xf800ffff, 0x0, 0x0, 0x0, 0x0, 0x0⟩ -- R500
  | .PWR_PIPE_CFG => ⟨0x200500, [(0x4, 16)], false, false, 0x3800000, 0x0, 0xffc00000, 0x0, 0x0, 0x0, 0x0⟩ -- R500
  | .PWR_PIPE_STAT => ⟨0x200540, [(0x4, 16)], false, false, 0x0, 0xffe00000, 0x0, 0x0, 0x0, 0x0, 0x0⟩ -- R500
  | .PWR_PIPE_OVERRUN => ⟨0x200580, [(0x4, 16)], false, false, 0x0, 0x0, 0x0, 0x0, 0xffffffff, 0x0, 0x0⟩ -- R500
  | .PWR_EVT_POP0 => ⟨0x200800, [], false, true, 0x0, 0x0, 0x0, 0x0, 0xffffffff, 0x0, 0x0⟩ -- R496
  | .PWR_EVT_POP => ⟨0x200804, [(0x4, 3)], false, true, 0x0, 0xffffffff, 0x0, 0x0, 0x0, 0x0, 0x0⟩ -- R496
  | .PWR_EVT_STAT => ⟨0x200810, [], false, false, 0x0, 0x7f, 0x0, 0x0, 0xffff0000, 0x0, 0x0⟩ -- R499
  | .PWR_ENERGY => ⟨0x201000, [(0x8, 66)], true, false, 0x0, 0xffffffffffffffff, 0x0, 0x0, 0x0, 0x0, 0x0⟩ -- R497
  | .TIME_CTRL => ⟨0x300000, [], false, false, 0x0, 0x0, 0xf0000, 0x0, 0x0, 0xc0000000, 0x0⟩ -- R156
  | .TIME_STATUS => ⟨0x300004, [], false, false, 0x0, 0xf8000000, 0x0, 0x4000000, 0x0, 0x0, 0x0⟩ -- R156
  | .TIME_EPOCH => ⟨0x300008, [], false, false, 0x0, 0xffffffff, 0x0, 0x0, 0x0, 0x0, 0x0⟩ -- R156
  | .TIME_STEP_CTRL => ⟨0x30000c, [], false, false, 0x0, 0x70000, 0x20000000, 0x0, 0xffff, 0xc0000000, 0x0⟩ -- R157
  | .TIME_STEP_NS => ⟨0x300010, [], false, false, 0x0, 0x0, 0x3fffffff, 0x0, 0x0, 0x0, 0x0⟩ -- R157
  | .TIME_STEP_SEC_LO => ⟨0x300014, [], false, false, 0x0, 0x0, 0xffffffff, 0x0, 0x0, 0x0, 0x0⟩ -- R157
  | .TIME_STEP_SEC_HI => ⟨0x300018, [], false, false, 0x0, 0x0, 0x1ffff, 0x0, 0x0, 0x0, 0x0⟩ -- R157
  | .TIME_NOW_NS => ⟨0x300020, [], false, false, 0x0, 0x3fffffff, 0x0, 0x0, 0x0, 0x0, 0x0⟩ -- R158
  | .TIME_NOW_SEC_LO => ⟨0x300024, [], false, true, 0x0, 0xffffffff, 0x0, 0x0, 0x0, 0x0, 0x0⟩ -- R158
  | .TIME_NOW_SEC_HI => ⟨0x300028, [], false, true, 0x0, 0xffffffff, 0x0, 0x0, 0x0, 0x0, 0x0⟩ -- R158
  | .TIME_NOW_LAP_LO => ⟨0x30002c, [], false, true, 0x0, 0xffffffff, 0x0, 0x0, 0x0, 0x0, 0x0⟩ -- R158
  | .TIME_NOW_LAP_HI => ⟨0x300030, [], false, true, 0x0, 0x3fff, 0x0, 0x0, 0x0, 0x0, 0x0⟩ -- R158
  | .TIME_NOW_SHORT => ⟨0x300034, [], false, true, 0x0, 0xffffffff, 0x0, 0x0, 0x0, 0x0, 0x0⟩ -- R158
  | .TIME_RATE => ⟨0x300040, [], true, false, 0x1400000000000, 0x0, 0xffffffffffffffff, 0x0, 0x0, 0x0, 0x0⟩ -- R159
  | .TIME_SLEW => ⟨0x300048, [], false, false, 0x0, 0x0, 0xffffffff, 0x0, 0x0, 0x0, 0x0⟩ -- R159
  | .TIME_SLEW_RATE => ⟨0x30004c, [], false, false, 0x186a0, 0x0, 0x7ffff, 0x0, 0x0, 0x0, 0x0⟩ -- R159
  | .TIME_ERR_BASE => ⟨0x300050, [], false, false, 0x0, 0x0, 0xffffffff, 0x0, 0x0, 0x0, 0x0⟩ -- R159
  | .TIME_ERR_GROWTH => ⟨0x300054, [], false, false, 0x2710, 0x0, 0xffffffff, 0x0, 0x0, 0x0, 0x0⟩ -- R159
  | .TIME_ERR_AGEING => ⟨0x300058, [], false, false, 0x64, 0x0, 0xffffffff, 0x0, 0x0, 0x0, 0x0⟩ -- R159
  | .TIME_ERR_BOUND => ⟨0x30005c, [], false, false, 0xffffffff, 0xffffffff, 0x0, 0x0, 0x0, 0x0, 0x0⟩ -- R159
  | .TIME_HOLD_CFG => ⟨0x300060, [], false, false, 0x6407d0, 0x0, 0xffffffff, 0x0, 0x0, 0x0, 0x0⟩ -- R159
  | .TIME_PTP_DOM => ⟨0x300100, [(0x4, 4)], false, false, 0x700, 0x0, 0xf00007ff, 0x0, 0x0, 0x0, 0x0⟩ -- R160
  | .TIME_PTP_CNT => ⟨0x300120, [(0x4, 5)], false, false, 0x0, 0x0, 0x0, 0x0, 0xffffffff, 0x0, 0x0⟩ -- R162
  | .TIME_SPLIT_MAP => ⟨0x300200, [(0x4, 64)], false, false, 0x0, 0x0, 0x800007ff, 0x0, 0x0, 0x0, 0x0⟩ -- R161
  | .TIME_PIN_CFG => ⟨0x300400, [(0x40, 8)], false, false, 0x4000000, 0xe00000, 0xfe00ffff, 0x0, 0x0, 0x1000000, 0x0⟩ -- R163
  | .TIME_PIN_T_NS => ⟨0x300404, [(0x40, 8)], false, false, 0x0, 0x0, 0x3fffffff, 0x0, 0x0, 0x0, 0x0⟩ -- R163
  | .TIME_PIN_T_SEC_LO => ⟨0x300408, [(0x40, 8)], false, false, 0x0, 0x0, 0xffffffff, 0x0, 0x0, 0x0, 0x0⟩ -- R163
  | .TIME_PIN_T_SEC_HI => ⟨0x30040c, [(0x40, 8)], false, false, 0x0, 0x0, 0xffff, 0x0, 0x0, 0x0, 0x0⟩ -- R163
  | .TIME_PIN_PERIOD => ⟨0x300410, [(0x40, 8)], false, false, 0x3b9aca00, 0x0, 0xffffffff, 0x0, 0x0, 0x0, 0x0⟩ -- R163
  | .TIME_PIN_WIDTH => ⟨0x300414, [(0x40, 8)], false, false, 0x5f5e100, 0x0, 0xffffffff, 0x0, 0x0, 0x0, 0x0⟩ -- R163
  | .TIME_PIN_CAP_NS => ⟨0x300418, [(0x40, 8)], false, false, 0x0, 0x0, 0x0, 0x0, 0xbfffffff, 0x0, 0x0⟩ -- R163
  | .TIME_PIN_CAP_SEC_LO => ⟨0x30041c, [(0x40, 8)], false, true, 0x0, 0xffffffff, 0x0, 0x0, 0x0, 0x0, 0x0⟩ -- R163
  | .TIME_PIN_CAP_SEC_HI => ⟨0x300420, [(0x40, 8)], false, true, 0x0, 0xffffffff, 0x0, 0x0, 0x0, 0x0, 0x0⟩ -- R163
  | .TIME_PIN_CAP_STAT => ⟨0x300424, [(0x40, 8)], false, false, 0x0, 0x1f, 0x0, 0x0, 0xffffff00, 0x0, 0x0⟩ -- R163
  | .TIME_ALARM_CFG => ⟨0x300800, [(0x10, 16)], false, false, 0x3f, 0x2000003f, 0x80000000, 0x40000000, 0x0, 0x0, 0x0⟩ -- R164
  | .TIME_ALARM_T_NS => ⟨0x300804, [(0x10, 16)], false, false, 0x0, 0x0, 0x3fffffff, 0x0, 0x0, 0x0, 0x0⟩ -- R164
  | .TIME_ALARM_T_SEC_LO => ⟨0x300808, [(0x10, 16)], false, false, 0x0, 0x0, 0xffffffff, 0x0, 0x0, 0x0, 0x0⟩ -- R164
  | .TIME_ALARM_T_SEC_HI => ⟨0x30080c, [(0x10, 16)], false, false, 0x0, 0x0, 0xffff, 0x0, 0x0, 0x0, 0x0⟩ -- R164
  | .TIME_TXQ_POP_LO => ⟨0x301000, [(0x10, 16)], false, false, 0x0, 0x0, 0x0, 0x0, 0xffffffff, 0x0, 0x0⟩ -- R165
  | .TIME_TXQ_POP_HI => ⟨0x301004, [(0x10, 16)], false, true, 0x0, 0xffffffff, 0x0, 0x0, 0x0, 0x0, 0x0⟩ -- R165
  | .TIME_TXQ_STAT => ⟨0x301008, [(0x10, 16)], false, false, 0x0, 0x7f000000, 0x0, 0x80000000, 0xffffff, 0x0, 0x0⟩ -- R165
  | .TIME_TXQ_CTRL => ⟨0x30100c, [(0x10, 16)], false, false, 0x10, 0x0, 0x7f, 0x0, 0x0, 0x80000000, 0x0⟩ -- R165
  | .TIME_PCAL => ⟨0x302000, [(0x4, 1024)], false, false, 0x0, 0x0, 0xffffffff, 0x0, 0x0, 0x0, 0x0⟩ -- R161
  | .TIME_LINK_DELAY => ⟨0x303000, [(0x4, 1024)], false, false, 0x0, 0x0, 0xffffffff, 0x0, 0x0, 0x0, 0x0⟩ -- R161
  | .EV_CTRL => ⟨0x400000, [], false, false, 0x0, 0x0, 0x1, 0x0, 0x0, 0x0, 0x0⟩ -- R226
  | .EV_STATUS => ⟨0x400004, [], false, false, 0x0, 0xc03fffff, 0x0, 0x0, 0x0, 0x0, 0x0⟩ -- R226
  | .EV_SEAL_CFG => ⟨0x400008, [], false, false, 0x2710, 0x0, 0xfffff, 0x0, 0x0, 0x0, 0x0⟩ -- R226
  | .EV_TAG_CFG => ⟨0x40000c, [], false, false, 0x88b6, 0x0, 0xffff, 0x0, 0x0, 0x0, 0x0⟩ -- R226
  | .EV_SEAL_NUM => ⟨0x400010, [], true, false, 0x0, 0xffffffffffffffff, 0x0, 0x0, 0x0, 0x0, 0x0⟩ -- R227
  | .EV_REC_NUM => ⟨0x400018, [], true, false, 0x0, 0xffffffffffffffff, 0x0, 0x0, 0x0, 0x0, 0x0⟩ -- R227
  | .EV_SERIAL => ⟨0x400020, [], true, false, 0x0, 0xffffffffffffffff, 0x0, 0x0, 0x0, 0x0, 0x0⟩ -- R227
  | .EV_ATTEST_CTRL => ⟨0x400028, [], false, false, 0x0, 0x40000000, 0x0, 0x20000000, 0x0, 0x80000000, 0x0⟩ -- R227
  | .EV_MEAS => ⟨0x400040, [(0x4, 8)], false, false, 0x0, 0xffffffff, 0x0, 0x0, 0x0, 0x0, 0x0⟩ -- R227
  | .EV_ROOT_DIGEST => ⟨0x400060, [(0x4, 8)], false, false, 0x0, 0xffffffff, 0x0, 0x0, 0x0, 0x0, 0x0⟩ -- R227
  | .EV_ATTEST_NONCE => ⟨0x400080, [(0x4, 8)], false, false, 0x0, 0x0, 0xffffffff, 0x0, 0x0, 0x0, 0x0⟩ -- R227
  | .EV_ATTEST_SIG => ⟨0x4000a0, [(0x4, 16)], false, false, 0x0, 0xffffffff, 0x0, 0x0, 0x0, 0x0, 0x0⟩ -- R227
  | .EV_SEAL_LAST => ⟨0x400100, [(0x4, 64)], false, false, 0x0, 0xffffffff, 0x0, 0x0, 0x0, 0x0, 0x0⟩ -- R227
  | .EV_SESS_SEL => ⟨0x400200, [], false, true, 0x0, 0x0, 0x7fff, 0x0, 0x0, 0x0, 0x0⟩ -- R228
  | .EV_SESS_CMD => ⟨0x400204, [], false, true, 0x0, 0xe0000000, 0x0, 0x0, 0x0, 0x3, 0x0⟩ -- R228
  | .EV_SESS_DATA => ⟨0x400300, [(0x4, 64)], false, true, 0x0, 0x0, 0xffffffff, 0x0, 0x0, 0x0, 0x0⟩ -- R228
  | .EV_CERT_SEL => ⟨0x400400, [], false, false, 0x0, 0x0, 0x1, 0x0, 0x0, 0x0, 0x0⟩ -- R227
  | .EV_CERT_LEN => ⟨0x400404, [], false, false, 0x0, 0x1fff, 0x0, 0x0, 0x0, 0x0, 0x0⟩ -- R227
  | .EV_CERT_DATA => ⟨0x401000, [(0x4, 1024)], false, false, 0x0, 0xffffffff, 0x0, 0x0, 0x0, 0x0, 0x0⟩ -- R227
  | .EV_TAG_PORT => ⟨0x402000, [(0x4, 1024)], false, false, 0x0, 0x0, 0x3, 0x0, 0xffff00, 0x0, 0x0⟩ -- R229
  | .EV_PART_CFG => ⟨0x410000, [(0x40, 64)], false, false, 0x3fa, 0x0, 0x80000000, 0x0, 0x0, 0x0, 0xfff⟩ -- R230
  | .EV_PART_STATUS => ⟨0x410004, [(0x40, 64)], false, false, 0x0, 0x803fffff, 0x0, 0x0, 0x0, 0x0, 0x0⟩ -- R230
  | .EV_PART_WRPOS => ⟨0x410008, [(0x40, 64)], true, false, 0x0, 0xffffffffffffffff, 0x0, 0x0, 0x0, 0x0, 0x0⟩ -- R230
  | .EV_PART_RELPOS => ⟨0x410010, [(0x40, 64)], true, false, 0x0, 0xffffffffffffffff, 0x0, 0x0, 0x0, 0x0, 0x0⟩ -- R230
  | .EV_PART_OVERWRITTEN => ⟨0x410018, [(0x40, 64)], true, false, 0x0, 0xffffffffffffffff, 0x0, 0x0, 0x0, 0x0, 0x0⟩ -- R230
  | .EV_PART_UNJOURNALED => ⟨0x410020, [(0x40, 64)], true, false, 0x0, 0xffffffffffffffff, 0x0, 0x0, 0x0, 0x0, 0x0⟩ -- R230
  | .EV_STR_CFG => ⟨0x420000, [(0x40, 64)], false, false, 0x4000000, 0x0, 0xe70007ff, 0x0, 0x0, 0x0, 0x0⟩ -- R231
  | .EV_STR_RATE => ⟨0x420004, [(0x40, 64)], false, false, 0x2710, 0x0, 0x7ffff, 0x0, 0x0, 0x0, 0x0⟩ -- R231
  | .EV_STR_MAC_LO => ⟨0x420008, [(0x40, 64)], false, false, 0x0, 0x0, 0xffffffff, 0x0, 0x0, 0x0, 0x0⟩ -- R231
  | .EV_STR_MAC_HI => ⟨0x42000c, [(0x40, 64)], false, false, 0x0, 0x0, 0x1fffffff, 0x0, 0x0, 0x0, 0x0⟩ -- R231
  | .EV_STR_DST_IP => ⟨0x420010, [(0x40, 64), (0x4, 4)], false, false, 0x0, 0x0, 0xffffffff, 0x0, 0x0, 0x0, 0x0⟩ -- R231
  | .EV_STR_SRC_IP => ⟨0x420020, [(0x40, 64), (0x4, 4)], false, false, 0x0, 0x0, 0xffffffff, 0x0, 0x0, 0x0, 0x0⟩ -- R231
  | .EV_STR_UDP => ⟨0x420030, [(0x40, 64)], false, false, 0xc352c353, 0x0, 0xffffffff, 0x0, 0x0, 0x0, 0x0⟩ -- R231
  | .EV_STR_WINDOW => ⟨0x420034, [(0x40, 64)], false, false, 0x0, 0xffffff, 0x0, 0x0, 0xff000000, 0x0, 0x0⟩ -- R231
  | .EV_STR_SENDPOS => ⟨0x420038, [(0x40, 64)], true, false, 0x0, 0xffffffffffffffff, 0x0, 0x0, 0x0, 0x0, 0x0⟩ -- R231
  | .FIN_CTRL => ⟨0x500000, [], false, false, 0x0, 0x0, 0x1, 0x0, 0x0, 0x0, 0x0⟩ -- R187
  | .FIN_TIE_SEED => ⟨0x500008, [], true, false, 0x0, 0xffffffffffffffff, 0x0, 0x0, 0x0, 0x0, 0x0⟩ -- R187
  | .FIN_ENTRIES => ⟨0x500010, [], false, false, 0x10000, 0x1ffff, 0x0, 0x0, 0x0, 0x0, 0x0⟩ -- R187
  | .FIN_GRP_CFG => ⟨0x500100, [(0x20, 64)], false, false, 0x0, 0x0, 0xff0307ff, 0x0, 0x0, 0x0, 0x0⟩ -- R188
  | .FIN_GRP_WINDOW => ⟨0x500104, [(0x20, 64)], false, false, 0x3e8, 0x0, 0xfff, 0x0, 0x0, 0x0, 0x0⟩ -- R188
  | .FIN_GRP_HELD => ⟨0x500108, [(0x20, 64)], false, false, 0x4000000, 0xffff, 0xffff0000, 0x0, 0x0, 0x0, 0x0⟩ -- R188
  | .FIN_GRP_SLACK => ⟨0x50010c, [(0x20, 64)], false, false, 0xffffffff, 0xffffffff, 0x0, 0x0, 0x0, 0x0, 0x0⟩ -- R188
  | .FIN_GRP_LAST_NS => ⟨0x500110, [(0x20, 64)], false, false, 0x0, 0xffffffff, 0x0, 0x0, 0x0, 0x0, 0x0⟩ -- R188
  | .FIN_GRP_LAST_TIE => ⟨0x500114, [(0x20, 64)], false, false, 0x0, 0xffffffff, 0x0, 0x0, 0x0, 0x0, 0x0⟩ -- R188
  | .FIN_CNT => ⟨0x501000, [(0x40, 64), (0x8, 8)], true, false, 0x0, 0xffffffffffffffff, 0x0, 0x0, 0x0, 0x0, 0x0⟩ -- R190
  | .FIN_LAG_MAX => ⟨0x502000, [(0x4, 1024)], false, false, 0x0, 0x0, 0x0, 0x0, 0xffffffff, 0x0, 0x0⟩ -- R189
  | .STG_CTRL => ⟨0x580000, [], false, false, 0x40, 0x0, 0x1ff, 0x0, 0x0, 0x0, 0x0⟩ -- R191
  | .STG_GRP_CFG => ⟨0x580100, [(0x10, 256)], false, false, 0x0, 0x0, 0xe0ff3fff, 0x0, 0x0, 0x0, 0x0⟩ -- R191
  | .STG_GRP_DELAY => ⟨0x580104, [(0x10, 256)], false, false, 0x0, 0x0, 0xffffff, 0x0, 0x0, 0x0, 0x0⟩ -- R191
  | .STG_GRP_GUARD => ⟨0x580108, [(0x10, 256)], false, false, 0x10, 0x0, 0xfff, 0x0, 0x0, 0x0, 0x0⟩ -- R191
  | .STG_MEMBERS => ⟨0x582000, [(0x80, 256), (0x4, 32)], false, false, 0x0, 0x0, 0xffffffff, 0x0, 0x0, 0x0, 0x0⟩ -- R192
  | .STG_TRIM => ⟨0x58a000, [(0x4, 1024)], false, false, 0x0, 0x0, 0xffff, 0x0, 0x0, 0x0, 0x0⟩ -- R192
  | .STG_PORT_STAT => ⟨0x58b000, [(0x4, 1024)], false, false, 0x0, 0x7f0000, 0x0, 0x0, 0xffff, 0x0, 0x0⟩ -- R192
  | .STG_CNT => ⟨0x590000, [(0x40, 256), (0x8, 8)], true, false, 0x0, 0xffffffffffffffff, 0x0, 0x0, 0x0, 0x0, 0x0⟩ -- R193
  | .ADM_CTRL => ⟨0x600000, [], false, false, 0x20000, 0x0, 0xff0001, 0x0, 0x0, 0x0, 0x0⟩ -- R68
  | .ADM_ALIGN => ⟨0x600004, [], false, false, 0x0, 0x0, 0x1ff, 0x0, 0x0, 0x0, 0x0⟩ -- R69
  | .ADM_ALIGN_LATE => ⟨0x600008, [], false, false, 0x0, 0x0, 0x0, 0x0, 0xffffffff, 0x0, 0x0⟩ -- R69
  | .ADM_NOTICE_CTRL => ⟨0x600010, [], false, false, 0x80400400, 0x0, 0xbfff0700, 0x0, 0x0, 0x0, 0x0⟩ -- R70
  | .ADM_NOTICE_SPORT => ⟨0x600014, [], false, false, 0xc350, 0x0, 0xffff, 0x0, 0x0, 0x0, 0x0⟩ -- R71
  | .ADM_NOTICE_LEVEL => ⟨0x600018, [], false, false, 0x0, 0x1fff, 0x0, 0x0, 0x0, 0x0, 0x0⟩ -- R71
  | .ADM_NOTICE_QFULL => ⟨0x600020, [], true, false, 0x0, 0xffffffffffffffff, 0x0, 0x0, 0x0, 0x0, 0x0⟩ -- R71
  | .ADM_PIPE_DERATE => ⟨0x600100, [(0x4, 16)], false, false, 0x0, 0x0, 0xc000ffff, 0x0, 0x0, 0x0, 0x0⟩ -- R72
  | .ADM_BOUND => ⟨0x610000, [(0x4, 4128)], false, false, 0x0, 0x0, 0xffffff, 0x0, 0x0, 0x0, 0x0⟩ -- R73
  | .ADM_RSV_RATE => ⟨0x620000, [(0x4, 4128)], false, false, 0x0, 0x0, 0x1fffff, 0x0, 0x0, 0x0, 0x0⟩ -- R73
  | .ADM_RSV_BURST => ⟨0x630000, [(0x4, 4128)], false, false, 0x0, 0x0, 0xfffff, 0x0, 0x0, 0x0, 0x0⟩ -- R73
  | .ADM_POLICY => ⟨0x640000, [(0x4, 4128)], false, false, 0x2, 0x0, 0xfd33, 0x0, 0x0, 0x0, 0x0⟩ -- R73
  | .ADM_PORT_STATE => ⟨0x650000, [(0x4, 1032)], false, false, 0x0, 0xf, 0x0, 0x0, 0x0, 0x0, 0x0⟩ -- R74
  | .ADM_NOTICE_SRC4 => ⟨0x660000, [(0x4, 64)], false, false, 0x0, 0x0, 0xffffffff, 0x0, 0x0, 0x0, 0x0⟩ -- R71
  | .ADM_NOTICE_SRC6 => ⟨0x660100, [(0x10, 64), (0x4, 4)], false, false, 0x0, 0x0, 0xffffffff, 0x0, 0x0, 0x0, 0x0⟩ -- R71
  | .ADM_NOTICE_DPORT => ⟨0x660500, [(0x4, 64)], false, false, 0xc351, 0x0, 0xffff, 0x0, 0x0, 0x0, 0x0⟩ -- R71
  | .ADM_BE_MTU => ⟨0x670000, [(0x4, 1024)], false, false, 0x2400, 0x0, 0x3fff, 0x0, 0x0, 0x0, 0x0⟩ -- R551
  | .ADM_CNT => ⟨0x680000, [(0x40, 4128), (0x8, 8)], true, false, 0x0, 0xffffffffffffffff, 0x0, 0x0, 0x0, 0x0, 0x0⟩ -- R67
  | .PIPE_UCODE_ROM => ⟨0x1000000, [(0x100000, 16)], false, false, 0xb00007, 0xffffffff, 0x0, 0x0, 0x0, 0x0, 0x0⟩ -- R261
  | .PIPE_UCODE_PATCH => ⟨0x1000004, [(0x100000, 16)], false, false, 0x0, 0xffff83ff, 0x0, 0x0, 0x0, 0x0, 0x0⟩ -- R261
  | .PIPE_PATCH_SRC => ⟨0x1000010, [(0x100000, 16)], false, false, 0x0, 0x0, 0xffffff, 0x0, 0x0, 0x0, 0x0⟩ -- R261
  | .PIPE_PATCH_CTRL => ⟨0x1000014, [(0x100000, 16)], false, false, 0x0, 0x47000000, 0x0, 0x0, 0x0, 0x80000000, 0x0⟩ -- R261
  | .PIPE_PARSE_ERR => ⟨0x1000020, [(0x100000, 16), (0x4, 6)], false, false, 0x0, 0x0, 0x0, 0x0, 0xffffffff, 0x0, 0x0⟩ -- R264
  | .PIPE_PATCH_MATCH => ⟨0x1000100, [(0x100000, 16), (0x4, 32)], false, false, 0x0, 0x807fffff, 0x0, 0x0, 0x0, 0x0, 0x0⟩ -- R261
  | .PIPE_PARSE_CONST => ⟨0x1000200, [(0x100000, 16), (0x4, 32)], false, false, 0x0, 0x0, 0xffffffff, 0x0, 0x0, 0x0, 0x0⟩ -- R261
  | .PIPE_SLOW_CFG => ⟨0x1000304, [(0x100000, 16), (0x4, 7)], false, false, 0x0, 0x0, 0x3, 0x0, 0x0, 0x0, 0x0⟩ -- R262
  | .PIPE_ETYPE => ⟨0x1000340, [(0x100000, 16), (0x4, 8)], false, false, 0x20000, 0x0, 0x8003ffff, 0x0, 0x0, 0x0, 0x0⟩ -- R262
  | .PIPE_TRAP_CFG => ⟨0x1000404, [(0x100000, 16), (0x4, 31)], false, false, 0x80000064, 0x0, 0xb0ffffff, 0x0, 0x0, 0x0, 0x0⟩ -- R262
  | .PIPE_PORT_CFG => ⟨0x1001000, [(0x100000, 16), (0x10, 65)], false, false, 0x80000000, 0x0, 0xe03fc03f, 0x0, 0x0, 0x0, 0x0⟩ -- R263
  | .PIPE_PORT_DEFAULT => ⟨0x1001004, [(0x100000, 16), (0x10, 65)], false, false, 0x0, 0x0, 0xfc0007ff, 0x0, 0x0, 0x0, 0x0⟩ -- R263
  | .PIPE_PORT_MIRROR => ⟨0x1001008, [(0x100000, 16), (0x10, 65)], false, false, 0x0, 0x0, 0xfff07ff, 0x0, 0x0, 0x0, 0x0⟩ -- R263
  | .PIPE_PORT_CNT => ⟨0x1002000, [(0x100000, 16), (0x40, 65), (0x8, 8)], true, false, 0x0, 0xffffffffffffffff, 0x0, 0x0, 0x0, 0x0, 0x0⟩ -- R265
  | .PIPE_QSCHED => ⟨0x1010000, [(0x100000, 16), (0x4, 520)], false, false, 0x2800, 0x0, 0xffff, 0x0, 0x0, 0x0, 0x0⟩ -- R323
  | .PIPE_QPACER_RATE => ⟨0x1012000, [(0x100000, 16), (0x8, 520)], false, false, 0x80000000, 0x0, 0xc01fffff, 0x0, 0x0, 0x0, 0x0⟩ -- R323
  | .PIPE_QPACER_BURST => ⟨0x1012004, [(0x100000, 16), (0x8, 520)], false, false, 0x4000, 0x0, 0xfffff, 0x0, 0x0, 0x0, 0x0⟩ -- R323
  | .PIPE_PPACER_RATE => ⟨0x1014000, [(0x100000, 16), (0x8, 65)], false, false, 0x80000000, 0x0, 0xc01fffff, 0x0, 0x0, 0x0, 0x0⟩ -- R323
  | .PIPE_PPACER_BURST => ⟨0x1014004, [(0x100000, 16), (0x8, 65)], false, false, 0x4000, 0x0, 0xfffff, 0x0, 0x0, 0x0, 0x0⟩ -- R323
  | .PIPE_ECN_CFG => ⟨0x1015000, [(0x100000, 16), (0x8, 520)], false, false, 0x20, 0x0, 0xc00000ff, 0x0, 0x0, 0x0, 0x0⟩ -- R324
  | .PIPE_ECN_THR => ⟨0x1015004, [(0x100000, 16), (0x8, 520)], false, false, 0x10000400, 0x0, 0xffffffff, 0x0, 0x0, 0x0, 0x0⟩ -- R324
  | .PIPE_PFC_CFG => ⟨0x1017000, [(0x100000, 16), (0x10, 65)], false, false, 0xfac688, 0x0, 0xc0ffffff, 0x0, 0x0, 0x0, 0x0⟩ -- R324
  | .PIPE_PFC_TXMAP => ⟨0x1017004, [(0x100000, 16), (0x10, 65)], false, false, 0xfac, 0x0, 0xfff, 0x0, 0x0, 0x0, 0x0⟩ -- R324
  | .PIPE_PFC_TIMING => ⟨0x1017008, [(0x100000, 16), (0x10, 65)], false, false, 0xffff7fff, 0x0, 0xffffffff, 0x0, 0x0, 0x0, 0x0⟩ -- R324
  | .PIPE_PFC_STATE => ⟨0x101700c, [(0x100000, 16), (0x10, 65)], false, false, 0x0, 0xf0f0, 0x0, 0x0, 0x0, 0x0, 0x0⟩ -- R324
  | .PIPE_PFC_THR_XOFF => ⟨0x1018000, [(0x100000, 16), (0x8, 260)], false, false, 0xfffff, 0x0, 0xfffff, 0x0, 0x0, 0x0, 0x0⟩ -- R324
  | .PIPE_PFC_THR_XON => ⟨0x1018004, [(0x100000, 16), (0x8, 260)], false, false, 0xfffff, 0x0, 0xfffff, 0x0, 0x0, 0x0, 0x0⟩ -- R324
  | .PIPE_PORT_QOS => ⟨0x1019000, [(0x100000, 16), (0x4, 65)], false, false, 0x0, 0x0, 0x8000ffff, 0x0, 0x0, 0x0, 0x0⟩ -- R325
  | .PIPE_METER_CFG => ⟨0x1020000, [(0x100000, 16), (0x20, 4096)], false, false, 0x200000, 0x0, 0xf8f00000, 0x0, 0x0, 0x0, 0x0⟩ -- R325
  | .PIPE_METER_CIR => ⟨0x1020004, [(0x100000, 16), (0x20, 4096)], false, false, 0x0, 0x0, 0x1fffff, 0x0, 0x0, 0x0, 0x0⟩ -- R325
  | .PIPE_METER_PIR => ⟨0x1020008, [(0x100000, 16), (0x20, 4096)], false, false, 0x0, 0x0, 0x1fffff, 0x0, 0x0, 0x0, 0x0⟩ -- R325
  | .PIPE_METER_CBS => ⟨0x102000c, [(0x100000, 16), (0x20, 4096)], false, false, 0x0, 0x0, 0xfffff, 0x0, 0x0, 0x0, 0x0⟩ -- R325
  | .PIPE_METER_EBS_PBS => ⟨0x1020010, [(0x100000, 16), (0x20, 4096)], false, false, 0x0, 0x0, 0xfffff, 0x0, 0x0, 0x0, 0x0⟩ -- R325
  | .PIPE_METER_DSCP => ⟨0x1020014, [(0x100000, 16), (0x20, 4096)], false, false, 0x0, 0x0, 0x3f3f, 0x0, 0x0, 0x0, 0x0⟩ -- R325
  | .PIPE_METER_CNT => ⟨0x1040000, [(0x100000, 16), (0x20, 4096), (0x8, 3)], true, false, 0x0, 0xffffffffffffffff, 0x0, 0x0, 0x0, 0x0, 0x0⟩ -- R327
  | .PIPE_QCNT => ⟨0x1080000, [(0x100000, 16), (0x20, 520), (0x8, 4)], true, false, 0x0, 0xffffffffffffffff, 0x0, 0x0, 0x0, 0x0, 0x0⟩ -- R328
  | .PIPE_PFC_CNT => ⟨0x1090000, [(0x100000, 16), (0x40, 65), (0x8, 8)], true, false, 0x0, 0xffffffffffffffff, 0x0, 0x0, 0x0, 0x0, 0x0⟩ -- R329
  | .BUF_CTRL => ⟨0x2000000, [], false, false, 0x200, 0x0, 0x1fff, 0x0, 0x0, 0x0, 0x0⟩ -- R111
  | .BUF_TIMED_RESERVE => ⟨0x2000004, [], false, false, 0x20000, 0x0, 0x1fffff, 0x0, 0x0, 0x0, 0x0⟩ -- R111
  | .BUF_HEADROOM => ⟨0x2000008, [], false, false, 0x0, 0x0, 0xffffff, 0x0, 0x0, 0x0, 0x0⟩ -- R111
  | .BUF_SHARED_FREE => ⟨0x200000c, [], false, false, 0x0, 0x1ffffff, 0x0, 0x0, 0x0, 0x0, 0x0⟩ -- R111
  | .BUF_STATUS => ⟨0x2000010, [], false, false, 0x10000f, 0xffffff, 0x0, 0x0, 0x0, 0x0, 0x0⟩ -- R112
  | .BUF_MC_FREE_ERR => ⟨0x2000014, [], false, false, 0x0, 0x0, 0x0, 0x0, 0xffffffff, 0x0, 0x0⟩ -- R112
  | .BUF_ECC => ⟨0x2000018, [], false, false, 0x0, 0x0, 0x0, 0x0, 0xffffffff, 0x0, 0x0⟩ -- R112
  | .BUF_ALLOC_REQ => ⟨0x2000020, [], false, true, 0x0, 0x0, 0x3fff, 0x0, 0x0, 0x0, 0x0⟩ -- R113
  | .BUF_ALLOC_RESP => ⟨0x2000024, [], false, true, 0x0, 0xffffffff, 0x0, 0x0, 0x0, 0x0, 0x0⟩ -- R113
  | .BUF_FREE => ⟨0x2000028, [], false, false, 0x0, 0x0, 0x0, 0x0, 0x0, 0x1fffffff, 0x0⟩ -- R113
  | .BUF_FREE_ERR => ⟨0x200002c, [], false, false, 0x0, 0x0, 0x0, 0x0, 0xffffffff, 0x0, 0x0⟩ -- R113
  | .BUF_POOL_CFG => ⟨0x2000100, [(0x4, 6)], false, false, 0x0, 0x0, 0x0, 0x0, 0x0, 0x0, 0x3ffffff⟩ -- R114
  | .BUF_POOL_FREE => ⟨0x2000140, [(0x4, 6)], false, false, 0x0, 0x3ffffff, 0x0, 0x0, 0x0, 0x0, 0x0⟩ -- R114
  | .BUF_QUOTA => ⟨0x2000200, [(0x20, 32), (0x4, 8)], false, false, 0x0, 0x0, 0x3ffffff, 0x0, 0x0, 0x0, 0x0⟩ -- R114
  | .BUF_HELD => ⟨0x2000600, [(0x20, 32), (0x4, 8)], false, false, 0x0, 0x3ffffff, 0x0, 0x0, 0x0, 0x0, 0x0⟩ -- R114
  | .BUF_QCFG => ⟨0x2010000, [(0x4, 8256)], false, false, 0x800040, 0x0, 0x2ffffff, 0x0, 0x0, 0x0, 0x0⟩ -- R115
  | .BUF_QUSE => ⟨0x2020000, [(0x4, 8256)], false, false, 0x0, 0x81ffffff, 0x0, 0x0, 0x0, 0x0, 0x0⟩ -- R115
  | .BUF_PORT_CFG => ⟨0x2030000, [(0x4, 1032)], false, false, 0x7d0, 0x0, 0xffffffff, 0x0, 0x0, 0x0, 0x0⟩ -- R116
  | .BUF_AGE => ⟨0x2032000, [(0x4, 4128)], false, false, 0x7d0, 0x0, 0xfffff, 0x0, 0x0, 0x0, 0x0⟩ -- R117
  | .BUF_PCNT => ⟨0x2040000, [(0x40, 1032), (0x8, 8)], true, false, 0x0, 0xffffffffffffffff, 0x0, 0x0, 0x0, 0x0, 0x0⟩ -- R118
  | .TBL_CTRL => ⟨0x3000000, [], false, false, 0x40000000, 0x0, 0xe0000000, 0x0, 0x0, 0x0, 0x0⟩ -- R297
  | .TBL_LEARN_CFG => ⟨0x3000004, [], false, false, 0x3e8, 0x0, 0xfffff, 0x0, 0x0, 0x0, 0x0⟩ -- R297
  | .TBL_FLAP_CFG => ⟨0x3000008, [], false, false, 0x3c, 0x0, 0xffff, 0x0, 0x0, 0x0, 0x0⟩ -- R297
  | .TBL_AGE_CFG => ⟨0x300000c, [], false, false, 0x186a0, 0x0, 0xfffff, 0x0, 0x0, 0x0, 0x0⟩ -- R297
  | .TBL_HBM_SHED => ⟨0x3000010, [], true, false, 0x0, 0xffffffffffffffff, 0x0, 0x0, 0x0, 0x0, 0x0⟩ -- R297
  | .TBL_TRACKER_FULL => ⟨0x3000018, [], false, false, 0x0, 0x0, 0x0, 0x0, 0xffffffff, 0x0, 0x0⟩ -- R297
  | .TBL_CMD => ⟨0x3000100, [], false, true, 0x0, 0x0, 0xf00ffff, 0x0, 0x0, 0xe0000000, 0x0⟩ -- R298
  | .TBL_CMD_INDEX => ⟨0x3000104, [], false, true, 0x0, 0x0, 0xffffffff, 0x0, 0x0, 0x0, 0x0⟩ -- R298
  | .TBL_CMD_STATUS => ⟨0x3000108, [], false, true, 0x0, 0xf8000000, 0x0, 0x0, 0x0, 0x0, 0x0⟩ -- R298
  | .TBL_CMD_RESULT => ⟨0x300010c, [], false, true, 0x0, 0xffffffff, 0x0, 0x0, 0x0, 0x0, 0x0⟩ -- R298
  | .TBL_CMD_DATA => ⟨0x3000200, [(0x4, 36)], false, true, 0x0, 0x0, 0xffffffff, 0x0, 0x0, 0x0, 0x0⟩ -- R298
  | .TBL_DMA_SRC => ⟨0x3000300, [], false, false, 0x0, 0x0, 0xbfffffff, 0x0, 0x0, 0x0, 0x0⟩ -- R300
  | .TBL_DMA_COUNT => ⟨0x3000304, [], false, false, 0x0, 0x0, 0xffff, 0x0, 0x0, 0x0, 0x0⟩ -- R300
  | .TBL_DMA_CTRL => ⟨0x3000308, [], false, false, 0x0, 0x2f00ffff, 0x40000000, 0x0, 0x0, 0x80000000, 0x0⟩ -- R300
  | .TBL_DMA_CFG => ⟨0x300030c, [], false, false, 0x3e8, 0x0, 0xffff, 0x0, 0x0, 0x0, 0x0⟩ -- R300
  | .TBL_NOTICE_POP0 => ⟨0x3000400, [], false, true, 0x0, 0x0, 0x0, 0x0, 0xffffffff, 0x0, 0x0⟩ -- R301
  | .TBL_NOTICE_POP => ⟨0x3000404, [(0x4, 3)], false, true, 0x0, 0xffffffff, 0x0, 0x0, 0x0, 0x0, 0x0⟩ -- R301
  | .TBL_NOTICE_STAT => ⟨0x3000410, [], false, false, 0x0, 0x7ff, 0x0, 0x0, 0xffff0000, 0x0, 0x0⟩ -- R301
  | .TBL_ERR_POP0 => ⟨0x3000500, [], false, true, 0x0, 0x0, 0x0, 0x0, 0xffffffff, 0x0, 0x0⟩ -- R301
  | .TBL_ERR_POP => ⟨0x3000504, [(0x4, 3)], false, true, 0x0, 0xffffffff, 0x0, 0x0, 0x0, 0x0, 0x0⟩ -- R301
  | .TBL_ERR_STAT => ⟨0x3000510, [], false, false, 0x0, 0x7f, 0x0, 0x0, 0xffff0000, 0x0, 0x0⟩ -- R301
  | .TBL_OCC => ⟨0x3000800, [(0x10, 7)], false, false, 0x0, 0xffffffff, 0x0, 0x0, 0x0, 0x0, 0x0⟩ -- R302
  | .TBL_CAM => ⟨0x3000804, [(0x10, 7)], false, false, 0x0, 0x1fff, 0x0, 0x0, 0x0, 0x0, 0x0⟩ -- R302
  | .TBL_SEED => ⟨0x3000808, [(0x10, 7)], false, false, 0x0, 0x0, 0x0, 0x0, 0x0, 0x0, 0xffffffff⟩ -- R302
  | .TBL_CNT => ⟨0x3001000, [(0x40, 7), (0x8, 8)], true, false, 0x0, 0xffffffffffffffff, 0x0, 0x0, 0x0, 0x0, 0x0⟩ -- R303
  | .TBL_PORT_LEARN => ⟨0x3002000, [(0x4, 1024)], false, false, 0x0, 0x0, 0x800fffff, 0x0, 0x0, 0x0, 0x0⟩ -- R302
  | .TBL_PORT_LEARNED => ⟨0x3003000, [(0x4, 1024)], false, false, 0x0, 0xfffff, 0x0, 0x0, 0x0, 0x0, 0x0⟩ -- R302
  | .HBM_CTRL => ⟨0x4000000, [], false, false, 0x0, 0x0, 0x1, 0x0, 0x0, 0x0, 0x0⟩ -- R355
  | .HBM_STATUS => ⟨0x4000004, [], false, false, 0x40000000, 0xf00000ff, 0x0, 0x0, 0x0, 0x0, 0x0⟩ -- R355
  | .HBM_SPILL_CFG => ⟨0x4000008, [], false, false, 0x60, 0x0, 0x0, 0x0, 0x0, 0x0, 0x7f⟩ -- R355
  | .HBM_FLOOR => ⟨0x400000c, [], false, false, 0x190, 0x0, 0xfff, 0x0, 0x0, 0x0, 0x0⟩ -- R355
  | .HBM_RH_CFG => ⟨0x4000010, [], false, false, 0xc, 0x0, 0x1f, 0x0, 0x0, 0x0, 0x0⟩ -- R355
  | .HBM_SCRUB_CFG => ⟨0x4000014, [], false, false, 0x18, 0x0, 0xffff, 0x0, 0x0, 0x0, 0x0⟩ -- R355
  | .HBM_ERR_STAT => ⟨0x4000018, [], false, false, 0x0, 0x7f, 0x0, 0x80000000, 0xff0000, 0x0, 0x0⟩ -- R356
  | .HBM_QUARANTINE => ⟨0x400001c, [], false, false, 0x0, 0xffffffff, 0x0, 0x0, 0x0, 0x0, 0x0⟩ -- R356
  | .HBM_REQ_CFG => ⟨0x4000020, [(0x4, 8)], false, false, 0x0, 0x0, 0xffff, 0x0, 0x0, 0x0, 0x0⟩ -- R357
  | .HBM_STACK_CFG => ⟨0x4000040, [(0x4, 8)], false, false, 0x64, 0x0, 0x8000ffff, 0x0, 0x0, 0x0, 0x0⟩ -- R357
  | .HBM_STACK_STAT => ⟨0x4000060, [(0x4, 8)], false, false, 0x0, 0xc00000ff, 0x0, 0x0, 0x0, 0x0, 0x0⟩ -- R357
  | .HBM_ERR_POP0 => ⟨0x4000100, [], false, true, 0x0, 0x0, 0x0, 0x0, 0xffffffff, 0x0, 0x0⟩ -- R357
  | .HBM_ERR_POP => ⟨0x4000104, [(0x4, 3)], false, true, 0x0, 0xffffffff, 0x0, 0x0, 0x0, 0x0, 0x0⟩ -- R357
  | .HBM_SPILL_LOST => ⟨0x4000110, [], true, false, 0x0, 0xffffffffffffffff, 0x0, 0x0, 0x0, 0x0, 0x0⟩ -- R354
  | .HBM_JRN_LOST => ⟨0x4000118, [], true, false, 0x0, 0xffffffffffffffff, 0x0, 0x0, 0x0, 0x0, 0x0⟩ -- R354
  | .HBM_STACK_CNT => ⟨0x4001000, [(0x40, 8), (0x8, 8)], true, false, 0x0, 0xffffffffffffffff, 0x0, 0x0, 0x0, 0x0, 0x0⟩ -- R358
  | .HBM_REQ_CNT => ⟨0x4002000, [(0x20, 8), (0x8, 4)], true, false, 0x0, 0xffffffffffffffff, 0x0, 0x0, 0x0, 0x0, 0x0⟩ -- R359
  | .LANE_CFG => ⟨0x5000000, [(0x40, 1024)], false, false, 0x40000000, 0x0, 0xe0000000, 0x0, 0x0, 0x0, 0x0⟩ -- R377
  | .LANE_STATUS => ⟨0x5000004, [(0x40, 1024)], false, false, 0x0, 0xf00003ff, 0x0, 0x0, 0x0, 0x0, 0x0⟩ -- R377
  | .LANE_TXEQ => ⟨0x5000008, [(0x40, 1024)], false, false, 0x800000, 0x0, 0xffffffff, 0x0, 0x0, 0x0, 0x0⟩ -- R377
  | .LANE_SCAN_CFG => ⟨0x500000c, [(0x40, 1024)], false, false, 0x100a0000, 0x0, 0x301fff7f, 0x0, 0x0, 0xc0000000, 0x0⟩ -- R378
  | .LANE_SCAN_STAT => ⟨0x5000010, [(0x40, 1024)], false, false, 0x0, 0xf0000000, 0x0, 0x0, 0x0, 0x0, 0x0⟩ -- R378
  | .LANE_SCAN_ERR => ⟨0x5000018, [(0x40, 1024)], true, false, 0x0, 0xffffffffffffffff, 0x0, 0x0, 0x0, 0x0, 0x0⟩ -- R378
  | .LANE_SCAN_CMP => ⟨0x5000020, [(0x40, 1024)], true, false, 0x0, 0xffffffffffffffff, 0x0, 0x0, 0x0, 0x0, 0x0⟩ -- R378
  | .PORT_CFG => ⟨0x5100000, [(0x40, 1024)], false, false, 0xc00000, 0x0, 0xfff8ffff, 0x0, 0x0, 0x0, 0x0⟩ -- R379
  | .PORT_STATUS => ⟨0x5100004, [(0x40, 1024)], false, false, 0x0, 0xff7c0000, 0x0, 0x800000, 0x0, 0x0, 0x0⟩ -- R379
  | .PORT_LANE_MAP => ⟨0x5100008, [(0x40, 1024)], false, false, 0x0, 0xffffff, 0x0, 0x0, 0x0, 0x0, 0x0⟩ -- R380
  | .PORT_SKEW => ⟨0x510000c, [(0x40, 1024)], false, false, 0x0, 0xffff, 0x0, 0x0, 0x0, 0x0, 0x0⟩ -- R380
  | .PORT_TIMER => ⟨0x5100010, [(0x40, 1024)], false, false, 0x3e80064, 0x0, 0xffffffff, 0x0, 0x0, 0x0, 0x0⟩ -- R380
  | .PORT_PREEMPT_CFG => ⟨0x5100014, [(0x40, 1024)], false, false, 0xa03, 0x0, 0xc000ff07, 0x0, 0x0, 0x0, 0x0⟩ -- R380
  | .PORT_PREEMPT_STAT => ⟨0x5100018, [(0x40, 1024)], false, false, 0x0, 0xff000000, 0x0, 0x0, 0x0, 0x0, 0x0⟩ -- R380
  | .PORT_LPI_CFG => ⟨0x510001c, [(0x40, 1024)], false, false, 0x64, 0x0, 0xffff, 0x0, 0x0, 0x0, 0x0⟩ -- R380
  | .PORT_FEC_CFG => ⟨0x5100020, [(0x40, 1024)], false, false, 0x0, 0x0, 0xffffff, 0x0, 0x0, 0x0, 0x0⟩ -- R380
  | .PORT_CNT => ⟨0x5200000, [(0x40, 1024), (0x8, 8)], true, false, 0x0, 0xffffffffffffffff, 0x0, 0x0, 0x0, 0x0, 0x0⟩ -- R381
  | .IVL_CTRL => ⟨0x6000000, [], false, false, 0x10003, 0x0, 0x800f0003, 0x0, 0x0, 0x0, 0x0⟩ -- R407
  | .IVL_DEVNUM => ⟨0x6000004, [], false, false, 0x0, 0x0, 0x0, 0x0, 0x0, 0x0, 0x3ffff⟩ -- R407
  | .IVL_ETH_CFG => ⟨0x6000008, [], false, false, 0x488b5, 0x0, 0x7ffff, 0x0, 0x0, 0x0, 0x0⟩ -- R407
  | .IVL_NOTICE_MAC_LO => ⟨0x600000c, [], false, false, 0x58000001, 0x0, 0xffffffff, 0x0, 0x0, 0x0, 0x0⟩ -- R407
  | .IVL_NOTICE_MAC_HI => ⟨0x6000010, [], false, false, 0x34b, 0x0, 0xffff, 0x0, 0x0, 0x0, 0x0⟩ -- R407
  | .IVL_TIME_CFG => ⟨0x6000014, [], false, false, 0x0, 0x0, 0x80000003, 0x0, 0x0, 0x0, 0x0⟩ -- R407
  | .IVL_ENV_STAT => ⟨0x6000018, [], false, false, 0x0, 0x7f, 0x0, 0x0, 0xffff0000, 0x0, 0x0⟩ -- R407
  | .IVL_ENV_POP0 => ⟨0x6000020, [], false, true, 0x0, 0x0, 0x0, 0x0, 0xffffffff, 0x0, 0x0⟩ -- R406
  | .IVL_ENV_POP => ⟨0x6000024, [(0x4, 8)], false, true, 0x0, 0xffffffff, 0x0, 0x0, 0x0, 0x0, 0x0⟩ -- R406
  | .IVL_ROUTE_LO => ⟨0x6000100, [(0x8, 64)], false, false, 0x0, 0x0, 0x8003ffff, 0x0, 0x0, 0x0, 0x0⟩ -- R408
  | .IVL_ROUTE_HI => ⟨0x6000104, [(0x8, 64)], false, false, 0x0, 0x0, 0xfffff, 0x0, 0x0, 0x0, 0x0⟩ -- R408
  | .IVL_PORT_CFG => ⟨0x6001000, [(0x40, 4)], false, false, 0x200a000, 0x0, 0xff8ff7ff, 0x0, 0x0, 0x0, 0x0⟩ -- R409
  | .IVL_PORT_STATUS => ⟨0x6001004, [(0x40, 4)], false, false, 0x0, 0xffffffff, 0x0, 0x0, 0x0, 0x0, 0x0⟩ -- R409
  | .IVL_PORT_ASYM => ⟨0x6001008, [(0x40, 4)], false, false, 0x0, 0x0, 0xffffffff, 0x0, 0x0, 0x0, 0x0⟩ -- R409
  | .IVL_PORT_PEER_DEVNUM => ⟨0x6001014, [(0x40, 4)], false, false, 0x0, 0x3ffff, 0x0, 0x0, 0x0, 0x0, 0x0⟩ -- R409
  | .IVL_PORT_PEER_MAC_LO => ⟨0x600100c, [(0x40, 4)], false, false, 0x0, 0x0, 0xffffffff, 0x0, 0x0, 0x0, 0x0⟩ -- R409
  | .IVL_PORT_PEER_MAC_HI => ⟨0x6001010, [(0x40, 4)], false, false, 0x0, 0x0, 0xffff, 0x0, 0x0, 0x0, 0x0⟩ -- R409
  | .IVL_TT_POP0 => ⟨0x6001020, [(0x40, 4)], false, true, 0x0, 0x0, 0x0, 0x0, 0xf000ffff, 0x0, 0x0⟩ -- R410
  | .IVL_TT_POP => ⟨0x6001024, [(0x40, 4), (0x4, 7)], false, true, 0x0, 0xffffffff, 0x0, 0x0, 0x0, 0x0, 0x0⟩ -- R410
  | .IVL_ETH_PORT => ⟨0x6002000, [(0x4, 1024)], false, false, 0x0, 0x0, 0xc0000000, 0x0, 0xff0000, 0x0, 0x0⟩ -- R411
  | .IVL_CNT => ⟨0x6003000, [(0x80, 4), (0x8, 12)], true, false, 0x0, 0xffffffffffffffff, 0x0, 0x0, 0x0, 0x0, 0x0⟩ -- R411
  | .TEL_CTRL => ⟨0x7000000, [], false, false, 0x40000000, 0x0, 0xf0000000, 0x0, 0x0, 0x0, 0x0⟩ -- R519
  | .TEL_RING_CFG => ⟨0x7000004, [], false, false, 0x40, 0x0, 0x80001fff, 0x0, 0x0, 0x0, 0x0⟩ -- R519
  | .TEL_TAG_MISS => ⟨0x7000008, [], false, false, 0x0, 0x0, 0x0, 0x0, 0xffffffff, 0x0, 0x0⟩ -- R519
  | .TEL_OFF_EPISODES => ⟨0x700000c, [], false, false, 0x0, 0xffffffff, 0x0, 0x0, 0x0, 0x0, 0x0⟩ -- R519
  | .TEL_RING_WRPOS => ⟨0x7000010, [], true, false, 0x0, 0xffffffffffffffff, 0x0, 0x0, 0x0, 0x0, 0x0⟩ -- R519
  | .TEL_RING_RELPOS => ⟨0x7000018, [], true, false, 0x0, 0x0, 0xffffffffffffffff, 0x0, 0x0, 0x0, 0x0⟩ -- R519
  | .TEL_RING_RD_POS => ⟨0x7000020, [], true, true, 0x0, 0x0, 0xffffffffffffffff, 0x0, 0x0, 0x0, 0x0⟩ -- R519
  | .TEL_RING_LOST => ⟨0x7000028, [], true, false, 0x0, 0xffffffffffffffff, 0x0, 0x0, 0x0, 0x0, 0x0⟩ -- R519
  | .TEL_RING_OVERWRITTEN => ⟨0x7000030, [], true, false, 0x0, 0xffffffffffffffff, 0x0, 0x0, 0x0, 0x0, 0x0⟩ -- R519
  | .TEL_RING_RD_DATA0 => ⟨0x7000040, [], false, true, 0x0, 0x0, 0x0, 0x0, 0xffffffff, 0x0, 0x0⟩ -- R519
  | .TEL_RING_RD_DATA => ⟨0x7000044, [(0x4, 7)], false, true, 0x0, 0xffffffff, 0x0, 0x0, 0x0, 0x0, 0x0⟩ -- R519
  | .TEL_SNAP => ⟨0x7000060, [], false, false, 0x0, 0x0, 0x0, 0x0, 0x0, 0x80000000, 0x0⟩ -- R519
  | .TEL_SNAP_TIME_NS => ⟨0x7000064, [], false, false, 0x0, 0x3fffffff, 0x0, 0x0, 0x0, 0x0, 0x0⟩ -- R518
  | .TEL_SNAP_TIME_SEC_LO => ⟨0x7000068, [], false, false, 0x0, 0xffffffff, 0x0, 0x0, 0x0, 0x0, 0x0⟩ -- R518
  | .TEL_SNAP_TIME_SEC_HI => ⟨0x700006c, [], false, false, 0x0, 0xffffffff, 0x0, 0x0, 0x0, 0x0, 0x0⟩ -- R518
  | .TEL_PC_CLEAR => ⟨0x7000070, [], false, false, 0x0, 0x0, 0x0, 0x0, 0x0, 0x800003ff, 0x0⟩ -- R519
  | .TEL_DESC_SEL => ⟨0x7000080, [], false, true, 0x0, 0x0, 0x1fffff, 0x0, 0x0, 0x0, 0x0⟩ -- R521
  | .TEL_DESC_STAT => ⟨0x7000084, [], false, true, 0x0, 0x80000000, 0x0, 0x0, 0x0, 0x0, 0x0⟩ -- R521
  | .TEL_DESC_DATA => ⟨0x70000a0, [(0x4, 8)], false, true, 0x0, 0xffffffff, 0x0, 0x0, 0x0, 0x0, 0x0⟩ -- R521
  | .TEL_PORT_TRACE => ⟨0x7001000, [(0x4, 1032)], false, false, 0x0, 0x0, 0x1f, 0x0, 0x0, 0x0, 0x0⟩ -- R520
  | .TEL_HIST_CFG => ⟨0x7010000, [(0x4, 4128)], false, false, 0x50000, 0x0, 0xfffff, 0x0, 0x0, 0x80000000, 0x0⟩ -- R520
  | .TEL_HIST_MAX => ⟨0x7018000, [(0x4, 4128)], false, false, 0x0, 0xffffffff, 0x0, 0x0, 0x0, 0x0, 0x0⟩ -- R520
  | .TEL_TIMED_CFG => ⟨0x7020000, [(0x4, 4128)], false, false, 0x0, 0x0, 0xc000ffff, 0x0, 0x0, 0x0, 0x0⟩ -- R520
  | .TEL_PC_CFG => ⟨0x7040000, [(0x4, 1024)], false, false, 0x8000, 0x0, 0xdfffffff, 0x20000000, 0x0, 0x0, 0x0⟩ -- R521
  | .TEL_PC => ⟨0x7041000, [(0x4, 1024)], false, false, 0x0, 0xffffffff, 0x0, 0x0, 0x0, 0x0, 0x0⟩ -- R521
  | .TEL_PC_SNAP => ⟨0x7042000, [(0x4, 1024)], false, false, 0x0, 0xffffffff, 0x0, 0x0, 0x0, 0x0, 0x0⟩ -- R521
  | .TEL_HIST => ⟨0x7100000, [(0x80, 4128), (0x8, 16)], true, false, 0x0, 0xffffffffffffffff, 0x0, 0x0, 0x0, 0x0, 0x0⟩ -- R520

/-- The ID_ registers. -/
def regsID : List Reg :=
  [.ID_IDENTITY, .ID_REVISION, .ID_STATUS, .ID_BOOT_STATUS, .ID_BOOT_WHERE, .ID_BOOT_CTRL, .ID_RESET, .ID_BOOT_DISCARD, .ID_BOOT_MS, .ID_IMG_INFO, .ID_IMG_SEQ, .ID_CLK_STAT, .ID_STRAP, .ID_IMG_DIGEST, .ID_SPI_CMD, .ID_SPI_ADDR, .ID_SPI_BUF, .ID_HEAT_CTRL, .ID_HEAT_AT_NS, .ID_HEAT_AT_SEC_LO, .ID_HEAT_AT_SEC_HI, .ID_HEAT_STATE, .ID_HEAT_CFG, .ID_HEAT_PROMOTED]

/-- The CTL_ registers. -/
def regsCTL : List Reg :=
  [.CTL_LOCK, .CTL_THAW, .CTL_MASTER_RESET, .CTL_FROZEN, .CTL_VLOG_STAT, .CTL_VLOG_POP0, .CTL_VLOG_POP, .CTL_FN_MAP, .CTL_FW_CTRL, .CTL_FW_SRC, .CTL_FW_STATUS, .CTL_FW_CONFIRM, .CTL_CP_CTRL]

/-- The BAT_ registers. -/
def regsBAT : List Reg :=
  [.BAT, .BAT_PEEK, .BAT_STAT]

/-- The MB_ registers. -/
def regsMB : List Reg :=
  [.MB_BIND, .MB_STAT, .MB_DOORBELL, .MB_DATA]

/-- The SPD_ registers. -/
def regsSPD : List Reg :=
  [.SPD_BANK_CFG, .SPD_BANK_STAT, .SPD_BANK_BIST, .SPD_CONFLICT]

/-- The PWR_ registers. -/
def regsPWR : List Reg :=
  [.PWR_STATUS, .PWR_CAP, .PWR_BMC_CAP, .PWR_CAP_CFG, .PWR_CAP_NOW, .PWR_VIN, .PWR_POWER, .PWR_THERM, .PWR_DROOP_CFG, .PWR_DROOP_CNT, .PWR_DROOP_MAX, .PWR_HINT_CFG, .PWR_HINT_STAT, .PWR_HINT_START_NS, .PWR_HINT_START_SEC_LO, .PWR_HINT_START_SEC_HI, .PWR_HINT_DURATION, .PWR_HINT_LOAD, .PWR_HINT_PUSH, .PWR_SENSOR, .PWR_DOM_CMD, .PWR_DOM_STAT, .PWR_PIPE_CFG, .PWR_PIPE_STAT, .PWR_PIPE_OVERRUN, .PWR_EVT_POP0, .PWR_EVT_POP, .PWR_EVT_STAT, .PWR_ENERGY]

/-- The TIME_ registers. -/
def regsTIME : List Reg :=
  [.TIME_CTRL, .TIME_STATUS, .TIME_EPOCH, .TIME_STEP_CTRL, .TIME_STEP_NS, .TIME_STEP_SEC_LO, .TIME_STEP_SEC_HI, .TIME_NOW_NS, .TIME_NOW_SEC_LO, .TIME_NOW_SEC_HI, .TIME_NOW_LAP_LO, .TIME_NOW_LAP_HI, .TIME_NOW_SHORT, .TIME_RATE, .TIME_SLEW, .TIME_SLEW_RATE, .TIME_ERR_BASE, .TIME_ERR_GROWTH, .TIME_ERR_AGEING, .TIME_ERR_BOUND, .TIME_HOLD_CFG, .TIME_PTP_DOM, .TIME_PTP_CNT, .TIME_SPLIT_MAP, .TIME_PIN_CFG, .TIME_PIN_T_NS, .TIME_PIN_T_SEC_LO, .TIME_PIN_T_SEC_HI, .TIME_PIN_PERIOD, .TIME_PIN_WIDTH, .TIME_PIN_CAP_NS, .TIME_PIN_CAP_SEC_LO, .TIME_PIN_CAP_SEC_HI, .TIME_PIN_CAP_STAT, .TIME_ALARM_CFG, .TIME_ALARM_T_NS, .TIME_ALARM_T_SEC_LO, .TIME_ALARM_T_SEC_HI, .TIME_TXQ_POP_LO, .TIME_TXQ_POP_HI, .TIME_TXQ_STAT, .TIME_TXQ_CTRL, .TIME_PCAL, .TIME_LINK_DELAY]

/-- The EV_ registers. -/
def regsEV : List Reg :=
  [.EV_CTRL, .EV_STATUS, .EV_SEAL_CFG, .EV_TAG_CFG, .EV_SEAL_NUM, .EV_REC_NUM, .EV_SERIAL, .EV_ATTEST_CTRL, .EV_MEAS, .EV_ROOT_DIGEST, .EV_ATTEST_NONCE, .EV_ATTEST_SIG, .EV_SEAL_LAST, .EV_SESS_SEL, .EV_SESS_CMD, .EV_SESS_DATA, .EV_CERT_SEL, .EV_CERT_LEN, .EV_CERT_DATA, .EV_TAG_PORT, .EV_PART_CFG, .EV_PART_STATUS, .EV_PART_WRPOS, .EV_PART_RELPOS, .EV_PART_OVERWRITTEN, .EV_PART_UNJOURNALED, .EV_STR_CFG, .EV_STR_RATE, .EV_STR_MAC_LO, .EV_STR_MAC_HI, .EV_STR_DST_IP, .EV_STR_SRC_IP, .EV_STR_UDP, .EV_STR_WINDOW, .EV_STR_SENDPOS]

/-- The FIN_ registers. -/
def regsFIN : List Reg :=
  [.FIN_CTRL, .FIN_TIE_SEED, .FIN_ENTRIES, .FIN_GRP_CFG, .FIN_GRP_WINDOW, .FIN_GRP_HELD, .FIN_GRP_SLACK, .FIN_GRP_LAST_NS, .FIN_GRP_LAST_TIE, .FIN_CNT, .FIN_LAG_MAX]

/-- The STG_ registers. -/
def regsSTG : List Reg :=
  [.STG_CTRL, .STG_GRP_CFG, .STG_GRP_DELAY, .STG_GRP_GUARD, .STG_MEMBERS, .STG_TRIM, .STG_PORT_STAT, .STG_CNT]

/-- The ADM_ registers. -/
def regsADM : List Reg :=
  [.ADM_CTRL, .ADM_ALIGN, .ADM_ALIGN_LATE, .ADM_NOTICE_CTRL, .ADM_NOTICE_SPORT, .ADM_NOTICE_LEVEL, .ADM_NOTICE_QFULL, .ADM_PIPE_DERATE, .ADM_BOUND, .ADM_RSV_RATE, .ADM_RSV_BURST, .ADM_POLICY, .ADM_PORT_STATE, .ADM_NOTICE_SRC4, .ADM_NOTICE_SRC6, .ADM_NOTICE_DPORT, .ADM_BE_MTU, .ADM_CNT]

/-- The PIPE_ registers. -/
def regsPIPE : List Reg :=
  [.PIPE_UCODE_ROM, .PIPE_UCODE_PATCH, .PIPE_PATCH_SRC, .PIPE_PATCH_CTRL, .PIPE_PARSE_ERR, .PIPE_PATCH_MATCH, .PIPE_PARSE_CONST, .PIPE_SLOW_CFG, .PIPE_ETYPE, .PIPE_TRAP_CFG, .PIPE_PORT_CFG, .PIPE_PORT_DEFAULT, .PIPE_PORT_MIRROR, .PIPE_PORT_CNT, .PIPE_QSCHED, .PIPE_QPACER_RATE, .PIPE_QPACER_BURST, .PIPE_PPACER_RATE, .PIPE_PPACER_BURST, .PIPE_ECN_CFG, .PIPE_ECN_THR, .PIPE_PFC_CFG, .PIPE_PFC_TXMAP, .PIPE_PFC_TIMING, .PIPE_PFC_STATE, .PIPE_PFC_THR_XOFF, .PIPE_PFC_THR_XON, .PIPE_PORT_QOS, .PIPE_METER_CFG, .PIPE_METER_CIR, .PIPE_METER_PIR, .PIPE_METER_CBS, .PIPE_METER_EBS_PBS, .PIPE_METER_DSCP, .PIPE_METER_CNT, .PIPE_QCNT, .PIPE_PFC_CNT]

/-- The BUF_ registers. -/
def regsBUF : List Reg :=
  [.BUF_CTRL, .BUF_TIMED_RESERVE, .BUF_HEADROOM, .BUF_SHARED_FREE, .BUF_STATUS, .BUF_MC_FREE_ERR, .BUF_ECC, .BUF_ALLOC_REQ, .BUF_ALLOC_RESP, .BUF_FREE, .BUF_FREE_ERR, .BUF_POOL_CFG, .BUF_POOL_FREE, .BUF_QUOTA, .BUF_HELD, .BUF_QCFG, .BUF_QUSE, .BUF_PORT_CFG, .BUF_AGE, .BUF_PCNT]

/-- The TBL_ registers. -/
def regsTBL : List Reg :=
  [.TBL_CTRL, .TBL_LEARN_CFG, .TBL_FLAP_CFG, .TBL_AGE_CFG, .TBL_HBM_SHED, .TBL_TRACKER_FULL, .TBL_CMD, .TBL_CMD_INDEX, .TBL_CMD_STATUS, .TBL_CMD_RESULT, .TBL_CMD_DATA, .TBL_DMA_SRC, .TBL_DMA_COUNT, .TBL_DMA_CTRL, .TBL_DMA_CFG, .TBL_NOTICE_POP0, .TBL_NOTICE_POP, .TBL_NOTICE_STAT, .TBL_ERR_POP0, .TBL_ERR_POP, .TBL_ERR_STAT, .TBL_OCC, .TBL_CAM, .TBL_SEED, .TBL_CNT, .TBL_PORT_LEARN, .TBL_PORT_LEARNED]

/-- The HBM_ registers. -/
def regsHBM : List Reg :=
  [.HBM_CTRL, .HBM_STATUS, .HBM_SPILL_CFG, .HBM_FLOOR, .HBM_RH_CFG, .HBM_SCRUB_CFG, .HBM_ERR_STAT, .HBM_QUARANTINE, .HBM_REQ_CFG, .HBM_STACK_CFG, .HBM_STACK_STAT, .HBM_ERR_POP0, .HBM_ERR_POP, .HBM_SPILL_LOST, .HBM_JRN_LOST, .HBM_STACK_CNT, .HBM_REQ_CNT]

/-- The LANE_ registers. -/
def regsLANE : List Reg :=
  [.LANE_CFG, .LANE_STATUS, .LANE_TXEQ, .LANE_SCAN_CFG, .LANE_SCAN_STAT, .LANE_SCAN_ERR, .LANE_SCAN_CMP]

/-- The PORT_ registers. -/
def regsPORT : List Reg :=
  [.PORT_CFG, .PORT_STATUS, .PORT_LANE_MAP, .PORT_SKEW, .PORT_TIMER, .PORT_PREEMPT_CFG, .PORT_PREEMPT_STAT, .PORT_LPI_CFG, .PORT_FEC_CFG, .PORT_CNT]

/-- The IVL_ registers. -/
def regsIVL : List Reg :=
  [.IVL_CTRL, .IVL_DEVNUM, .IVL_ETH_CFG, .IVL_NOTICE_MAC_LO, .IVL_NOTICE_MAC_HI, .IVL_TIME_CFG, .IVL_ENV_STAT, .IVL_ENV_POP0, .IVL_ENV_POP, .IVL_ROUTE_LO, .IVL_ROUTE_HI, .IVL_PORT_CFG, .IVL_PORT_STATUS, .IVL_PORT_ASYM, .IVL_PORT_PEER_DEVNUM, .IVL_PORT_PEER_MAC_LO, .IVL_PORT_PEER_MAC_HI, .IVL_TT_POP0, .IVL_TT_POP, .IVL_ETH_PORT, .IVL_CNT]

/-- The TEL_ registers. -/
def regsTEL : List Reg :=
  [.TEL_CTRL, .TEL_RING_CFG, .TEL_TAG_MISS, .TEL_OFF_EPISODES, .TEL_RING_WRPOS, .TEL_RING_RELPOS, .TEL_RING_RD_POS, .TEL_RING_LOST, .TEL_RING_OVERWRITTEN, .TEL_RING_RD_DATA0, .TEL_RING_RD_DATA, .TEL_SNAP, .TEL_SNAP_TIME_NS, .TEL_SNAP_TIME_SEC_LO, .TEL_SNAP_TIME_SEC_HI, .TEL_PC_CLEAR, .TEL_DESC_SEL, .TEL_DESC_STAT, .TEL_DESC_DATA, .TEL_PORT_TRACE, .TEL_HIST_CFG, .TEL_HIST_MAX, .TEL_TIMED_CFG, .TEL_PC_CFG, .TEL_PC, .TEL_PC_SNAP, .TEL_HIST]

/-- The blocks of R31, each with the range of offsets it owns and its registers. -/
def regBlocks : List (Nat × Nat × List Reg) := [
  (0x0, 0x100000, regsID),
  (0x100000, 0x200000, regsCTL),
  (0x100000, 0x200000, regsBAT),
  (0x100000, 0x200000, regsMB),
  (0x100000, 0x200000, regsSPD),
  (0x200000, 0x300000, regsPWR),
  (0x300000, 0x400000, regsTIME),
  (0x400000, 0x500000, regsEV),
  (0x500000, 0x600000, regsFIN),
  (0x500000, 0x600000, regsSTG),
  (0x600000, 0x1000000, regsADM),
  (0x1000000, 0x2000000, regsPIPE),
  (0x2000000, 0x3000000, regsBUF),
  (0x3000000, 0x4000000, regsTBL),
  (0x4000000, 0x5000000, regsHBM),
  (0x5000000, 0x6000000, regsLANE),
  (0x5000000, 0x6000000, regsPORT),
  (0x6000000, 0x7000000, regsIVL),
  (0x7000000, 0x8000000, regsTEL)]

/-- A field of a register: its register and its bits, highest first, as the manual writes them. -/
structure Fld where
  reg : Reg
  hi : Nat
  lo : Nat
  deriving DecidableEq, Repr

namespace F
abbrev ID_IDENTITY_VALUE : Fld := ⟨.ID_IDENTITY, 31, 0⟩
abbrev ID_REVISION_VALUE : Fld := ⟨.ID_REVISION, 31, 0⟩
abbrev ID_STATUS_HEAT : Fld := ⟨.ID_STATUS, 15, 12⟩
abbrev ID_STATUS_FROZEN_ANY : Fld := ⟨.ID_STATUS, 11, 11⟩
abbrev ID_STATUS_HOLDOVER : Fld := ⟨.ID_STATUS, 10, 10⟩
abbrev ID_STATUS_JOURNAL_STOP : Fld := ⟨.ID_STATUS, 9, 9⟩
abbrev ID_STATUS_CAPPED : Fld := ⟨.ID_STATUS, 8, 8⟩
abbrev ID_STATUS_CP_SLOT : Fld := ⟨.ID_STATUS, 7, 4⟩
abbrev ID_STATUS_STAGE : Fld := ⟨.ID_STATUS, 3, 0⟩
abbrev ID_BOOT_STATUS_CAUSE : Fld := ⟨.ID_BOOT_STATUS, 31, 28⟩
abbrev ID_BOOT_STATUS_DETAIL : Fld := ⟨.ID_BOOT_STATUS, 27, 24⟩
abbrev ID_BOOT_STATUS_IMG_SLOT : Fld := ⟨.ID_BOOT_STATUS, 23, 23⟩
abbrev ID_BOOT_STATUS_TIME_TIMEOUT : Fld := ⟨.ID_BOOT_STATUS, 22, 22⟩
abbrev ID_BOOT_STATUS_HELD : Fld := ⟨.ID_BOOT_STATUS, 21, 21⟩
abbrev ID_BOOT_STATUS_FW_RECOVERY : Fld := ⟨.ID_BOOT_STATUS, 20, 20⟩
abbrev ID_BOOT_STATUS_FW_A_OK : Fld := ⟨.ID_BOOT_STATUS, 19, 19⟩
abbrev ID_BOOT_STATUS_FW_B_OK : Fld := ⟨.ID_BOOT_STATUS, 18, 18⟩
abbrev ID_BOOT_WHERE_SECTION : Fld := ⟨.ID_BOOT_WHERE, 31, 24⟩
abbrev ID_BOOT_WHERE_ENTRY : Fld := ⟨.ID_BOOT_WHERE, 23, 0⟩
abbrev ID_BOOT_CTRL_RELEASE : Fld := ⟨.ID_BOOT_CTRL, 31, 31⟩
abbrev ID_RESET_KEY : Fld := ⟨.ID_RESET, 31, 0⟩
abbrev ID_BOOT_DISCARD_COUNT : Fld := ⟨.ID_BOOT_DISCARD, 63, 0⟩
abbrev ID_BOOT_MS_MS : Fld := ⟨.ID_BOOT_MS, 31, 0⟩
abbrev ID_IMG_INFO_SEC_VER : Fld := ⟨.ID_IMG_INFO, 31, 16⟩
abbrev ID_IMG_INFO_FLOOR : Fld := ⟨.ID_IMG_INFO, 15, 0⟩
abbrev ID_IMG_SEQ_SEQ : Fld := ⟨.ID_IMG_SEQ, 31, 0⟩
abbrev ID_CLK_STAT_TREF_LOST : Fld := ⟨.ID_CLK_STAT, 31, 31⟩
abbrev ID_CLK_STAT_TREF_OK : Fld := ⟨.ID_CLK_STAT, 30, 30⟩
abbrev ID_CLK_STAT_TIME_LOCK : Fld := ⟨.ID_CLK_STAT, 29, 29⟩
abbrev ID_CLK_STAT_SYS_LOCK : Fld := ⟨.ID_CLK_STAT, 28, 28⟩
abbrev ID_CLK_STAT_IREF_OK : Fld := ⟨.ID_CLK_STAT, 27, 27⟩
abbrev ID_CLK_STAT_LREF_OK : Fld := ⟨.ID_CLK_STAT, 7, 0⟩
abbrev ID_STRAP_SMB_ADDR : Fld := ⟨.ID_STRAP, 6, 4⟩
abbrev ID_STRAP_TREF_SEL : Fld := ⟨.ID_STRAP, 3, 2⟩
abbrev ID_STRAP_SPI_WIDTH : Fld := ⟨.ID_STRAP, 1, 0⟩
abbrev ID_IMG_DIGEST_DIGEST : Fld := ⟨.ID_IMG_DIGEST, 31, 0⟩
abbrev ID_SPI_CMD_GO : Fld := ⟨.ID_SPI_CMD, 31, 31⟩
abbrev ID_SPI_CMD_BUSY : Fld := ⟨.ID_SPI_CMD, 30, 30⟩
abbrev ID_SPI_CMD_ERR : Fld := ⟨.ID_SPI_CMD, 29, 29⟩
abbrev ID_SPI_CMD_WIDTH : Fld := ⟨.ID_SPI_CMD, 28, 27⟩
abbrev ID_SPI_CMD_ADDR4 : Fld := ⟨.ID_SPI_CMD, 26, 26⟩
abbrev ID_SPI_CMD_LEN : Fld := ⟨.ID_SPI_CMD, 25, 17⟩
abbrev ID_SPI_CMD_WRITE : Fld := ⟨.ID_SPI_CMD, 16, 16⟩
abbrev ID_SPI_CMD_OPCODE : Fld := ⟨.ID_SPI_CMD, 7, 0⟩
abbrev ID_SPI_ADDR_ADDR : Fld := ⟨.ID_SPI_ADDR, 31, 0⟩
abbrev ID_SPI_BUF_DATA : Fld := ⟨.ID_SPI_BUF, 31, 0⟩
abbrev ID_HEAT_CTRL_OP : Fld := ⟨.ID_HEAT_CTRL, 31, 29⟩
abbrev ID_HEAT_CTRL_STATUS : Fld := ⟨.ID_HEAT_CTRL, 26, 24⟩
abbrev ID_HEAT_AT_NS_NS : Fld := ⟨.ID_HEAT_AT_NS, 29, 0⟩
abbrev ID_HEAT_AT_SEC_LO_SEC_LO : Fld := ⟨.ID_HEAT_AT_SEC_LO, 31, 0⟩
abbrev ID_HEAT_AT_SEC_HI_SEC_HI : Fld := ⟨.ID_HEAT_AT_SEC_HI, 15, 0⟩
abbrev ID_HEAT_STATE_STAGING : Fld := ⟨.ID_HEAT_STATE, 31, 31⟩
abbrev ID_HEAT_STATE_PENDING : Fld := ⟨.ID_HEAT_STATE, 30, 30⟩
abbrev ID_HEAT_STATE_DRAINING : Fld := ⟨.ID_HEAT_STATE, 15, 12⟩
abbrev ID_HEAT_STATE_STAGED : Fld := ⟨.ID_HEAT_STATE, 11, 8⟩
abbrev ID_HEAT_STATE_OLDEST : Fld := ⟨.ID_HEAT_STATE, 7, 4⟩
abbrev ID_HEAT_STATE_CURRENT : Fld := ⟨.ID_HEAT_STATE, 3, 0⟩
abbrev ID_HEAT_CFG_DRAIN_MAX_US : Fld := ⟨.ID_HEAT_CFG, 19, 0⟩
abbrev ID_HEAT_PROMOTED_COUNT : Fld := ⟨.ID_HEAT_PROMOTED, 31, 0⟩
abbrev CTL_LOCK_LOCK : Fld := ⟨.CTL_LOCK, 0, 0⟩
abbrev CTL_THAW_MASTER : Fld := ⟨.CTL_THAW, 5, 0⟩
abbrev CTL_MASTER_RESET_MASTER : Fld := ⟨.CTL_MASTER_RESET, 5, 0⟩
abbrev CTL_FROZEN_FROZEN : Fld := ⟨.CTL_FROZEN, 63, 0⟩
abbrev CTL_VLOG_STAT_OVF : Fld := ⟨.CTL_VLOG_STAT, 31, 16⟩
abbrev CTL_VLOG_STAT_LEVEL : Fld := ⟨.CTL_VLOG_STAT, 8, 0⟩
abbrev CTL_VLOG_POP0_WORD : Fld := ⟨.CTL_VLOG_POP0, 31, 0⟩
abbrev CTL_VLOG_POP_WORD : Fld := ⟨.CTL_VLOG_POP, 31, 0⟩
abbrev CTL_FN_MAP_EN : Fld := ⟨.CTL_FN_MAP, 31, 31⟩
abbrev CTL_FN_MAP_PARTITION : Fld := ⟨.CTL_FN_MAP, 5, 0⟩
abbrev CTL_FW_CTRL_GO : Fld := ⟨.CTL_FW_CTRL, 31, 31⟩
abbrev CTL_FW_CTRL_CONFIRM_S : Fld := ⟨.CTL_FW_CTRL, 7, 0⟩
abbrev CTL_FW_SRC_OFFSET : Fld := ⟨.CTL_FW_SRC, 23, 0⟩
abbrev CTL_FW_STATUS_STATE : Fld := ⟨.CTL_FW_STATUS, 31, 28⟩
abbrev CTL_FW_STATUS_RESULT : Fld := ⟨.CTL_FW_STATUS, 27, 24⟩
abbrev CTL_FW_STATUS_SEC_VER : Fld := ⟨.CTL_FW_STATUS, 15, 0⟩
abbrev CTL_FW_CONFIRM_CONFIRM : Fld := ⟨.CTL_FW_CONFIRM, 1, 1⟩
abbrev CTL_FW_CONFIRM_RUNNING_ACK : Fld := ⟨.CTL_FW_CONFIRM, 0, 0⟩
abbrev CTL_CP_CTRL_HALTED : Fld := ⟨.CTL_CP_CTRL, 7, 4⟩
abbrev CTL_CP_CTRL_RESTART : Fld := ⟨.CTL_CP_CTRL, 3, 0⟩
abbrev BAT_HELD : Fld := ⟨.BAT, 31, 31⟩
abbrev BAT_OWNER : Fld := ⟨.BAT, 5, 0⟩
abbrev BAT_PEEK_HELD : Fld := ⟨.BAT_PEEK, 31, 31⟩
abbrev BAT_PEEK_OWNER : Fld := ⟨.BAT_PEEK, 5, 0⟩
abbrev BAT_STAT_HELD : Fld := ⟨.BAT_STAT, 8, 0⟩
abbrev MB_BIND_EN : Fld := ⟨.MB_BIND, 31, 31⟩
abbrev MB_BIND_B : Fld := ⟨.MB_BIND, 13, 8⟩
abbrev MB_BIND_A : Fld := ⟨.MB_BIND, 5, 0⟩
abbrev MB_STAT_TX_FULL : Fld := ⟨.MB_STAT, 31, 31⟩
abbrev MB_STAT_TX_PURGED : Fld := ⟨.MB_STAT, 30, 30⟩
abbrev MB_STAT_RX_FULL : Fld := ⟨.MB_STAT, 29, 29⟩
abbrev MB_STAT_RX_SENDER_RESET : Fld := ⟨.MB_STAT, 28, 28⟩
abbrev MB_STAT_RX_LEN : Fld := ⟨.MB_STAT, 27, 24⟩
abbrev MB_STAT_PURGE_COUNT : Fld := ⟨.MB_STAT, 23, 16⟩
abbrev MB_STAT_BLOCKED : Fld := ⟨.MB_STAT, 15, 8⟩
abbrev MB_STAT_TX_EMPTY_IE : Fld := ⟨.MB_STAT, 1, 1⟩
abbrev MB_STAT_RX_IE : Fld := ⟨.MB_STAT, 0, 0⟩
abbrev MB_DOORBELL_LEN : Fld := ⟨.MB_DOORBELL, 3, 0⟩
abbrev MB_DATA_DATA : Fld := ⟨.MB_DATA, 31, 0⟩
abbrev SPD_BANK_CFG_PSTATE : Fld := ⟨.SPD_BANK_CFG, 31, 30⟩
abbrev SPD_BANK_CFG_LEND : Fld := ⟨.SPD_BANK_CFG, 29, 29⟩
abbrev SPD_BANK_CFG_OWNER : Fld := ⟨.SPD_BANK_CFG, 13, 8⟩
abbrev SPD_BANK_STAT_BIST_ACTIVE : Fld := ⟨.SPD_BANK_STAT, 31, 31⟩
abbrev SPD_BANK_STAT_WAKING : Fld := ⟨.SPD_BANK_STAT, 30, 30⟩
abbrev SPD_BANK_STAT_BIST_RESULT : Fld := ⟨.SPD_BANK_STAT, 29, 28⟩
abbrev SPD_BANK_STAT_FAIL_COL : Fld := ⟨.SPD_BANK_STAT, 20, 12⟩
abbrev SPD_BANK_STAT_SPARES_USED : Fld := ⟨.SPD_BANK_STAT, 2, 0⟩
abbrev SPD_BANK_BIST_PASSES : Fld := ⟨.SPD_BANK_BIST, 31, 16⟩
abbrev SPD_BANK_BIST_FAILS : Fld := ⟨.SPD_BANK_BIST, 15, 0⟩
abbrev SPD_CONFLICT_COUNT : Fld := ⟨.SPD_CONFLICT, 63, 0⟩
abbrev PWR_STATUS_TRIPPED : Fld := ⟨.PWR_STATUS, 31, 31⟩
abbrev PWR_STATUS_WARN : Fld := ⟨.PWR_STATUS, 30, 30⟩
abbrev PWR_STATUS_THROTTLE : Fld := ⟨.PWR_STATUS, 29, 29⟩
abbrev PWR_STATUS_CAP_UNMET : Fld := ⟨.PWR_STATUS, 28, 28⟩
abbrev PWR_STATUS_SENSOR_FAIL : Fld := ⟨.PWR_STATUS, 27, 27⟩
abbrev PWR_STATUS_LIMIT : Fld := ⟨.PWR_STATUS, 26, 24⟩
abbrev PWR_CAP_CAP_W : Fld := ⟨.PWR_CAP, 10, 0⟩
abbrev PWR_BMC_CAP_CAP_W : Fld := ⟨.PWR_BMC_CAP, 10, 0⟩
abbrev PWR_CAP_CFG_HYST_W : Fld := ⟨.PWR_CAP_CFG, 15, 8⟩
abbrev PWR_CAP_CFG_THROTTLE_STEP_W : Fld := ⟨.PWR_CAP_CFG, 7, 0⟩
abbrev PWR_CAP_NOW_ENVELOPE_W : Fld := ⟨.PWR_CAP_NOW, 26, 16⟩
abbrev PWR_CAP_NOW_EFFECTIVE_W : Fld := ⟨.PWR_CAP_NOW, 10, 0⟩
abbrev PWR_VIN_MV : Fld := ⟨.PWR_VIN, 15, 0⟩
abbrev PWR_POWER_IIN_DA : Fld := ⟨.PWR_POWER, 31, 16⟩
abbrev PWR_POWER_DIE_DW : Fld := ⟨.PWR_POWER, 15, 0⟩
abbrev PWR_THERM_TJ : Fld := ⟨.PWR_THERM, 31, 24⟩
abbrev PWR_THERM_HOT : Fld := ⟨.PWR_THERM, 23, 16⟩
abbrev PWR_THERM_THERMAL_W : Fld := ⟨.PWR_THERM, 10, 0⟩
abbrev PWR_DROOP_CFG_DROOP_MV : Fld := ⟨.PWR_DROOP_CFG, 6, 0⟩
abbrev PWR_DROOP_CNT_COUNT : Fld := ⟨.PWR_DROOP_CNT, 31, 0⟩
abbrev PWR_DROOP_MAX_NS : Fld := ⟨.PWR_DROOP_MAX, 31, 0⟩
abbrev PWR_HINT_CFG_LEAD_US : Fld := ⟨.PWR_HINT_CFG, 15, 0⟩
abbrev PWR_HINT_STAT_STATUS : Fld := ⟨.PWR_HINT_STAT, 31, 29⟩
abbrev PWR_HINT_STAT_LEVEL : Fld := ⟨.PWR_HINT_STAT, 4, 0⟩
abbrev PWR_HINT_START_NS_NS : Fld := ⟨.PWR_HINT_START_NS, 29, 0⟩
abbrev PWR_HINT_START_SEC_LO_SEC_LO : Fld := ⟨.PWR_HINT_START_SEC_LO, 31, 0⟩
abbrev PWR_HINT_START_SEC_HI_SEC_HI : Fld := ⟨.PWR_HINT_START_SEC_HI, 15, 0⟩
abbrev PWR_HINT_DURATION_MS : Fld := ⟨.PWR_HINT_DURATION, 31, 0⟩
abbrev PWR_HINT_LOAD_PIPES : Fld := ⟨.PWR_HINT_LOAD, 31, 16⟩
abbrev PWR_HINT_LOAD_PCT : Fld := ⟨.PWR_HINT_LOAD, 6, 0⟩
abbrev PWR_HINT_PUSH_PUSH : Fld := ⟨.PWR_HINT_PUSH, 31, 31⟩
abbrev PWR_HINT_PUSH_FLUSH : Fld := ⟨.PWR_HINT_PUSH, 30, 30⟩
abbrev PWR_SENSOR_FAILED : Fld := ⟨.PWR_SENSOR, 31, 31⟩
abbrev PWR_SENSOR_TEMP_C : Fld := ⟨.PWR_SENSOR, 7, 0⟩
abbrev PWR_DOM_CMD_STATE : Fld := ⟨.PWR_DOM_CMD, 31, 30⟩
abbrev PWR_DOM_CMD_SHED_RANK : Fld := ⟨.PWR_DOM_CMD, 29, 26⟩
abbrev PWR_DOM_STAT_STATE : Fld := ⟨.PWR_DOM_STAT, 31, 30⟩
abbrev PWR_DOM_STAT_BUSY : Fld := ⟨.PWR_DOM_STAT, 29, 29⟩
abbrev PWR_DOM_STAT_QUEUED : Fld := ⟨.PWR_DOM_STAT, 28, 28⟩
abbrev PWR_DOM_STAT_FORCED : Fld := ⟨.PWR_DOM_STAT, 27, 27⟩
abbrev PWR_DOM_STAT_POWER_DW : Fld := ⟨.PWR_DOM_STAT, 15, 0⟩
abbrev PWR_PIPE_CFG_STEP : Fld := ⟨.PWR_PIPE_CFG, 31, 29⟩
abbrev PWR_PIPE_CFG_HINT_STEP : Fld := ⟨.PWR_PIPE_CFG, 28, 26⟩
abbrev PWR_PIPE_CFG_FLOOR : Fld := ⟨.PWR_PIPE_CFG, 25, 23⟩
abbrev PWR_PIPE_CFG_SHED_ON_DERATE : Fld := ⟨.PWR_PIPE_CFG, 22, 22⟩
abbrev PWR_PIPE_STAT_ACTUAL : Fld := ⟨.PWR_PIPE_STAT, 31, 29⟩
abbrev PWR_PIPE_STAT_TARGET : Fld := ⟨.PWR_PIPE_STAT, 28, 26⟩
abbrev PWR_PIPE_STAT_BUSY : Fld := ⟨.PWR_PIPE_STAT, 25, 25⟩
abbrev PWR_PIPE_STAT_HINTED : Fld := ⟨.PWR_PIPE_STAT, 24, 24⟩
abbrev PWR_PIPE_STAT_REASON : Fld := ⟨.PWR_PIPE_STAT, 23, 21⟩
abbrev PWR_PIPE_OVERRUN_COUNT : Fld := ⟨.PWR_PIPE_OVERRUN, 31, 0⟩
abbrev PWR_EVT_POP0_WORD : Fld := ⟨.PWR_EVT_POP0, 31, 0⟩
abbrev PWR_EVT_POP_WORD : Fld := ⟨.PWR_EVT_POP, 31, 0⟩
abbrev PWR_EVT_STAT_OVF : Fld := ⟨.PWR_EVT_STAT, 31, 16⟩
abbrev PWR_EVT_STAT_LEVEL : Fld := ⟨.PWR_EVT_STAT, 6, 0⟩
abbrev PWR_ENERGY_UJ : Fld := ⟨.PWR_ENERGY, 63, 0⟩
abbrev TIME_CTRL_STATE_REQ : Fld := ⟨.TIME_CTRL, 31, 30⟩
abbrev TIME_CTRL_PPS_REF_EN : Fld := ⟨.TIME_CTRL, 19, 19⟩
abbrev TIME_CTRL_PPS_REF_PIN : Fld := ⟨.TIME_CTRL, 18, 16⟩
abbrev TIME_STATUS_STATE : Fld := ⟨.TIME_STATUS, 31, 30⟩
abbrev TIME_STATUS_STEP_USED : Fld := ⟨.TIME_STATUS, 29, 29⟩
abbrev TIME_STATUS_STEP_MARK : Fld := ⟨.TIME_STATUS, 28, 28⟩
abbrev TIME_STATUS_ERR_OVER : Fld := ⟨.TIME_STATUS, 27, 27⟩
abbrev TIME_STATUS_WDOG : Fld := ⟨.TIME_STATUS, 26, 26⟩
abbrev TIME_EPOCH_EPOCH : Fld := ⟨.TIME_EPOCH, 31, 0⟩
abbrev TIME_STEP_CTRL_GO : Fld := ⟨.TIME_STEP_CTRL, 31, 31⟩
abbrev TIME_STEP_CTRL_NEW_EPOCH : Fld := ⟨.TIME_STEP_CTRL, 30, 30⟩
abbrev TIME_STEP_CTRL_MODE : Fld := ⟨.TIME_STEP_CTRL, 29, 29⟩
abbrev TIME_STEP_CTRL_STATUS : Fld := ⟨.TIME_STEP_CTRL, 18, 16⟩
abbrev TIME_STEP_CTRL_REJECTS : Fld := ⟨.TIME_STEP_CTRL, 15, 0⟩
abbrev TIME_STEP_NS_NS : Fld := ⟨.TIME_STEP_NS, 29, 0⟩
abbrev TIME_STEP_SEC_LO_SEC_LO : Fld := ⟨.TIME_STEP_SEC_LO, 31, 0⟩
abbrev TIME_STEP_SEC_HI_SIGN : Fld := ⟨.TIME_STEP_SEC_HI, 16, 16⟩
abbrev TIME_STEP_SEC_HI_SEC_HI : Fld := ⟨.TIME_STEP_SEC_HI, 15, 0⟩
abbrev TIME_NOW_NS_NS : Fld := ⟨.TIME_NOW_NS, 29, 0⟩
abbrev TIME_NOW_SEC_LO_SEC_LO : Fld := ⟨.TIME_NOW_SEC_LO, 31, 0⟩
abbrev TIME_NOW_SEC_HI_FRAC : Fld := ⟨.TIME_NOW_SEC_HI, 31, 16⟩
abbrev TIME_NOW_SEC_HI_SEC_HI : Fld := ⟨.TIME_NOW_SEC_HI, 15, 0⟩
abbrev TIME_NOW_LAP_LO_LAP_LO : Fld := ⟨.TIME_NOW_LAP_LO, 31, 0⟩
abbrev TIME_NOW_LAP_HI_LAP_HI : Fld := ⟨.TIME_NOW_LAP_HI, 13, 0⟩
abbrev TIME_NOW_SHORT_SHORT : Fld := ⟨.TIME_NOW_SHORT, 31, 0⟩
abbrev TIME_RATE_RATE : Fld := ⟨.TIME_RATE, 63, 0⟩
abbrev TIME_SLEW_AMOUNT : Fld := ⟨.TIME_SLEW, 31, 0⟩
abbrev TIME_SLEW_RATE_PPB : Fld := ⟨.TIME_SLEW_RATE, 18, 0⟩
abbrev TIME_ERR_BASE_BASE : Fld := ⟨.TIME_ERR_BASE, 31, 0⟩
abbrev TIME_ERR_GROWTH_GROWTH : Fld := ⟨.TIME_ERR_GROWTH, 31, 0⟩
abbrev TIME_ERR_AGEING_AGEING : Fld := ⟨.TIME_ERR_AGEING, 31, 0⟩
abbrev TIME_ERR_BOUND_BOUND : Fld := ⟨.TIME_ERR_BOUND, 31, 0⟩
abbrev TIME_HOLD_CFG_ERR_LIMIT_NS : Fld := ⟨.TIME_HOLD_CFG, 31, 16⟩
abbrev TIME_HOLD_CFG_WDOG_MS : Fld := ⟨.TIME_HOLD_CFG, 15, 0⟩
abbrev TIME_PTP_DOM_EN : Fld := ⟨.TIME_PTP_DOM, 31, 31⟩
abbrev TIME_PTP_DOM_SERVO : Fld := ⟨.TIME_PTP_DOM, 30, 30⟩
abbrev TIME_PTP_DOM_MODE : Fld := ⟨.TIME_PTP_DOM, 29, 28⟩
abbrev TIME_PTP_DOM_TRANSPORT : Fld := ⟨.TIME_PTP_DOM, 10, 8⟩
abbrev TIME_PTP_DOM_DOMAIN : Fld := ⟨.TIME_PTP_DOM, 7, 0⟩
abbrev TIME_PTP_CNT_COUNT : Fld := ⟨.TIME_PTP_CNT, 31, 0⟩
abbrev TIME_SPLIT_MAP_EN : Fld := ⟨.TIME_SPLIT_MAP, 31, 31⟩
abbrev TIME_SPLIT_MAP_PORT : Fld := ⟨.TIME_SPLIT_MAP, 10, 0⟩
abbrev TIME_PIN_CFG_MODE : Fld := ⟨.TIME_PIN_CFG, 31, 29⟩
abbrev TIME_PIN_CFG_POLARITY : Fld := ⟨.TIME_PIN_CFG, 28, 28⟩
abbrev TIME_PIN_CFG_EDGE : Fld := ⟨.TIME_PIN_CFG, 27, 26⟩
abbrev TIME_PIN_CFG_FREE_OUT : Fld := ⟨.TIME_PIN_CFG, 25, 25⟩
abbrev TIME_PIN_CFG_ARM : Fld := ⟨.TIME_PIN_CFG, 24, 24⟩
abbrev TIME_PIN_CFG_STATUS : Fld := ⟨.TIME_PIN_CFG, 23, 21⟩
abbrev TIME_PIN_CFG_TRIM : Fld := ⟨.TIME_PIN_CFG, 15, 0⟩
abbrev TIME_PIN_T_NS_NS : Fld := ⟨.TIME_PIN_T_NS, 29, 0⟩
abbrev TIME_PIN_T_SEC_LO_SEC_LO : Fld := ⟨.TIME_PIN_T_SEC_LO, 31, 0⟩
abbrev TIME_PIN_T_SEC_HI_SEC_HI : Fld := ⟨.TIME_PIN_T_SEC_HI, 15, 0⟩
abbrev TIME_PIN_PERIOD_PERIOD : Fld := ⟨.TIME_PIN_PERIOD, 31, 0⟩
abbrev TIME_PIN_WIDTH_WIDTH : Fld := ⟨.TIME_PIN_WIDTH, 31, 0⟩
abbrev TIME_PIN_CAP_NS_VALID : Fld := ⟨.TIME_PIN_CAP_NS, 31, 31⟩
abbrev TIME_PIN_CAP_NS_NS : Fld := ⟨.TIME_PIN_CAP_NS, 29, 0⟩
abbrev TIME_PIN_CAP_SEC_LO_SEC_LO : Fld := ⟨.TIME_PIN_CAP_SEC_LO, 31, 0⟩
abbrev TIME_PIN_CAP_SEC_HI_FRAC : Fld := ⟨.TIME_PIN_CAP_SEC_HI, 31, 16⟩
abbrev TIME_PIN_CAP_SEC_HI_SEC_HI : Fld := ⟨.TIME_PIN_CAP_SEC_HI, 15, 0⟩
abbrev TIME_PIN_CAP_STAT_STEP_FLUSH : Fld := ⟨.TIME_PIN_CAP_STAT, 31, 24⟩
abbrev TIME_PIN_CAP_STAT_MISS : Fld := ⟨.TIME_PIN_CAP_STAT, 23, 16⟩
abbrev TIME_PIN_CAP_STAT_OVF : Fld := ⟨.TIME_PIN_CAP_STAT, 15, 8⟩
abbrev TIME_PIN_CAP_STAT_LEVEL : Fld := ⟨.TIME_PIN_CAP_STAT, 4, 0⟩
abbrev TIME_ALARM_CFG_EN : Fld := ⟨.TIME_ALARM_CFG, 31, 31⟩
abbrev TIME_ALARM_CFG_FIRED : Fld := ⟨.TIME_ALARM_CFG, 30, 30⟩
abbrev TIME_ALARM_CFG_PAST : Fld := ⟨.TIME_ALARM_CFG, 29, 29⟩
abbrev TIME_ALARM_CFG_OWNER : Fld := ⟨.TIME_ALARM_CFG, 5, 0⟩
abbrev TIME_ALARM_T_NS_NS : Fld := ⟨.TIME_ALARM_T_NS, 29, 0⟩
abbrev TIME_ALARM_T_SEC_LO_SEC_LO : Fld := ⟨.TIME_ALARM_T_SEC_LO, 31, 0⟩
abbrev TIME_ALARM_T_SEC_HI_SEC_HI : Fld := ⟨.TIME_ALARM_T_SEC_HI, 15, 0⟩
abbrev TIME_TXQ_POP_LO_POP_LO : Fld := ⟨.TIME_TXQ_POP_LO, 31, 0⟩
abbrev TIME_TXQ_POP_HI_POP_HI : Fld := ⟨.TIME_TXQ_POP_HI, 31, 0⟩
abbrev TIME_TXQ_STAT_STICKY_OVF : Fld := ⟨.TIME_TXQ_STAT, 31, 31⟩
abbrev TIME_TXQ_STAT_LEVEL : Fld := ⟨.TIME_TXQ_STAT, 30, 24⟩
abbrev TIME_TXQ_STAT_STEP_FLUSH : Fld := ⟨.TIME_TXQ_STAT, 23, 16⟩
abbrev TIME_TXQ_STAT_AGED : Fld := ⟨.TIME_TXQ_STAT, 15, 8⟩
abbrev TIME_TXQ_STAT_OVF : Fld := ⟨.TIME_TXQ_STAT, 7, 0⟩
abbrev TIME_TXQ_CTRL_FLUSH : Fld := ⟨.TIME_TXQ_CTRL, 31, 31⟩
abbrev TIME_TXQ_CTRL_PER_MASTER_MAX : Fld := ⟨.TIME_TXQ_CTRL, 6, 0⟩
abbrev TIME_PCAL_TX_TRIM : Fld := ⟨.TIME_PCAL, 31, 16⟩
abbrev TIME_PCAL_RX_TRIM : Fld := ⟨.TIME_PCAL, 15, 0⟩
abbrev TIME_LINK_DELAY_DELAY : Fld := ⟨.TIME_LINK_DELAY, 31, 0⟩
abbrev EV_CTRL_EN : Fld := ⟨.EV_CTRL, 0, 0⟩
abbrev EV_STATUS_STARTED : Fld := ⟨.EV_STATUS, 31, 31⟩
abbrev EV_STATUS_STOP_ANY : Fld := ⟨.EV_STATUS, 30, 30⟩
abbrev EV_STATUS_CLOSE_BACKLOG : Fld := ⟨.EV_STATUS, 21, 0⟩
abbrev EV_SEAL_CFG_INTERVAL_US : Fld := ⟨.EV_SEAL_CFG, 19, 0⟩
abbrev EV_TAG_CFG_ETYPE : Fld := ⟨.EV_TAG_CFG, 15, 0⟩
abbrev EV_SEAL_NUM_SEAL_NUM : Fld := ⟨.EV_SEAL_NUM, 63, 0⟩
abbrev EV_REC_NUM_REC_NUM : Fld := ⟨.EV_REC_NUM, 63, 0⟩
abbrev EV_SERIAL_SERIAL : Fld := ⟨.EV_SERIAL, 63, 0⟩
abbrev EV_ATTEST_CTRL_GO : Fld := ⟨.EV_ATTEST_CTRL, 31, 31⟩
abbrev EV_ATTEST_CTRL_BUSY : Fld := ⟨.EV_ATTEST_CTRL, 30, 30⟩
abbrev EV_ATTEST_CTRL_DONE : Fld := ⟨.EV_ATTEST_CTRL, 29, 29⟩
abbrev EV_MEAS_DIGEST : Fld := ⟨.EV_MEAS, 31, 0⟩
abbrev EV_ROOT_DIGEST_DIGEST : Fld := ⟨.EV_ROOT_DIGEST, 31, 0⟩
abbrev EV_ATTEST_NONCE_NONCE : Fld := ⟨.EV_ATTEST_NONCE, 31, 0⟩
abbrev EV_ATTEST_SIG_SIG : Fld := ⟨.EV_ATTEST_SIG, 31, 0⟩
abbrev EV_SEAL_LAST_SEAL : Fld := ⟨.EV_SEAL_LAST, 31, 0⟩
abbrev EV_SESS_SEL_SESSION : Fld := ⟨.EV_SESS_SEL, 14, 0⟩
abbrev EV_SESS_CMD_STATUS : Fld := ⟨.EV_SESS_CMD, 31, 29⟩
abbrev EV_SESS_CMD_OP : Fld := ⟨.EV_SESS_CMD, 1, 0⟩
abbrev EV_SESS_DATA_DATA : Fld := ⟨.EV_SESS_DATA, 31, 0⟩
abbrev EV_CERT_SEL_INDEX : Fld := ⟨.EV_CERT_SEL, 0, 0⟩
abbrev EV_CERT_LEN_LEN : Fld := ⟨.EV_CERT_LEN, 12, 0⟩
abbrev EV_CERT_DATA_DATA : Fld := ⟨.EV_CERT_DATA, 31, 0⟩
abbrev EV_TAG_PORT_TAG_BADVER : Fld := ⟨.EV_TAG_PORT, 23, 16⟩
abbrev EV_TAG_PORT_TAG_UNTRUSTED : Fld := ⟨.EV_TAG_PORT, 15, 8⟩
abbrev EV_TAG_PORT_RX_EN : Fld := ⟨.EV_TAG_PORT, 1, 1⟩
abbrev EV_TAG_PORT_TX_EN : Fld := ⟨.EV_TAG_PORT, 0, 0⟩
abbrev EV_PART_CFG_FULL_POLICY : Fld := ⟨.EV_PART_CFG, 31, 31⟩
abbrev EV_PART_CFG_RING_MIB : Fld := ⟨.EV_PART_CFG, 11, 0⟩
abbrev EV_PART_STATUS_STOPPED : Fld := ⟨.EV_PART_STATUS, 31, 31⟩
abbrev EV_PART_STATUS_OPEN : Fld := ⟨.EV_PART_STATUS, 21, 0⟩
abbrev EV_PART_WRPOS_WRPOS : Fld := ⟨.EV_PART_WRPOS, 63, 0⟩
abbrev EV_PART_RELPOS_RELPOS : Fld := ⟨.EV_PART_RELPOS, 63, 0⟩
abbrev EV_PART_OVERWRITTEN_OVERWRITTEN : Fld := ⟨.EV_PART_OVERWRITTEN, 63, 0⟩
abbrev EV_PART_UNJOURNALED_UNJOURNALED : Fld := ⟨.EV_PART_UNJOURNALED, 63, 0⟩
abbrev EV_STR_CFG_EN : Fld := ⟨.EV_STR_CFG, 31, 31⟩
abbrev EV_STR_CFG_ACK_MODE : Fld := ⟨.EV_STR_CFG, 30, 30⟩
abbrev EV_STR_CFG_IPV6 : Fld := ⟨.EV_STR_CFG, 29, 29⟩
abbrev EV_STR_CFG_CLASS : Fld := ⟨.EV_STR_CFG, 26, 24⟩
abbrev EV_STR_CFG_PORT : Fld := ⟨.EV_STR_CFG, 10, 0⟩
abbrev EV_STR_RATE_RATE : Fld := ⟨.EV_STR_RATE, 18, 0⟩
abbrev EV_STR_MAC_LO_MAC_LO : Fld := ⟨.EV_STR_MAC_LO, 31, 0⟩
abbrev EV_STR_MAC_HI_VLAN_EN : Fld := ⟨.EV_STR_MAC_HI, 28, 28⟩
abbrev EV_STR_MAC_HI_VID : Fld := ⟨.EV_STR_MAC_HI, 27, 16⟩
abbrev EV_STR_MAC_HI_MAC_HI : Fld := ⟨.EV_STR_MAC_HI, 15, 0⟩
abbrev EV_STR_DST_IP_ADDR : Fld := ⟨.EV_STR_DST_IP, 31, 0⟩
abbrev EV_STR_SRC_IP_ADDR : Fld := ⟨.EV_STR_SRC_IP, 31, 0⟩
abbrev EV_STR_UDP_SPORT : Fld := ⟨.EV_STR_UDP, 31, 16⟩
abbrev EV_STR_UDP_DPORT : Fld := ⟨.EV_STR_UDP, 15, 0⟩
abbrev EV_STR_WINDOW_BAD_ACK : Fld := ⟨.EV_STR_WINDOW, 31, 24⟩
abbrev EV_STR_WINDOW_WINDOW : Fld := ⟨.EV_STR_WINDOW, 23, 0⟩
abbrev EV_STR_SENDPOS_SENDPOS : Fld := ⟨.EV_STR_SENDPOS, 63, 0⟩
abbrev FIN_CTRL_EN : Fld := ⟨.FIN_CTRL, 0, 0⟩
abbrev FIN_TIE_SEED_SEED : Fld := ⟨.FIN_TIE_SEED, 63, 0⟩
abbrev FIN_ENTRIES_FREE : Fld := ⟨.FIN_ENTRIES, 16, 0⟩
abbrev FIN_GRP_CFG_EN : Fld := ⟨.FIN_GRP_CFG, 31, 31⟩
abbrev FIN_GRP_CFG_LATE_ACTION : Fld := ⟨.FIN_GRP_CFG, 30, 30⟩
abbrev FIN_GRP_CFG_PARTITION : Fld := ⟨.FIN_GRP_CFG, 29, 24⟩
abbrev FIN_GRP_CFG_CLASS : Fld := ⟨.FIN_GRP_CFG, 17, 16⟩
abbrev FIN_GRP_CFG_PORT : Fld := ⟨.FIN_GRP_CFG, 10, 0⟩
abbrev FIN_GRP_WINDOW_W_NS : Fld := ⟨.FIN_GRP_WINDOW, 11, 0⟩
abbrev FIN_GRP_HELD_MAX_HELD : Fld := ⟨.FIN_GRP_HELD, 31, 16⟩
abbrev FIN_GRP_HELD_HELD : Fld := ⟨.FIN_GRP_HELD, 15, 0⟩
abbrev FIN_GRP_SLACK_MIN_SLACK : Fld := ⟨.FIN_GRP_SLACK, 31, 0⟩
abbrev FIN_GRP_LAST_NS_LAST_NS : Fld := ⟨.FIN_GRP_LAST_NS, 31, 0⟩
abbrev FIN_GRP_LAST_TIE_FRAC : Fld := ⟨.FIN_GRP_LAST_TIE, 31, 29⟩
abbrev FIN_GRP_LAST_TIE_TIE : Fld := ⟨.FIN_GRP_LAST_TIE, 28, 0⟩
abbrev FIN_CNT_COUNT : Fld := ⟨.FIN_CNT, 63, 0⟩
abbrev FIN_LAG_MAX_LAG : Fld := ⟨.FIN_LAG_MAX, 31, 0⟩
abbrev STG_CTRL_LEAD_NS : Fld := ⟨.STG_CTRL, 8, 0⟩
abbrev STG_GRP_CFG_EN : Fld := ⟨.STG_GRP_CFG, 31, 31⟩
abbrev STG_GRP_CFG_MODE : Fld := ⟨.STG_GRP_CFG, 30, 30⟩
abbrev STG_GRP_CFG_XPART : Fld := ⟨.STG_GRP_CFG, 29, 29⟩
abbrev STG_GRP_CFG_PARTITION : Fld := ⟨.STG_GRP_CFG, 23, 18⟩
abbrev STG_GRP_CFG_CLASS : Fld := ⟨.STG_GRP_CFG, 17, 16⟩
abbrev STG_GRP_CFG_ABS_OFFSET : Fld := ⟨.STG_GRP_CFG, 13, 0⟩
abbrev STG_GRP_DELAY_DELAY_NS : Fld := ⟨.STG_GRP_DELAY, 23, 0⟩
abbrev STG_GRP_GUARD_GUARD_NS : Fld := ⟨.STG_GRP_GUARD, 11, 0⟩
abbrev STG_MEMBERS_PORTS : Fld := ⟨.STG_MEMBERS, 31, 0⟩
abbrev STG_TRIM_TRIM : Fld := ⟨.STG_TRIM, 15, 0⟩
abbrev STG_PORT_STAT_PENDING : Fld := ⟨.STG_PORT_STAT, 22, 16⟩
abbrev STG_PORT_STAT_COLLIDED : Fld := ⟨.STG_PORT_STAT, 15, 8⟩
abbrev STG_PORT_STAT_SLIPPED : Fld := ⟨.STG_PORT_STAT, 7, 0⟩
abbrev STG_CNT_COUNT : Fld := ⟨.STG_CNT, 63, 0⟩
abbrev ADM_CTRL_MARGIN : Fld := ⟨.ADM_CTRL, 23, 16⟩
abbrev ADM_CTRL_ALIGN_EN : Fld := ⟨.ADM_CTRL, 0, 0⟩
abbrev ADM_ALIGN_ALIGN_NS : Fld := ⟨.ADM_ALIGN, 8, 0⟩
abbrev ADM_ALIGN_LATE_COUNT : Fld := ⟨.ADM_ALIGN_LATE, 31, 0⟩
abbrev ADM_NOTICE_CTRL_EN : Fld := ⟨.ADM_NOTICE_CTRL, 31, 31⟩
abbrev ADM_NOTICE_CTRL_DSCP : Fld := ⟨.ADM_NOTICE_CTRL, 29, 24⟩
abbrev ADM_NOTICE_CTRL_TTL : Fld := ⟨.ADM_NOTICE_CTRL, 23, 16⟩
abbrev ADM_NOTICE_CTRL_CLASS : Fld := ⟨.ADM_NOTICE_CTRL, 10, 8⟩
abbrev ADM_NOTICE_SPORT_SPORT : Fld := ⟨.ADM_NOTICE_SPORT, 15, 0⟩
abbrev ADM_NOTICE_LEVEL_LEVEL : Fld := ⟨.ADM_NOTICE_LEVEL, 12, 0⟩
abbrev ADM_NOTICE_QFULL_COUNT : Fld := ⟨.ADM_NOTICE_QFULL, 63, 0⟩
abbrev ADM_PIPE_DERATE_IN_FORCE : Fld := ⟨.ADM_PIPE_DERATE, 31, 31⟩
abbrev ADM_PIPE_DERATE_SHED : Fld := ⟨.ADM_PIPE_DERATE, 30, 30⟩
abbrev ADM_PIPE_DERATE_TIGHTEN_NS : Fld := ⟨.ADM_PIPE_DERATE, 15, 0⟩
abbrev ADM_BOUND_BOUND_NS : Fld := ⟨.ADM_BOUND, 23, 0⟩
abbrev ADM_RSV_RATE_RATE : Fld := ⟨.ADM_RSV_RATE, 20, 0⟩
abbrev ADM_RSV_BURST_BURST : Fld := ⟨.ADM_RSV_BURST, 19, 0⟩
abbrev ADM_POLICY_DSCP : Fld := ⟨.ADM_POLICY, 15, 10⟩
abbrev ADM_POLICY_DEFER_NOTICE : Fld := ⟨.ADM_POLICY, 8, 8⟩
abbrev ADM_POLICY_DEFER_CLASS : Fld := ⟨.ADM_POLICY, 5, 4⟩
abbrev ADM_POLICY_RSV_RESET : Fld := ⟨.ADM_POLICY, 1, 1⟩
abbrev ADM_POLICY_ACTION : Fld := ⟨.ADM_POLICY, 0, 0⟩
abbrev ADM_PORT_STATE_DERATED : Fld := ⟨.ADM_PORT_STATE, 3, 3⟩
abbrev ADM_PORT_STATE_PREEMPT_ACTIVE : Fld := ⟨.ADM_PORT_STATE, 2, 2⟩
abbrev ADM_PORT_STATE_LINK_UP : Fld := ⟨.ADM_PORT_STATE, 1, 1⟩
abbrev ADM_PORT_STATE_TIMED_OK : Fld := ⟨.ADM_PORT_STATE, 0, 0⟩
abbrev ADM_NOTICE_SRC4_ADDR : Fld := ⟨.ADM_NOTICE_SRC4, 31, 0⟩
abbrev ADM_NOTICE_SRC6_ADDR : Fld := ⟨.ADM_NOTICE_SRC6, 31, 0⟩
abbrev ADM_NOTICE_DPORT_DPORT : Fld := ⟨.ADM_NOTICE_DPORT, 15, 0⟩
abbrev ADM_BE_MTU_MTU : Fld := ⟨.ADM_BE_MTU, 13, 0⟩
abbrev ADM_CNT_COUNT : Fld := ⟨.ADM_CNT, 63, 0⟩
abbrev PIPE_UCODE_ROM_RELEASE : Fld := ⟨.PIPE_UCODE_ROM, 31, 0⟩
abbrev PIPE_UCODE_PATCH_LEVEL : Fld := ⟨.PIPE_UCODE_PATCH, 31, 16⟩
abbrev PIPE_UCODE_PATCH_HALF : Fld := ⟨.PIPE_UCODE_PATCH, 15, 15⟩
abbrev PIPE_UCODE_PATCH_WORDS : Fld := ⟨.PIPE_UCODE_PATCH, 9, 0⟩
abbrev PIPE_PATCH_SRC_OFFSET : Fld := ⟨.PIPE_PATCH_SRC, 23, 0⟩
abbrev PIPE_PATCH_CTRL_GO : Fld := ⟨.PIPE_PATCH_CTRL, 31, 31⟩
abbrev PIPE_PATCH_CTRL_BUSY : Fld := ⟨.PIPE_PATCH_CTRL, 30, 30⟩
abbrev PIPE_PATCH_CTRL_STATUS : Fld := ⟨.PIPE_PATCH_CTRL, 26, 24⟩
abbrev PIPE_PARSE_ERR_COUNT : Fld := ⟨.PIPE_PARSE_ERR, 31, 0⟩
abbrev PIPE_PATCH_MATCH_EN : Fld := ⟨.PIPE_PATCH_MATCH, 31, 31⟩
abbrev PIPE_PATCH_MATCH_PATCH_OFF : Fld := ⟨.PIPE_PATCH_MATCH, 22, 14⟩
abbrev PIPE_PATCH_MATCH_ROM_ADDR : Fld := ⟨.PIPE_PATCH_MATCH, 13, 0⟩
abbrev PIPE_PARSE_CONST_MASK : Fld := ⟨.PIPE_PARSE_CONST, 31, 16⟩
abbrev PIPE_PARSE_CONST_VALUE : Fld := ⟨.PIPE_PARSE_CONST, 15, 0⟩
abbrev PIPE_SLOW_CFG_ACTION : Fld := ⟨.PIPE_SLOW_CFG, 1, 0⟩
abbrev PIPE_ETYPE_EN : Fld := ⟨.PIPE_ETYPE, 31, 31⟩
abbrev PIPE_ETYPE_ACTION : Fld := ⟨.PIPE_ETYPE, 17, 16⟩
abbrev PIPE_ETYPE_ETYPE : Fld := ⟨.PIPE_ETYPE, 15, 0⟩
abbrev PIPE_TRAP_CFG_PORT : Fld := ⟨.PIPE_TRAP_CFG, 31, 31⟩
abbrev PIPE_TRAP_CFG_CLASS : Fld := ⟨.PIPE_TRAP_CFG, 29, 28⟩
abbrev PIPE_TRAP_CFG_RATE : Fld := ⟨.PIPE_TRAP_CFG, 23, 0⟩
abbrev PIPE_PORT_CFG_TIMED_NEEDS_SESSION : Fld := ⟨.PIPE_PORT_CFG, 31, 31⟩
abbrev PIPE_PORT_CFG_SESS_KEY : Fld := ⟨.PIPE_PORT_CFG, 30, 29⟩
abbrev PIPE_PORT_CFG_ENTRY_NODE : Fld := ⟨.PIPE_PORT_CFG, 21, 14⟩
abbrev PIPE_PORT_CFG_PARTITION : Fld := ⟨.PIPE_PORT_CFG, 5, 0⟩
abbrev PIPE_PORT_DEFAULT_ON_FAIL : Fld := ⟨.PIPE_PORT_DEFAULT, 31, 30⟩
abbrev PIPE_PORT_DEFAULT_ON_NOMATCH : Fld := ⟨.PIPE_PORT_DEFAULT, 29, 28⟩
abbrev PIPE_PORT_DEFAULT_DEF_CLASS : Fld := ⟨.PIPE_PORT_DEFAULT, 27, 26⟩
abbrev PIPE_PORT_DEFAULT_DEFAULT_PORT : Fld := ⟨.PIPE_PORT_DEFAULT, 10, 0⟩
abbrev PIPE_PORT_MIRROR_TRUNC : Fld := ⟨.PIPE_PORT_MIRROR, 27, 16⟩
abbrev PIPE_PORT_MIRROR_MIRROR_PORT : Fld := ⟨.PIPE_PORT_MIRROR, 10, 0⟩
abbrev PIPE_PORT_CNT_COUNT : Fld := ⟨.PIPE_PORT_CNT, 63, 0⟩
abbrev PIPE_QSCHED_QUANTUM : Fld := ⟨.PIPE_QSCHED, 15, 0⟩
abbrev PIPE_QPACER_RATE_RESET : Fld := ⟨.PIPE_QPACER_RATE, 31, 31⟩
abbrev PIPE_QPACER_RATE_SCALE : Fld := ⟨.PIPE_QPACER_RATE, 30, 30⟩
abbrev PIPE_QPACER_RATE_RATE : Fld := ⟨.PIPE_QPACER_RATE, 20, 0⟩
abbrev PIPE_QPACER_BURST_BURST : Fld := ⟨.PIPE_QPACER_BURST, 19, 0⟩
abbrev PIPE_PPACER_RATE_RESET : Fld := ⟨.PIPE_PPACER_RATE, 31, 31⟩
abbrev PIPE_PPACER_RATE_SCALE : Fld := ⟨.PIPE_PPACER_RATE, 30, 30⟩
abbrev PIPE_PPACER_RATE_RATE : Fld := ⟨.PIPE_PPACER_RATE, 20, 0⟩
abbrev PIPE_PPACER_BURST_BURST : Fld := ⟨.PIPE_PPACER_BURST, 19, 0⟩
abbrev PIPE_ECN_CFG_EN : Fld := ⟨.PIPE_ECN_CFG, 31, 31⟩
abbrev PIPE_ECN_CFG_DROP_NOT_ECT : Fld := ⟨.PIPE_ECN_CFG, 30, 30⟩
abbrev PIPE_ECN_CFG_PMAX : Fld := ⟨.PIPE_ECN_CFG, 7, 0⟩
abbrev PIPE_ECN_THR_MAX : Fld := ⟨.PIPE_ECN_THR, 31, 16⟩
abbrev PIPE_ECN_THR_MIN : Fld := ⟨.PIPE_ECN_THR, 15, 0⟩
abbrev PIPE_PFC_CFG_EN_RX : Fld := ⟨.PIPE_PFC_CFG, 31, 31⟩
abbrev PIPE_PFC_CFG_EN_TX : Fld := ⟨.PIPE_PFC_CFG, 30, 30⟩
abbrev PIPE_PFC_CFG_RX_MAP : Fld := ⟨.PIPE_PFC_CFG, 23, 0⟩
abbrev PIPE_PFC_TXMAP_TX_PRIO : Fld := ⟨.PIPE_PFC_TXMAP, 11, 0⟩
abbrev PIPE_PFC_TIMING_QUANTA : Fld := ⟨.PIPE_PFC_TIMING, 31, 16⟩
abbrev PIPE_PFC_TIMING_REFRESH : Fld := ⟨.PIPE_PFC_TIMING, 15, 0⟩
abbrev PIPE_PFC_STATE_XOFF : Fld := ⟨.PIPE_PFC_STATE, 15, 12⟩
abbrev PIPE_PFC_STATE_PAUSED : Fld := ⟨.PIPE_PFC_STATE, 7, 4⟩
abbrev PIPE_PFC_THR_XOFF_SECTORS : Fld := ⟨.PIPE_PFC_THR_XOFF, 19, 0⟩
abbrev PIPE_PFC_THR_XON_SECTORS : Fld := ⟨.PIPE_PFC_THR_XON, 19, 0⟩
abbrev PIPE_PORT_QOS_METER_EN : Fld := ⟨.PIPE_PORT_QOS, 31, 31⟩
abbrev PIPE_PORT_QOS_METER : Fld := ⟨.PIPE_PORT_QOS, 15, 0⟩
abbrev PIPE_METER_CFG_EN : Fld := ⟨.PIPE_METER_CFG, 31, 31⟩
abbrev PIPE_METER_CFG_MODE : Fld := ⟨.PIPE_METER_CFG, 30, 30⟩
abbrev PIPE_METER_CFG_AWARE : Fld := ⟨.PIPE_METER_CFG, 29, 29⟩
abbrev PIPE_METER_CFG_SCALE : Fld := ⟨.PIPE_METER_CFG, 28, 28⟩
abbrev PIPE_METER_CFG_WIRE : Fld := ⟨.PIPE_METER_CFG, 27, 27⟩
abbrev PIPE_METER_CFG_YELLOW_ACT : Fld := ⟨.PIPE_METER_CFG, 23, 22⟩
abbrev PIPE_METER_CFG_RED_ACT : Fld := ⟨.PIPE_METER_CFG, 21, 20⟩
abbrev PIPE_METER_CIR_RATE : Fld := ⟨.PIPE_METER_CIR, 20, 0⟩
abbrev PIPE_METER_PIR_RATE : Fld := ⟨.PIPE_METER_PIR, 20, 0⟩
abbrev PIPE_METER_CBS_BYTES : Fld := ⟨.PIPE_METER_CBS, 19, 0⟩
abbrev PIPE_METER_EBS_PBS_BYTES : Fld := ⟨.PIPE_METER_EBS_PBS, 19, 0⟩
abbrev PIPE_METER_DSCP_RED_DSCP : Fld := ⟨.PIPE_METER_DSCP, 13, 8⟩
abbrev PIPE_METER_DSCP_YELLOW_DSCP : Fld := ⟨.PIPE_METER_DSCP, 5, 0⟩
abbrev PIPE_METER_CNT_COUNT : Fld := ⟨.PIPE_METER_CNT, 63, 0⟩
abbrev PIPE_QCNT_COUNT : Fld := ⟨.PIPE_QCNT, 63, 0⟩
abbrev PIPE_PFC_CNT_COUNT : Fld := ⟨.PIPE_PFC_CNT, 63, 0⟩
abbrev BUF_CTRL_REFILL_CELLS : Fld := ⟨.BUF_CTRL, 12, 1⟩
abbrev BUF_CTRL_SPILL_EN : Fld := ⟨.BUF_CTRL, 0, 0⟩
abbrev BUF_TIMED_RESERVE_CELLS : Fld := ⟨.BUF_TIMED_RESERVE, 20, 0⟩
abbrev BUF_HEADROOM_SECTORS : Fld := ⟨.BUF_HEADROOM, 23, 0⟩
abbrev BUF_SHARED_FREE_SECTORS : Fld := ⟨.BUF_SHARED_FREE, 24, 0⟩
abbrev BUF_STATUS_OWNER_FREE : Fld := ⟨.BUF_STATUS, 23, 4⟩
abbrev BUF_STATUS_QEMPTY : Fld := ⟨.BUF_STATUS, 3, 0⟩
abbrev BUF_MC_FREE_ERR_COUNT : Fld := ⟨.BUF_MC_FREE_ERR, 31, 0⟩
abbrev BUF_ECC_UNCORR : Fld := ⟨.BUF_ECC, 31, 16⟩
abbrev BUF_ECC_CORR : Fld := ⟨.BUF_ECC, 15, 0⟩
abbrev BUF_ALLOC_REQ_SIZE : Fld := ⟨.BUF_ALLOC_REQ, 13, 0⟩
abbrev BUF_ALLOC_RESP_STATUS : Fld := ⟨.BUF_ALLOC_RESP, 31, 29⟩
abbrev BUF_ALLOC_RESP_POOL : Fld := ⟨.BUF_ALLOC_RESP, 28, 26⟩
abbrev BUF_ALLOC_RESP_INDEX : Fld := ⟨.BUF_ALLOC_RESP, 25, 0⟩
abbrev BUF_FREE_POOL : Fld := ⟨.BUF_FREE, 28, 26⟩
abbrev BUF_FREE_INDEX : Fld := ⟨.BUF_FREE, 25, 0⟩
abbrev BUF_FREE_ERR_COUNT : Fld := ⟨.BUF_FREE_ERR, 31, 0⟩
abbrev BUF_POOL_CFG_BLOCKS : Fld := ⟨.BUF_POOL_CFG, 25, 0⟩
abbrev BUF_POOL_FREE_FREE : Fld := ⟨.BUF_POOL_FREE, 25, 0⟩
abbrev BUF_QUOTA_LIMIT : Fld := ⟨.BUF_QUOTA, 25, 0⟩
abbrev BUF_HELD_HELD : Fld := ⟨.BUF_HELD, 25, 0⟩
abbrev BUF_QCFG_SPILL_EN : Fld := ⟨.BUF_QCFG, 25, 25⟩
abbrev BUF_QCFG_ALPHA : Fld := ⟨.BUF_QCFG, 23, 20⟩
abbrev BUF_QCFG_MIN : Fld := ⟨.BUF_QCFG, 19, 0⟩
abbrev BUF_QUSE_SPILLED : Fld := ⟨.BUF_QUSE, 31, 31⟩
abbrev BUF_QUSE_USED : Fld := ⟨.BUF_QUSE, 24, 0⟩
abbrev BUF_PORT_CFG_CT_EN : Fld := ⟨.BUF_PORT_CFG, 31, 31⟩
abbrev BUF_PORT_CFG_SPILL_QUOTA : Fld := ⟨.BUF_PORT_CFG, 30, 16⟩
abbrev BUF_PORT_CFG_LINK_HOLD : Fld := ⟨.BUF_PORT_CFG, 15, 0⟩
abbrev BUF_AGE_LIMIT_US : Fld := ⟨.BUF_AGE, 19, 0⟩
abbrev BUF_PCNT_COUNT : Fld := ⟨.BUF_PCNT, 63, 0⟩
abbrev TBL_CTRL_LEARN_EN : Fld := ⟨.TBL_CTRL, 31, 31⟩
abbrev TBL_CTRL_SWEEP_EN : Fld := ⟨.TBL_CTRL, 30, 30⟩
abbrev TBL_CTRL_AGE_NOTICE_EN : Fld := ⟨.TBL_CTRL, 29, 29⟩
abbrev TBL_LEARN_CFG_MOVE_DAMP_US : Fld := ⟨.TBL_LEARN_CFG, 19, 0⟩
abbrev TBL_FLAP_CFG_FLAP_HOLD_S : Fld := ⟨.TBL_FLAP_CFG, 15, 0⟩
abbrev TBL_AGE_CFG_PERIOD_MS : Fld := ⟨.TBL_AGE_CFG, 19, 0⟩
abbrev TBL_HBM_SHED_SHED : Fld := ⟨.TBL_HBM_SHED, 63, 0⟩
abbrev TBL_TRACKER_FULL_COUNT : Fld := ⟨.TBL_TRACKER_FULL, 31, 0⟩
abbrev TBL_CMD_OP : Fld := ⟨.TBL_CMD, 31, 29⟩
abbrev TBL_CMD_TABLE : Fld := ⟨.TBL_CMD, 27, 24⟩
abbrev TBL_CMD_PIPE_MASK : Fld := ⟨.TBL_CMD, 15, 0⟩
abbrev TBL_CMD_INDEX_INDEX : Fld := ⟨.TBL_CMD_INDEX, 31, 0⟩
abbrev TBL_CMD_STATUS_STATUS : Fld := ⟨.TBL_CMD_STATUS, 31, 28⟩
abbrev TBL_CMD_STATUS_BUSY : Fld := ⟨.TBL_CMD_STATUS, 27, 27⟩
abbrev TBL_CMD_RESULT_RESULT : Fld := ⟨.TBL_CMD_RESULT, 31, 0⟩
abbrev TBL_CMD_DATA_DATA : Fld := ⟨.TBL_CMD_DATA, 31, 0⟩
abbrev TBL_DMA_SRC_SPACE : Fld := ⟨.TBL_DMA_SRC, 31, 31⟩
abbrev TBL_DMA_SRC_OFFSET : Fld := ⟨.TBL_DMA_SRC, 29, 0⟩
abbrev TBL_DMA_COUNT_COUNT : Fld := ⟨.TBL_DMA_COUNT, 15, 0⟩
abbrev TBL_DMA_CTRL_GO : Fld := ⟨.TBL_DMA_CTRL, 31, 31⟩
abbrev TBL_DMA_CTRL_LOCK : Fld := ⟨.TBL_DMA_CTRL, 30, 30⟩
abbrev TBL_DMA_CTRL_BUSY : Fld := ⟨.TBL_DMA_CTRL, 29, 29⟩
abbrev TBL_DMA_CTRL_STATUS : Fld := ⟨.TBL_DMA_CTRL, 27, 24⟩
abbrev TBL_DMA_CTRL_DONE : Fld := ⟨.TBL_DMA_CTRL, 15, 0⟩
abbrev TBL_DMA_CFG_LOCK_MAX_US : Fld := ⟨.TBL_DMA_CFG, 15, 0⟩
abbrev TBL_NOTICE_POP0_WORD : Fld := ⟨.TBL_NOTICE_POP0, 31, 0⟩
abbrev TBL_NOTICE_POP_WORD : Fld := ⟨.TBL_NOTICE_POP, 31, 0⟩
abbrev TBL_NOTICE_STAT_OVF : Fld := ⟨.TBL_NOTICE_STAT, 31, 16⟩
abbrev TBL_NOTICE_STAT_LEVEL : Fld := ⟨.TBL_NOTICE_STAT, 10, 0⟩
abbrev TBL_ERR_POP0_WORD : Fld := ⟨.TBL_ERR_POP0, 31, 0⟩
abbrev TBL_ERR_POP_WORD : Fld := ⟨.TBL_ERR_POP, 31, 0⟩
abbrev TBL_ERR_STAT_OVF : Fld := ⟨.TBL_ERR_STAT, 31, 16⟩
abbrev TBL_ERR_STAT_LEVEL : Fld := ⟨.TBL_ERR_STAT, 6, 0⟩
abbrev TBL_OCC_USED : Fld := ⟨.TBL_OCC, 31, 0⟩
abbrev TBL_CAM_CAM_USED : Fld := ⟨.TBL_CAM, 12, 0⟩
abbrev TBL_SEED_SEED : Fld := ⟨.TBL_SEED, 31, 0⟩
abbrev TBL_CNT_COUNT : Fld := ⟨.TBL_CNT, 63, 0⟩
abbrev TBL_PORT_LEARN_EN : Fld := ⟨.TBL_PORT_LEARN, 31, 31⟩
abbrev TBL_PORT_LEARN_LIMIT : Fld := ⟨.TBL_PORT_LEARN, 19, 0⟩
abbrev TBL_PORT_LEARNED_COUNT : Fld := ⟨.TBL_PORT_LEARNED, 19, 0⟩
abbrev HBM_CTRL_EN : Fld := ⟨.HBM_CTRL, 0, 0⟩
abbrev HBM_STATUS_READY : Fld := ⟨.HBM_STATUS, 31, 31⟩
abbrev HBM_STATUS_QUIET : Fld := ⟨.HBM_STATUS, 30, 30⟩
abbrev HBM_STATUS_INIT_BUSY : Fld := ⟨.HBM_STATUS, 29, 29⟩
abbrev HBM_STATUS_RECLAIM_BUSY : Fld := ⟨.HBM_STATUS, 28, 28⟩
abbrev HBM_STATUS_SR : Fld := ⟨.HBM_STATUS, 7, 0⟩
abbrev HBM_SPILL_CFG_SPILL_GIB : Fld := ⟨.HBM_SPILL_CFG, 6, 0⟩
abbrev HBM_FLOOR_GBPS : Fld := ⟨.HBM_FLOOR, 11, 0⟩
abbrev HBM_RH_CFG_SHIFT : Fld := ⟨.HBM_RH_CFG, 4, 0⟩
abbrev HBM_SCRUB_CFG_HOURS : Fld := ⟨.HBM_SCRUB_CFG, 15, 0⟩
abbrev HBM_ERR_STAT_SEG_BREAK : Fld := ⟨.HBM_ERR_STAT, 31, 31⟩
abbrev HBM_ERR_STAT_OVF : Fld := ⟨.HBM_ERR_STAT, 23, 16⟩
abbrev HBM_ERR_STAT_LEVEL : Fld := ⟨.HBM_ERR_STAT, 6, 0⟩
abbrev HBM_QUARANTINE_COUNT : Fld := ⟨.HBM_QUARANTINE, 31, 0⟩
abbrev HBM_REQ_CFG_TARGET : Fld := ⟨.HBM_REQ_CFG, 15, 0⟩
abbrev HBM_STACK_CFG_AUTO_SR_EN : Fld := ⟨.HBM_STACK_CFG, 31, 31⟩
abbrev HBM_STACK_CFG_IDLE_US : Fld := ⟨.HBM_STACK_CFG, 15, 0⟩
abbrev HBM_STACK_STAT_SR : Fld := ⟨.HBM_STACK_STAT, 31, 31⟩
abbrev HBM_STACK_STAT_TRAINED : Fld := ⟨.HBM_STACK_STAT, 30, 30⟩
abbrev HBM_STACK_STAT_TEMP_C : Fld := ⟨.HBM_STACK_STAT, 7, 0⟩
abbrev HBM_ERR_POP0_WORD : Fld := ⟨.HBM_ERR_POP0, 31, 0⟩
abbrev HBM_ERR_POP_WORD : Fld := ⟨.HBM_ERR_POP, 31, 0⟩
abbrev HBM_SPILL_LOST_COUNT : Fld := ⟨.HBM_SPILL_LOST, 63, 0⟩
abbrev HBM_JRN_LOST_COUNT : Fld := ⟨.HBM_JRN_LOST, 63, 0⟩
abbrev HBM_STACK_CNT_COUNT : Fld := ⟨.HBM_STACK_CNT, 63, 0⟩
abbrev HBM_REQ_CNT_COUNT : Fld := ⟨.HBM_REQ_CNT, 63, 0⟩
abbrev LANE_CFG_TX_INV : Fld := ⟨.LANE_CFG, 31, 31⟩
abbrev LANE_CFG_AUTO_POL : Fld := ⟨.LANE_CFG, 30, 30⟩
abbrev LANE_CFG_RX_INV : Fld := ⟨.LANE_CFG, 29, 29⟩
abbrev LANE_STATUS_SIGNAL : Fld := ⟨.LANE_STATUS, 31, 31⟩
abbrev LANE_STATUS_CDR_LOCK : Fld := ⟨.LANE_STATUS, 30, 30⟩
abbrev LANE_STATUS_RX_INV_ACT : Fld := ⟨.LANE_STATUS, 29, 29⟩
abbrev LANE_STATUS_ADAPTED : Fld := ⟨.LANE_STATUS, 28, 28⟩
abbrev LANE_STATUS_SNR : Fld := ⟨.LANE_STATUS, 9, 0⟩
abbrev LANE_TXEQ_POST1 : Fld := ⟨.LANE_TXEQ, 31, 24⟩
abbrev LANE_TXEQ_MAIN : Fld := ⟨.LANE_TXEQ, 23, 16⟩
abbrev LANE_TXEQ_PRE1 : Fld := ⟨.LANE_TXEQ, 15, 8⟩
abbrev LANE_TXEQ_PRE2 : Fld := ⟨.LANE_TXEQ, 7, 0⟩
abbrev LANE_SCAN_CFG_GO : Fld := ⟨.LANE_SCAN_CFG, 31, 31⟩
abbrev LANE_SCAN_CFG_STOP : Fld := ⟨.LANE_SCAN_CFG, 30, 30⟩
abbrev LANE_SCAN_CFG_EYE : Fld := ⟨.LANE_SCAN_CFG, 29, 28⟩
abbrev LANE_SCAN_CFG_DWELL : Fld := ⟨.LANE_SCAN_CFG, 20, 16⟩
abbrev LANE_SCAN_CFG_VOFF : Fld := ⟨.LANE_SCAN_CFG, 15, 8⟩
abbrev LANE_SCAN_CFG_PHASE : Fld := ⟨.LANE_SCAN_CFG, 6, 0⟩
abbrev LANE_SCAN_STAT_BUSY : Fld := ⟨.LANE_SCAN_STAT, 31, 31⟩
abbrev LANE_SCAN_STAT_STATUS : Fld := ⟨.LANE_SCAN_STAT, 30, 28⟩
abbrev LANE_SCAN_ERR_COUNT : Fld := ⟨.LANE_SCAN_ERR, 63, 0⟩
abbrev LANE_SCAN_CMP_COUNT : Fld := ⟨.LANE_SCAN_CMP, 63, 0⟩
abbrev PORT_CFG_EN : Fld := ⟨.PORT_CFG, 31, 31⟩
abbrev PORT_CFG_MODE : Fld := ⟨.PORT_CFG, 30, 27⟩
abbrev PORT_CFG_MEDIA : Fld := ⟨.PORT_CFG, 26, 25⟩
abbrev PORT_CFG_FEC_OFF : Fld := ⟨.PORT_CFG, 24, 24⟩
abbrev PORT_CFG_AN_EN : Fld := ⟨.PORT_CFG, 23, 23⟩
abbrev PORT_CFG_TRAIN_EN : Fld := ⟨.PORT_CFG, 22, 22⟩
abbrev PORT_CFG_TX_REVERSE : Fld := ⟨.PORT_CFG, 21, 21⟩
abbrev PORT_CFG_LPI_TX_EN : Fld := ⟨.PORT_CFG, 20, 20⟩
abbrev PORT_CFG_LPI_RX_EN : Fld := ⟨.PORT_CFG, 19, 19⟩
abbrev PORT_CFG_UP_DEBOUNCE_US : Fld := ⟨.PORT_CFG, 15, 0⟩
abbrev PORT_STATUS_STAGE : Fld := ⟨.PORT_STATUS, 31, 28⟩
abbrev PORT_STATUS_LINK_UP : Fld := ⟨.PORT_STATUS, 27, 27⟩
abbrev PORT_STATUS_LOCAL_FAULT : Fld := ⟨.PORT_STATUS, 26, 26⟩
abbrev PORT_STATUS_REMOTE_FAULT : Fld := ⟨.PORT_STATUS, 25, 25⟩
abbrev PORT_STATUS_RX_REVERSED : Fld := ⟨.PORT_STATUS, 24, 24⟩
abbrev PORT_STATUS_DEGRADED : Fld := ⟨.PORT_STATUS, 23, 23⟩
abbrev PORT_STATUS_LPI_TX : Fld := ⟨.PORT_STATUS, 22, 22⟩
abbrev PORT_STATUS_LPI_RX : Fld := ⟨.PORT_STATUS, 21, 21⟩
abbrev PORT_STATUS_FAIL : Fld := ⟨.PORT_STATUS, 20, 18⟩
abbrev PORT_LANE_MAP_MAP : Fld := ⟨.PORT_LANE_MAP, 23, 0⟩
abbrev PORT_SKEW_SKEW : Fld := ⟨.PORT_SKEW, 15, 0⟩
abbrev PORT_TIMER_TRAIN_MS : Fld := ⟨.PORT_TIMER, 31, 16⟩
abbrev PORT_TIMER_LOCK_MS : Fld := ⟨.PORT_TIMER, 15, 0⟩
abbrev PORT_PREEMPT_CFG_MODE : Fld := ⟨.PORT_PREEMPT_CFG, 31, 30⟩
abbrev PORT_PREEMPT_CFG_VERIFY_MS : Fld := ⟨.PORT_PREEMPT_CFG, 15, 8⟩
abbrev PORT_PREEMPT_CFG_VERIFY_LIMIT : Fld := ⟨.PORT_PREEMPT_CFG, 2, 0⟩
abbrev PORT_PREEMPT_STAT_STATE : Fld := ⟨.PORT_PREEMPT_STAT, 31, 29⟩
abbrev PORT_PREEMPT_STAT_ATTEMPTS : Fld := ⟨.PORT_PREEMPT_STAT, 28, 26⟩
abbrev PORT_PREEMPT_STAT_PARTNER_ADDFRAG : Fld := ⟨.PORT_PREEMPT_STAT, 25, 24⟩
abbrev PORT_LPI_CFG_HOLD_US : Fld := ⟨.PORT_LPI_CFG, 15, 0⟩
abbrev PORT_FEC_CFG_DEGRADE_SYM : Fld := ⟨.PORT_FEC_CFG, 23, 0⟩
abbrev PORT_CNT_COUNT : Fld := ⟨.PORT_CNT, 63, 0⟩
abbrev IVL_CTRL_EN : Fld := ⟨.IVL_CTRL, 31, 31⟩
abbrev IVL_CTRL_ENV_HOPS : Fld := ⟨.IVL_CTRL, 19, 16⟩
abbrev IVL_CTRL_VER_MASK : Fld := ⟨.IVL_CTRL, 1, 0⟩
abbrev IVL_DEVNUM_DEVNUM : Fld := ⟨.IVL_DEVNUM, 17, 0⟩
abbrev IVL_ETH_CFG_CLASS : Fld := ⟨.IVL_ETH_CFG, 18, 16⟩
abbrev IVL_ETH_CFG_ETYPE : Fld := ⟨.IVL_ETH_CFG, 15, 0⟩
abbrev IVL_NOTICE_MAC_LO_MAC_LO : Fld := ⟨.IVL_NOTICE_MAC_LO, 31, 0⟩
abbrev IVL_NOTICE_MAC_HI_MAC_HI : Fld := ⟨.IVL_NOTICE_MAC_HI, 15, 0⟩
abbrev IVL_TIME_CFG_SERVO_EN : Fld := ⟨.IVL_TIME_CFG, 31, 31⟩
abbrev IVL_TIME_CFG_SERVO_PORT : Fld := ⟨.IVL_TIME_CFG, 1, 0⟩
abbrev IVL_ENV_STAT_OVF : Fld := ⟨.IVL_ENV_STAT, 31, 16⟩
abbrev IVL_ENV_STAT_LEVEL : Fld := ⟨.IVL_ENV_STAT, 6, 0⟩
abbrev IVL_ENV_POP0_WORD : Fld := ⟨.IVL_ENV_POP0, 31, 0⟩
abbrev IVL_ENV_POP_WORD : Fld := ⟨.IVL_ENV_POP, 31, 0⟩
abbrev IVL_ROUTE_LO_EN : Fld := ⟨.IVL_ROUTE_LO, 31, 31⟩
abbrev IVL_ROUTE_LO_LOW : Fld := ⟨.IVL_ROUTE_LO, 17, 0⟩
abbrev IVL_ROUTE_HI_PORT : Fld := ⟨.IVL_ROUTE_HI, 19, 18⟩
abbrev IVL_ROUTE_HI_HIGH : Fld := ⟨.IVL_ROUTE_HI, 17, 0⟩
abbrev IVL_PORT_CFG_EN : Fld := ⟨.IVL_PORT_CFG, 31, 31⟩
abbrev IVL_PORT_CFG_CARRIER : Fld := ⟨.IVL_PORT_CFG, 30, 30⟩
abbrev IVL_PORT_CFG_MASTER_EN : Fld := ⟨.IVL_PORT_CFG, 29, 29⟩
abbrev IVL_PORT_CFG_SLEEP_TX_EN : Fld := ⟨.IVL_PORT_CFG, 28, 28⟩
abbrev IVL_PORT_CFG_FOLLOW : Fld := ⟨.IVL_PORT_CFG, 27, 27⟩
abbrev IVL_PORT_CFG_TX_INV : Fld := ⟨.IVL_PORT_CFG, 26, 26⟩
abbrev IVL_PORT_CFG_AUTO_POL : Fld := ⟨.IVL_PORT_CFG, 25, 25⟩
abbrev IVL_PORT_CFG_RX_INV : Fld := ⟨.IVL_PORT_CFG, 24, 23⟩
abbrev IVL_PORT_CFG_HOLD_US : Fld := ⟨.IVL_PORT_CFG, 19, 12⟩
abbrev IVL_PORT_CFG_ETH_PORT : Fld := ⟨.IVL_PORT_CFG, 10, 0⟩
abbrev IVL_PORT_STATUS_STAGE : Fld := ⟨.IVL_PORT_STATUS, 31, 29⟩
abbrev IVL_PORT_STATUS_LINK_UP : Fld := ⟨.IVL_PORT_STATUS, 28, 28⟩
abbrev IVL_PORT_STATUS_TX_SLEEP : Fld := ⟨.IVL_PORT_STATUS, 27, 27⟩
abbrev IVL_PORT_STATUS_RX_SLEEP : Fld := ⟨.IVL_PORT_STATUS, 26, 26⟩
abbrev IVL_PORT_STATUS_RX_REVERSED : Fld := ⟨.IVL_PORT_STATUS, 25, 25⟩
abbrev IVL_PORT_STATUS_RX_INV_ACT : Fld := ⟨.IVL_PORT_STATUS, 24, 23⟩
abbrev IVL_PORT_STATUS_FAIL : Fld := ⟨.IVL_PORT_STATUS, 22, 20⟩
abbrev IVL_PORT_STATUS_VERSION : Fld := ⟨.IVL_PORT_STATUS, 19, 16⟩
abbrev IVL_PORT_STATUS_PEER_VER_MAP : Fld := ⟨.IVL_PORT_STATUS, 15, 0⟩
abbrev IVL_PORT_ASYM_ASYM : Fld := ⟨.IVL_PORT_ASYM, 31, 0⟩
abbrev IVL_PORT_PEER_DEVNUM_DEVNUM : Fld := ⟨.IVL_PORT_PEER_DEVNUM, 17, 0⟩
abbrev IVL_PORT_PEER_MAC_LO_MAC_LO : Fld := ⟨.IVL_PORT_PEER_MAC_LO, 31, 0⟩
abbrev IVL_PORT_PEER_MAC_HI_MAC_HI : Fld := ⟨.IVL_PORT_PEER_MAC_HI, 15, 0⟩
abbrev IVL_TT_POP0_VALID : Fld := ⟨.IVL_TT_POP0, 31, 31⟩
abbrev IVL_TT_POP0_STEP : Fld := ⟨.IVL_TT_POP0, 30, 30⟩
abbrev IVL_TT_POP0_PEER_STATE : Fld := ⟨.IVL_TT_POP0, 29, 28⟩
abbrev IVL_TT_POP0_ID : Fld := ⟨.IVL_TT_POP0, 15, 0⟩
abbrev IVL_TT_POP_WORD : Fld := ⟨.IVL_TT_POP, 31, 0⟩
abbrev IVL_ETH_PORT_RX_EN : Fld := ⟨.IVL_ETH_PORT, 31, 31⟩
abbrev IVL_ETH_PORT_ENV_TX : Fld := ⟨.IVL_ETH_PORT, 30, 30⟩
abbrev IVL_ETH_PORT_RX_DROP : Fld := ⟨.IVL_ETH_PORT, 23, 16⟩
abbrev IVL_CNT_COUNT : Fld := ⟨.IVL_CNT, 63, 0⟩
abbrev TEL_CTRL_UNPRIV_EN : Fld := ⟨.TEL_CTRL, 31, 31⟩
abbrev TEL_CTRL_HIST_EN : Fld := ⟨.TEL_CTRL, 30, 30⟩
abbrev TEL_CTRL_TRACE_EN : Fld := ⟨.TEL_CTRL, 29, 29⟩
abbrev TEL_CTRL_TIMED_EN : Fld := ⟨.TEL_CTRL, 28, 28⟩
abbrev TEL_RING_CFG_MODE : Fld := ⟨.TEL_RING_CFG, 31, 31⟩
abbrev TEL_RING_CFG_BLOCKS : Fld := ⟨.TEL_RING_CFG, 12, 0⟩
abbrev TEL_TAG_MISS_COUNT : Fld := ⟨.TEL_TAG_MISS, 31, 0⟩
abbrev TEL_OFF_EPISODES_COUNT : Fld := ⟨.TEL_OFF_EPISODES, 31, 0⟩
abbrev TEL_RING_WRPOS_POS : Fld := ⟨.TEL_RING_WRPOS, 63, 0⟩
abbrev TEL_RING_RELPOS_POS : Fld := ⟨.TEL_RING_RELPOS, 63, 0⟩
abbrev TEL_RING_RD_POS_POS : Fld := ⟨.TEL_RING_RD_POS, 63, 0⟩
abbrev TEL_RING_LOST_COUNT : Fld := ⟨.TEL_RING_LOST, 63, 0⟩
abbrev TEL_RING_OVERWRITTEN_COUNT : Fld := ⟨.TEL_RING_OVERWRITTEN, 63, 0⟩
abbrev TEL_RING_RD_DATA0_WORD : Fld := ⟨.TEL_RING_RD_DATA0, 31, 0⟩
abbrev TEL_RING_RD_DATA_WORD : Fld := ⟨.TEL_RING_RD_DATA, 31, 0⟩
abbrev TEL_SNAP_GO : Fld := ⟨.TEL_SNAP, 31, 31⟩
abbrev TEL_SNAP_TIME_NS_NS : Fld := ⟨.TEL_SNAP_TIME_NS, 29, 0⟩
abbrev TEL_SNAP_TIME_SEC_LO_SEC_LO : Fld := ⟨.TEL_SNAP_TIME_SEC_LO, 31, 0⟩
abbrev TEL_SNAP_TIME_SEC_HI_FRAC : Fld := ⟨.TEL_SNAP_TIME_SEC_HI, 31, 16⟩
abbrev TEL_SNAP_TIME_SEC_HI_SEC_HI : Fld := ⟨.TEL_SNAP_TIME_SEC_HI, 15, 0⟩
abbrev TEL_PC_CLEAR_GO : Fld := ⟨.TEL_PC_CLEAR, 31, 31⟩
abbrev TEL_PC_CLEAR_INDEX : Fld := ⟨.TEL_PC_CLEAR, 9, 0⟩
abbrev TEL_DESC_SEL_INDEX : Fld := ⟨.TEL_DESC_SEL, 20, 0⟩
abbrev TEL_DESC_STAT_IN_USE : Fld := ⟨.TEL_DESC_STAT, 31, 31⟩
abbrev TEL_DESC_DATA_DATA : Fld := ⟨.TEL_DESC_DATA, 31, 0⟩
abbrev TEL_PORT_TRACE_SHIFT : Fld := ⟨.TEL_PORT_TRACE, 4, 0⟩
abbrev TEL_HIST_CFG_CLEAR : Fld := ⟨.TEL_HIST_CFG, 31, 31⟩
abbrev TEL_HIST_CFG_WIDTH : Fld := ⟨.TEL_HIST_CFG, 19, 16⟩
abbrev TEL_HIST_CFG_BASE_NS : Fld := ⟨.TEL_HIST_CFG, 15, 0⟩
abbrev TEL_HIST_MAX_MAX_NS : Fld := ⟨.TEL_HIST_MAX, 31, 0⟩
abbrev TEL_TIMED_CFG_MODE : Fld := ⟨.TEL_TIMED_CFG, 31, 30⟩
abbrev TEL_TIMED_CFG_THRESH_NS : Fld := ⟨.TEL_TIMED_CFG, 15, 0⟩
abbrev TEL_PC_CFG_CHAIN : Fld := ⟨.TEL_PC_CFG, 31, 31⟩
abbrev TEL_PC_CFG_VIS : Fld := ⟨.TEL_PC_CFG, 30, 30⟩
abbrev TEL_PC_CFG_OVF : Fld := ⟨.TEL_PC_CFG, 29, 29⟩
abbrev TEL_PC_CFG_PARTITION : Fld := ⟨.TEL_PC_CFG, 28, 23⟩
abbrev TEL_PC_CFG_SEL : Fld := ⟨.TEL_PC_CFG, 22, 19⟩
abbrev TEL_PC_CFG_CLASS : Fld := ⟨.TEL_PC_CFG, 18, 16⟩
abbrev TEL_PC_CFG_CLASS_ANY : Fld := ⟨.TEL_PC_CFG, 15, 15⟩
abbrev TEL_PC_CFG_VAL : Fld := ⟨.TEL_PC_CFG, 14, 11⟩
abbrev TEL_PC_CFG_INDEX : Fld := ⟨.TEL_PC_CFG, 10, 0⟩
abbrev TEL_PC_COUNT : Fld := ⟨.TEL_PC, 31, 0⟩
abbrev TEL_PC_SNAP_COUNT : Fld := ⟨.TEL_PC_SNAP, 31, 0⟩
abbrev TEL_HIST_COUNT : Fld := ⟨.TEL_HIST, 63, 0⟩
end F

/-- The default pool sizes of R95, in blocks. -/
def poolDefault : Nat → Nat
  | 0 => 1048576
  | 1 => 1048576
  | 2 => 524288
  | 3 => 131072
  | 4 => 32768
  | 5 => 25165824
  | _ => 0

/-- R97: whether requester `r` uses pool `k` by default. -/
def poolUsedBy (r k : Nat) : Bool :=
  if r < 16 then k == 0
  else if r == 16 then k == 5 || k == 0
  else if r < 25 then 1 ≤ k && k ≤ 4
  else false

/-- The reset value of a register instance: the table's value, with the index-dependent resets of R95, R97, R249,
R335 and the zero entries of timed queues (R322). -/
def Reg.resetAt (r : Reg) (i j : Nat) : Nat :=
  match r with
  | .BUF_POOL_CFG => poolDefault i
  | .BUF_POOL_FREE => poolDefault i
  | .BUF_QUOTA => if poolUsedBy i j then poolDefault j else 0
  | .PIPE_SLOW_CFG => if 4 ≤ j ∧ j ≤ 6 then 2 else 0
  | .HBM_REQ_CFG => [12, 200, 400, 200, 1000, 1000, 2000, 50000].getD i 0
  | .PIPE_QSCHED => if j % 8 < 4 then 0 else r.row.rst
  | .PIPE_QPACER_RATE => if j % 8 < 4 then 0 else r.row.rst
  | .PIPE_QPACER_BURST => if j % 8 < 4 then 0 else r.row.rst
  | .PIPE_ECN_CFG => if j % 8 < 4 then 0 else r.row.rst
  | .PIPE_ECN_THR => if j % 8 < 4 then 0 else r.row.rst
  | _ => r.row.rst

/-- The privileged BAR0 offset of an instance of a register. -/
def Reg.off (r : Reg) (i : Nat := 0) (j : Nat := 0) (k : Nat := 0) : Nat :=
  match r.row.dims with
  | [] => r.row.base
  | [a] => r.row.base + a.1 * i
  | [a, b] => r.row.base + a.1 * i + b.1 * j
  | a :: b :: c :: _ => r.row.base + a.1 * i + b.1 * j + c.1 * k

/-- A register instance found at an offset: the register, its indices, and whether the offset is the high word. -/
structure RegHit where
  reg : Reg
  i : Nat
  j : Nat
  k : Nat
  high : Bool
  deriving DecidableEq, Repr

/-- Match the remainder of an offset against the strides of one row. -/
def matchDims (wide : Bool) : List (Nat × Nat) → Nat → Option (List Nat × Bool)
  | [], rem => if rem == 0 then some ([], false) else if wide && rem == 4 then some ([], true) else none
  | (st, cnt) :: rest, rem =>
    if rem / st < cnt then
      match matchDims wide rest (rem % st) with
      | some (is, h) => some (rem / st :: is, h)
      | none => none
    else none

/-- Does the offset address this register, and which instance? -/
def Reg.hit? (r : Reg) (off : Nat) : Option RegHit :=
  let row := r.row
  if off < row.base then none
  else match matchDims row.wide row.dims (off - row.base) with
    | some (is, h) => some ⟨r, is.getD 0 0, is.getD 1 0, is.getD 2 0, h⟩
    | none => none

/-- The first register of a list that an offset addresses. -/
def findReg (off : Nat) : List Reg → Option RegHit
  | [] => none
  | r :: rs => match r.hit? off with
    | some h => some h
    | none => findReg off rs

/-- The register an offset of the privileged view addresses, if it is no reserved offset (R14, R31). -/
def lookupReg (off : Nat) : Option RegHit :=
  findReg off ((regBlocks.filter fun b => b.1 ≤ off && off < b.2.1).flatMap fun b => b.2.2)

end Sys2Proof.Machine
end

