-- ==== Sys2Proof/Config.lean ====
section
/-! DEFINITION. What the spec leaves open and this model leaves free: constants without a body, so that no proof can see
their value and a claim holds whatever they are. -/

namespace Sys2Proof

/-- The free values of the model (assumption 5, DESIGN CHOICE): the `n`-th value the spec leaves open in a run. -/
opaque Config.freeValue : Nat → Nat

/-- The capacity of port 1024 in Mb/s, which R19 gives only as limited by PCIe 5.0 (assumption 112, DESIGN CHOICE). -/
opaque Config.hostRate : Nat

/-- The source MAC address of a port, which no rule states (assumption 113, DESIGN CHOICE). -/
opaque Config.sourceMac : Nat → Nat

/-- The microcode ROM, which the manual does not print (R234; assumption 53, DESIGN CHOICE): the word at an address. -/
opaque Config.rom : Nat → Nat

/-- The step a hint gives a pipe when no permitted step has its packet rate (R495): a function of the load in percent and
of the pipe's HINT_STEP and STEP. -/
opaque Config.hintShort : Nat → Nat → Nat → Nat

end Sys2Proof
end

