-- ==== Sys2Proof/Machine/State.lean ====
section
/-! DEFINITION. The state of the KX2048: every register (in one sparse register file keyed by BAR0 offset), every queue,
store, ring, timer and mode the manual gives the device, the two memories (HBM and scratchpad), and the queue of waiting
commands. Plain data. -/

namespace Sys2Proof.Machine

/-- Faults of the model. The manual gives every command an effect or a completion status, so no meaning faults. -/
inductive Fault where
  /-- Raised by no command: kept so that the type is not empty. Safe. -/
  | unused
  deriving DecidableEq, Repr

/-- Refusals of the model. -/
inductive Refusal where
  /-- Raised by the dispatcher for a command that has no meaning yet; none is left. Safe: nothing is claimed of it. -/
  | notModelled (mnemonic : String)
  deriving DecidableEq, Repr

/-- How an access completes: normally, or with the status or error the manual names (R3, R8, R28, R452). -/
inductive Status where
  | ok
  | conflict
  /-- Unsupported Request, NAK or bus error of R8 and R452, by the path of the master. -/
  | unsupported
  /-- Completer Abort, halt or NAK of R28, by the path of the master. -/
  | aborted
  /-- The error of R435: the bank is not ON. -/
  | notOn
  /-- The completion that PCIe 5.0 prescribes for a request that breaks its rules (R420); the spec does not say which. -/
  | pcie
  deriving DecidableEq, Repr

/-- The completion of one access: its master, status and data read. -/
structure Completion where
  m : Nat
  status : Status
  data : Nat
  deriving DecidableEq, Repr

/-- A character of an IVL lane: a control character Kx.y or a data byte (R382). -/
inductive IvlChar where
  | k (x y : Nat)
  | d (b : Byte)
  deriving DecidableEq, Repr

/-- The ordered sets of an IVL lane (R382). -/
inductive IvlSet where
  | idle
  | skip
  | ts (ack : Bool)
  | sleep
  | wake
  deriving DecidableEq, Repr

/-- What leaves the device at a step. -/
inductive Out where
  /-- A frame's first bit leaves port `e`; its bytes as sent. -/
  | frame (e : Nat) (bytes : List Byte)
  /-- A frame already on the line ended with inverted FCS (R106). -/
  | stomp (e cid : Nat)
  /-- A PFC frame of port `e`: each enabled priority and its time (R318). -/
  | pfc (e : Nat) (times : List (Nat × Nat))
  /-- An IVL message on the lanes of logical port `k`: the characters of lane 0 and of lane 1 (R382). -/
  | ivl (k : Nat) (lane0 lane1 : List IvlChar)
  /-- Logical port `k` sends `n` ordered sets of a kind on each lane (R382, R383, R386). -/
  | ivlSets (k n : Nat) (set : IvlSet)
  /-- What logical port `k` sends between messages from now on (R382). -/
  | ivlFill (k : Nat) (set : IvlSet)
  /-- How logical port `k` sends on its lanes: inverted or not (R385). -/
  | ivlLanes (k : Nat) (inverted : Bool)
  /-- An interrupt of a master: 0 mailbox, 1 time, 2 power. -/
  | irq (kind m : Nat)
  /-- What port `e` advertises under AN: its mode, and whether FEC is off (R364). -/
  | advertise (e mode : Nat) (fecOff : Bool)
  /-- Port `e` tells its partner that it accepts LPI (R372); no rule says by which message (assumption 155, DESIGN CHOICE). -/
  | acceptsLpi (e : Nat)
  /-- How port `e` sends on its lanes, by offset: the PCS lane each carries, and whether it is inverted (R365, R366). -/
  | txLanes (e : Nat) (lanes : List (Nat × Bool))
  /-- Port `e` starts, or stops, sending remote fault (R367). -/
  | remoteFault (e : Nat) (b : Bool)
  /-- A verify or respond mPacket of port `e` (R369). -/
  | mPacket (e : Nat) (respond : Bool)
  /-- A pulse of a time pin: its active edge at `t8` in 0.125 ns, held for `width8`, and whether it is active high
  (R150, R151, R163). -/
  | pin (n : Nat) (t8 : Int) (width8 : Nat) (high : Bool)
  /-- The bytes the SMBus target at an address answers a READ with: count, data and PEC (R535, R536). -/
  | smbus (addr : Nat) (bytes : List Byte)
  /-- A flash command of R470: opcode, address bytes, address, width, bytes to transfer, and the data of a write. -/
  | spi (opcode addrBytes addr width len : Nat) (data : List Byte)
  /-- The JTAG data register an instruction selects: 0 BYPASS, 1 IDCODE, 2 boundary; and what IDCODE reads (R539). -/
  | jtag (dr : Nat) (code : Option Nat)
  /-- THERM_TRIP_N is asserted (R493). -/
  | thermTrip
  deriving DecidableEq, Repr

/-! ### Frames and copies -/

/-- The configuration of a session context that a classified frame keeps (R197): meter, excerpt offset, notice port. -/
structure SessCfg where
  meterEn : Bool
  meter : Nat
  excerpt : Nat
  noticePort : Nat
  deriving DecidableEq, Repr

/-- The fields of a PTP message that its correction reads (R138): transport bit of R160, domain, message type,
twoStepFlag, sequenceId, sourcePortIdentity and the offset of the PTP header. -/
structure PtpIn where
  transport : Nat
  domain : Nat
  msgType : Nat
  twoStep : Bool
  seqId : Nat
  srcPortId : Nat
  off : Nat
  deriving DecidableEq, Repr

/-- What a frame carries from step 1 to step 12 of its path (R22). Times are full device times in 0.125 ns. -/
structure Frame where
  id : Nat
  ingress : Nat
  bytes : List Byte
  /-- Stored length (R78). -/
  len : Nat
  /-- Length in which it arrived (R54). -/
  rxLen : Nat
  stamp8 : Nat
  edge8 : Nat
  edgeDev : Nat
  tagged : Bool
  /-- The edge stamp of its stamp tag was taken in holdover (R202, R204). -/
  edgeHold : Bool
  heat : Nat
  ann : Nat
  session : Option Nat
  seq : Nat
  partition : Nat
  cls : Nat
  meterDscp : Option Nat
  /-- The rewrite SET_REWRITE selected, and what the egress lookups find for the frame's copies (R248). -/
  rewrite : Option Nat
  egress : List EgressIn
  trace : Option Nat
  ptp : Option PtpIn
  inj : Option Injection
  /-- A message of the Ivgon link that the frame carries: its logical port, and the step ticks seen when it was made (R390). -/
  ivl : Option (Nat × Nat)
  /-- The trap header that precedes a trapped frame (R250). -/
  trapHdr : List Byte
  /-- The session context's configuration when the frame was classified (R197). -/
  cfg : SessCfg
  /-- Number of its first entry into the device, which recirculation keeps (R22, R127). -/
  born : Nat
  deriving DecidableEq, Repr

/-- What a copy is a copy of (R36). -/
inductive Kind where
  | unicast
  | multicast (group : Nat)
  | finish (group : Nat)
  | release (group : Nat)
  /-- The one copy of a frame that its group cannot take, with the group as R200 writes it (R552). -/
  | noGroup (field : Nat)
  | observation
  deriving DecidableEq, Repr

/-- Where a copy stands on its way (the stages of the frame path). -/
inductive Stage where
  | align
  | hurdle
  | decided
  | mergeWait
  | merge
  | calendar
  | queued
  | overflow
  | spilled
  | lane
  | line
  | preempted
  /-- Found AGED or FINISH_LATE in this cell time; its verdict falls at the cell time's end (R39). -/
  | due
  | discard
  deriving DecidableEq, Repr

/-- A frame copy: its descriptor (R80), decision, buffer charge and progress. -/
structure Copy where
  id : Nat
  frame : Frame
  desc : Option Nat
  egress : Nat
  /-- Class when decided (R199). -/
  cls : Nat
  /-- Class it is served in: a DEFERRED copy's best-effort class (R58). -/
  served : Nat
  kind : Kind
  stage : Stage
  /-- B of the decision, in ns (R59). -/
  bound : Nat
  /-- p of R54 or R180 in 0.125 ns; none when no prediction was made. -/
  pred8 : Option Nat
  deferred : Bool
  /-- Reason of the failed check of a DEFERRED copy (R199). -/
  reason : Nat
  ann : Nat
  ct : Bool
  badTail : Bool
  heat : Nat
  /-- Wire length charged (R53). -/
  wire : Nat
  /-- Whether the copy counts in backlog (R55). -/
  counted : Bool
  /-- Sectors charged: minimum, timed reserve, shared pool, headroom (R91, R319). -/
  chMin : Nat
  chRes : Nat
  chShared : Nat
  chHead : Nat
  /-- Owner-list index for a shared chain (R100). -/
  owner : Option Nat
  cells : List Nat
  firstSector : Nat
  /-- Cells read so far. -/
  cellsRead : List Nat
  /-- Slack in 0.125 ns of a finish-group copy (R173). -/
  slack8 : Int
  /-- The held copies whose slack an inserting copy took, and how much (R173). -/
  slackTaken : List Nat
  slackD8 : Nat
  inserting : Bool
  /-- P and P' in 0.125 ns of a release copy (R179, R184). -/
  launchP8 : Nat
  launchQ8 : Nat
  eligible : Bool
  slipped : Bool
  collided : Bool
  selected : Bool
  started : Bool
  /-- First bit left: D in 0.125 ns. -/
  depart8 : Option Nat
  /-- Queue use when selected (R510). -/
  useAtSel : Option Nat
  /-- ECN field set to CE at selection (R321). -/
  ce : Bool
  /-- Has an open evidence record (R206). -/
  record : Bool
  /-- Held over a link loss (R118). -/
  heldOver : Bool
  /-- Cell time at which the copy was enqueued. -/
  enqCell : Nat
  /-- Found aged in the spill segment by the ageing pass (R104). -/
  agedOut : Bool
  /-- Cell time in which it started on its line. -/
  startCell : Nat
  /-- When the fragment on the line began, in 0.125 ns, and the frame bytes that left in fragments before it (R307). -/
  fragAt : Nat
  sent : Nat
  /-- Number of its Hurdle decision (R56), and the cell time in which it left its ingress pipeline or was decided (R81). -/
  order : Nat
  leftCell : Nat
  /-- The guard of its launch in 0.125 ns, as it stood at the decision (R182, R185). -/
  guard8 : Nat
  /-- Where it begins in its queue's spill stream (R101). -/
  spillAt : Nat
  deriving DecidableEq, Repr

/-- A link word of R77. -/
structure LinkWord where
  parity : Bool
  mc : Bool
  timed : Bool
  frames : Nat
  last : Bool
  next : Nat
  deriving DecidableEq, Repr

/-- An open tail cell of a write assembler (R82): its pointer and the sectors in use. -/
structure OpenTail where
  ptr : Nat
  sectors : Nat
  deriving DecidableEq, Repr

/-- An owner-list entry (R100): the copies remaining per egress pipe (the mask is the pipes with a count), the shared
sectors it took from F, its cells, and whether they count in the usage of R318. -/
structure Chain where
  pipes : List (Nat × Nat)
  taken : Nat
  cells : List Nat
  counted : Bool
  deriving DecidableEq, Repr

/-- A spill page of R101: the P5 page, the copies that start in it, and where its data begins in the segment's stream of
spill headers and copies. -/
structure SpillPage where
  page : Nat
  copies : List Nat
  base : Nat
  deriving DecidableEq, Repr

/-- The spill segment of a queue, oldest page first; the open page, which begins at `pos` of the stream, is not yet
written. -/
structure SpillSeg where
  pages : List SpillPage
  openCopies : List Nat
  openData : List Byte
  pos : Nat
  deriving DecidableEq, Repr

/-- A detached spill segment whose pages SPD has still to free, oldest first (R108, R350): its queue, the copies of its open page,
and the uncorrectable words of the first header half of the oldest page, where SPD reads the second. -/
structure Detached where
  queue : Nat
  pages : List SpillPage
  openCopies : List Nat
  first : Option (List Nat)
  deriving DecidableEq, Repr

/-- A read claim of R87: bank, cell and the pipes it serves. -/
structure Claim where
  bank : Nat
  ptr : Nat
  pipes : List Nat
  deriving DecidableEq, Repr

/-- A frame that its ingress port may still find bad (R106, R107): the port, and whether a first byte of a copy has left. -/
structure RxFrame where
  ingress : Nat
  started : Bool
  deriving DecidableEq, Repr

/-- Buffer state besides its registers (R75 to R118). -/
structure Buf where
  nextCopy : Nat
  nextFrame : Nat
  copies : SMap Copy
  queues : SMap (List Nat)
  overflow : SMap (List Nat)
  discards : SMap (List Nat)
  /-- F of R91, as taken so far in this cell time. -/
  free : Int
  /-- F at the start of this cell time (R94). -/
  freeStart : Int
  /-- Sectors freed in this cell time, added to F at its end (R94). -/
  freed : Nat
  reserveUsed : Nat
  headUsed : Nat
  shared : SMap Nat
  links : SMap LinkWord
  tails : SMap OpenTail
  /-- The newest cell of each queue's stream (R77, R82). -/
  streams : SMap Nat
  /-- The last 15 cells' banks of each stream (R85). -/
  recentBanks : SMap (List Nat)
  chains : SMap Chain
  steerPtr : Nat
  /-- Read requests: key pipe × 2^20 + cell, the cell time first made (R87). -/
  requests : SMap Nat
  bankPtr : SMap Nat
  pipePtr : SMap Nat
  claims : List Claim
  /-- The cell time in which the claims are read (R88). -/
  claimsFor : Nat
  /-- Enqueues of this cell time, by queue (R81). -/
  enqueued : SMap Nat
  /-- Bank cycles taken in this cell time by reads made and cells written (R85, R88). -/
  bankBusy : SMap Nat
  /-- Copies found AGED or FINISH_LATE in this cell time, with their reason (R39). -/
  due : List (Nat × Nat)
  /-- Frames whose multicast chain found no owner-list entry or cell: each later member fails as well (R100). -/
  noChain : List Nat
  /-- P1 to P5 holders: key pool × 2^26 + index, the requester (R98). -/
  holders : SMap Nat
  quarantine : List Nat
  spill : SMap SpillSeg
  detached : List Detached
  spwTokens : Int
  sprTokens : Int
  spwAt : Nat
  sprAt : Nat
  /-- Ports whose best-effort hold runs, with the tick it started (R108), and ports past expiry. -/
  hold : SMap Nat
  holdExpired : List Nat
  /-- P5 pages of broken segments, to be freed by the reclaim pass (R351). -/
  reclaimPending : List Nat
  /-- Frames on the recirculation path of port 1026 (R22). -/
  recirc : List Frame
  /-- Frames that may still be rejected under R107, with their class at the end of stage 11 (R513). -/
  entering : SMap Nat
  /-- Frames received and not yet sent whole, by number (R106, R107). -/
  rx : SMap RxFrame
  deriving DecidableEq, Repr

/-! ### Time -/

/-- A TX timestamp queue entry (R148): owner, identifier, port, stamp or NOTSENT, and the tick it was written. -/
structure TxEntry where
  owner : Nat
  ident : Nat
  port : Nat
  stamp8 : Nat
  notSent : Bool
  at_ : Nat
  deriving DecidableEq, Repr

/-- A residence-table entry (R141): key and residence in 2^-16 ns, and the tick it was written. -/
structure ResEntry where
  port : Nat
  dom : Nat
  msgType : Nat
  seqId : Nat
  srcPortId : Nat
  residence : Int
  at_ : Nat
  deriving DecidableEq, Repr

/-- A step waiting for its tick (R124, R126). -/
structure StepReq where
  absolute : Bool
  neg : Bool
  sec : Nat
  ns : Nat
  newEpoch : Bool
  deriving DecidableEq, Repr

/-- A queue mark of R127: copies at or before it, and the change of device time in 0.125 ns. -/
structure Mark where
  copies : List Nat
  delta8 : Int
  deriving DecidableEq, Repr

/-- The time base besides its registers (R119 to R165). -/
structure Time where
  sec : Nat
  ns : Nat
  /-- Sub-nanosecond fraction in 2^-48 ns. -/
  frac : Nat
  /-- Slew still to be applied, in 2^-48 ns, and the share per tick (R121). -/
  slewRem : Int
  slewShare : Nat
  /-- Ticks of the time clock since power-good: the reference the model's timers run on. -/
  ticks : Nat
  /-- Ticks that went by while a droop stretched the core clocks: each held two thirds of a tick's core clock (R24, R490). -/
  stretched : Nat
  /-- Tick of the last write of TIME_ERR_BASE, once there was one (R129). -/
  errAt : Option Nat
  /-- Tick of entry into LOCKED (R128). -/
  lockedAt : Nat
  pendingStep : Option StepReq
  stepAt : Nat
  /-- Armed pins and alarms: their next T in 0.125 ns. -/
  pins : SMap Nat
  /-- The T a pin was armed at, from which PERIODIC_OUT counts (R152). -/
  pinBase : SMap Nat
  alarms : SMap Nat
  caps : SMap (List Nat)
  /-- Last captured edge of each pin, in 0.125 ns (R151). -/
  lastEdge : SMap Nat
  txq : SMap (List TxEntry)
  residence : SMap (List ResEntry)
  marks : SMap (List Mark)
  /-- Number of the model's frames that entered before the last step tick. -/
  preStepFrames : Nat
  deriving DecidableEq, Repr

/-! ### Admission and holds -/

/-- A token bucket: tokens in a fixed unit, and the time of the last refill in the unit its user states. -/
structure Bucket where
  tokens : Int
  at_ : Nat
  deriving DecidableEq, Repr

/-- A queued refusal or deferral notice (R63 to R65): the port it leaves by, its session, the counters 4e + c of the
timed copies it answers, and the frame built for it. -/
structure Notice where
  ingress : Nat
  session : Nat
  counters : List Nat
  frame : List Byte
  deriving DecidableEq, Repr

/-- Admission state besides its registers (R43 to R74). -/
structure Adm where
  alignQ : List Nat
  hurdleQ : List Nat
  /-- How many at the head of hurdleQ were carried from an earlier cell time (R56). -/
  carried : Nat
  buckets : SMap Bucket
  notices : List Notice
  /-- Values of ADM_PIPE_DERATE and ADM_BE_MTU that later writes replaced, oldest first, each with the cell time from which
  decisions no longer use it (R62, R551). -/
  derateOld : SMap (List (Word × Nat))
  mtuOld : SMap (List (Word × Nat))
  /-- Hurdle decisions made so far: the order of R81. -/
  decisions : Nat
  /-- DROPPED best-effort copies outside stamped sessions, by 8 × port + class (R38). -/
  dropped : SMap Nat
  deriving DecidableEq, Repr

/-- The key of R166. -/
structure Key where
  edge8 : Nat
  id29 : Nat
  order : Nat
  deriving DecidableEq, Repr

/-- Photo-Finish and Stagger state besides registers (R166 to R193). -/
structure Hold where
  fifos : SMap (List Nat)
  last : SMap Key
  mergePtr : Nat
  calendars : SMap (List Nat)
  /-- The seed in force before `seedFrom`, and the seed of the interval in progress, in force from that cell time (R167). -/
  oldLo : Nat
  oldHi : Nat
  newLo : Nat
  newHi : Nat
  seedFrom : Nat
  /-- Values of FIN_GRP_WINDOW.W_NS that were lowered, each with the cell time up to which it holds (R176). -/
  windowOld : SMap (Nat × Nat)
  deriving DecidableEq, Repr

/-! ### Evidence -/

/-- A session context (R194). -/
structure Session where
  en : Bool
  meterEn : Bool
  partition : Nat
  excerpt : Nat
  noticePort : Nat
  meter : Nat
  nextSeq : Nat
  lastNotice : Nat
  supSince : Nat
  recent : Bool
  frames : Nat
  delivered : Nat
  deferred : Nat
  refused : Nat
  dropped : Nat
  deferredLost : Nat
  sent : Nat
  suppressed : Nat
  unjournaled : Nat
  late : Nat
  lastRecord : Nat
  lastSec : Nat
  lastNs : Nat
  deriving DecidableEq, Repr

/-- A closed record waiting for its number (R206): the 56 bytes that precede the number, its partition, session, the
descriptor to return, and its close-list slot when it waits in the close list (R205). -/
structure Closed where
  /-- The number of its frame (R107, R198). -/
  frame : Nat
  body : List Byte
  partition : Nat
  session : Nat
  desc : Option Nat
  slot : Option Nat
  deriving DecidableEq, Repr

/-- The seal interval in progress (R214 to R217). -/
structure Interval where
  startSec : Nat
  startNs : Nat
  onBoundary : Bool
  /-- EV_SEAL_CFG.INTERVAL_US as it stood when the interval began (R214). -/
  us : Nat
  firstRec : Nat
  leaves : List (Nat × List Byte)
  unj : SMap Nat
  ovw : SMap Nat
  gap : Bool
  measFirst : Bool
  heatChanged : Bool
  holdover : Bool
  errOver : Bool
  maxErr : Nat
  chainStart : Bool
  seedLo : Nat
  seedHi : Nat
  deriving DecidableEq, Repr

/-- A receipt stream besides its registers (R211 to R213). -/
structure Stream where
  frameSeq : Nat
  ackPos : Nat
  /-- The window granted by the last ACK; 0 until the first (R212, R213). -/
  window : Nat
  resend : List (Nat × Nat)
  gaps : List (Nat × Nat)
  /-- Seals not yet sent on the stream: ring slot, seal number, epoch. -/
  sealsDue : List (Nat × Nat × Nat)
  deriving DecidableEq, Repr

/-- Evidence state besides its registers (R194 to R231). -/
structure Evid where
  sessions : SMap Session
  closeList : List Closed
  /-- Indices appended to the close list. -/
  closed : Nat
  interval : Option Interval
  /-- The last interval: sealing goes on until it is sealed after EN is cleared (R215). -/
  draining : Bool
  sealNum : Nat
  sealed_ : Nat
  prevDigest : List Byte
  chainStart : Bool
  measurement : List Byte
  measNext : Option (List Byte)
  /-- The measurement in force has had no interval yet (R217). -/
  measFresh : Bool
  streams : SMap Stream
  attestBy : Option Nat
  deriving DecidableEq, Repr

/-! ### Parsing, Heats and tables -/

/-- A graph transition of R238 with its Heat marks. -/
structure Trans where
  node : Nat
  key : Nat
  addr : Nat
  next : Nat
  add : Option Nat
  del : Option Nat
  deriving DecidableEq, Repr

/-- A patch waiting to switch (R240). -/
structure PatchLoad where
  level : Nat
  words : List Nat
  entries : List (Nat × Nat)
  deriving DecidableEq, Repr

/-- Heat state besides its registers (R252 to R259). -/
structure HeatSt where
  /-- Live Heats, oldest first, each with its commit time in 0.125 ns (Heat 0 counts as committed at every time). -/
  live : List (Nat × Option Nat)
  pendingAt : Option Nat
  /-- Ticks at which Heats began draining. -/
  drainAt : SMap Nat
  cleaning : List Nat
  aborted : List Nat
  promoted : List Nat
  deriving DecidableEq, Repr

/-- Parser state besides registers (R232 to R240): patch halves (key pipe × 1024 + word), graph, loads, trap meters. -/
structure Parse where
  patch : SMap Nat
  nodes : SMap (Nat × Nat)
  trans : SMap (List Trans)
  loads : SMap PatchLoad
  trapMeters : SMap Bucket
  /-- The rewrites and the egress-stage entries of the pipes (R248, R267), by pipe × 65,536 + index, and what their COUNT actions
  have counted, by pipe × 65,536 + counter. -/
  rewrites : SMap (List EgressAct)
  egress : SMap (List EgressAct)
  counts : SMap Nat
  deriving DecidableEq, Repr

/-- An LPM prefix (R276). -/
structure LpmEnt where
  partition : Nat
  fam : Nat
  addr : List Byte
  len : Nat
  action : Nat
  add : Option Nat
  del : Option Nat
  node : Nat
  /-- Its node waits to be rebuilt (R294). -/
  bad : Bool
  /-- The shadow's block, as a holder key, 0 none (assumption 24, DESIGN CHOICE). -/
  block : Nat
  deriving DecidableEq, Repr

/-- A TCAM entry (R278). -/
structure TcamEnt where
  key : Nat
  mask : Nat
  res : Nat
  deriving DecidableEq, Repr

/-- A learn event (R281). -/
structure LearnEv where
  key : List Byte
  port : Nat
  stamp8 : Nat
  tie : Nat
  cell : Nat
  deriving DecidableEq, Repr

/-- A move-tracker entry (R284): key, tick of the last commit, ticks of its moves. -/
structure Track where
  key : List Byte
  commit : Nat
  moves : List Nat
  pinnedAt : Option Nat
  deriving DecidableEq, Repr

/-- A table DMA in progress (R291, R292). -/
structure Dma where
  m : Nat
  locked : Bool
  /-- The list, as TBL_DMA_SRC and TBL_DMA_COUNT gave it at GO: in the scratchpad or not, its offset, its descriptors. -/
  spd : Bool
  off : Nat
  n : Nat
  /-- Staged images: table × 2^40 + entry index, the new entry (0 none), and the locked buckets and CAM entries. -/
  staged : SMap Nat
  buckets : List Nat
  /-- Status and result of each descriptor run, to be written back. -/
  results : List (Nat × Nat)
  deriving DecidableEq, Repr

/-- Table state besides registers (R267 to R303). Entries are the raw bits of R274, R275 and R279. -/
structure Tables where
  /-- Key t × 2^40 + INDEX of R289. -/
  em : SMap Nat
  action : SMap Nat
  /-- Key pipe × 4096 + entry. -/
  tcam : SMap TcamEnt
  lpm : List LpmEnt
  learnQ : List LearnEv
  deferredQ : List LearnEv
  tracker : List Track
  limitAt : SMap Nat
  notices : List (List Word)
  errors : List (List Word)
  dma : Option Dma
  /-- HBM replaces that deleted before they added (R259). -/
  breaks : Nat
  /-- Keys whose last commit was made without tracking (R284). -/
  untracked : List (List Byte)
  deriving DecidableEq, Repr

/-- The actions in force as a frame passes the ingress stages (R244). -/
structure Acts where
  /-- Destination: 0 none, 1 port, 2 multicast group, 3 finish group, 4 release group. -/
  dest : Nat
  arg : Nat
  /-- 0 none, 1 DROP, 2 TRAP. -/
  stop : Nat
  user : Nat
  cls : Option Nat
  meter : Option Nat
  mirror : Bool
  rewrite : Option Nat
  /-- Bit s: stage s hit. -/
  hits : Nat
  /-- The destination comes from a route lookup (R249). -/
  route : Bool
  /-- The source lookup of R281: 0 nothing to learn, 1 an event, 2 a static entry of another port. -/
  learn : Nat
  learnKey : List Byte
  deriving DecidableEq, Repr

/-- What a successful parse passes on (R233): slow-path reasons raised, the session field, the 256-byte result vector, the
header-valid map, and where a microword ran the stamp-tag unit on a tag (R241). -/
structure ParseResult where
  reasons : List Nat
  field : Option (List Byte)
  vector : List Byte
  headers : Nat
  tags : List Nat
  deriving DecidableEq, Repr

/-- A frame waiting for its HBM lookup (R245), with what its later stages read. -/
structure Waiting where
  frame : Frame
  input : FrameIn
  sinceTick : Nat
  acts : Acts
  parsed : ParseResult
  noSess : Bool
  key : List Byte
  /-- The entry the bucket holds as the read is accepted (R341). -/
  found : Option Nat
  /-- The lookup is answered: the frame goes on when it is the oldest of its pipe. -/
  ready : Bool
  deriving DecidableEq, Repr

/-! ### Egress -/

/-- Egress state besides registers (R304 to R329). -/
structure Egress where
  lanes : SMap (List Nat)
  onLine : SMap Nat
  preempted : SMap Nat
  deficit : SMap Nat
  /-- Queues whose quantum of the pointer's visit has been added: those that are not fresh (R308). -/
  spent : List Nat
  dwrr : SMap Nat
  pacers : SMap Bucket
  portPacers : SMap Bucket
  /-- The two buckets of each meter: C at 2m and E or P at 2m + 1 (R313). -/
  meters : SMap Bucket
  /-- Pauses by 8e + class: the tick at which they end (R316). -/
  pauses : SMap Nat
  /-- When each pause was received, in 0.125 ns (R316). -/
  pausedAt : SMap Nat
  /-- Queued PFC frames of a port, oldest first: the cell time of the changes one frame shares, and its entries (R318). -/
  pfcPending : SMap (List (Nat × List (Nat × Nat)))
  usage : SMap Nat
  deriving DecidableEq, Repr

/-! ### HBM, ports, links, control, start-up, power, telemetry -/

/-- A posted granule write (R340): its address, bytes with their offsets, its port and the account its energy goes to. -/
structure HbmWrite where
  granule : Nat
  bytes : List (Nat × Byte)
  port : Nat
  account : Nat
  deriving DecidableEq, Repr

/-- A waiting read (R336): its granule, port, the bytes it reads and the tick it was accepted. -/
structure HbmRead where
  granule : Nat
  port : Nat
  n : Nat
  at_ : Nat
  /-- Writes issued while it pressed through a drain (R340). -/
  waits : Nat
  /-- It has reached urgency 3 and is counted (R359). -/
  urgent : Bool
  /-- The patrol scrub's: its corrected words are written back (R348). -/
  scrub : Bool
  deriving DecidableEq, Repr

/-- A request that waits at its port (R336): a write that its full write queue does not take, or a request issued behind one. -/
inductive HbmReq where
  | write (w : HbmWrite)
  | read (granule port account : Nat) (offs : List Nat) (scrub : Bool)
  deriving DecidableEq, Repr

/-- HBM controller state besides registers (R330 to R359). -/
structure Hbm where
  writes : List HbmWrite
  /-- Requests that wait at their port because a write queue is full, oldest first. -/
  waiting : List HbmReq
  reads : List HbmRead
  draining : List Nat
  floor : Bucket
  /-- 8-byte words found uncorrectable and not rewritten since, by address / 8 (R348, R349). -/
  bad : List Nat
  /-- Tick of the last request to each stack (R344). -/
  lastReq : SMap Nat
  errors : List (List Word)
  deriving DecidableEq, Repr

/-- Port state besides registers (R360 to R381). -/
structure Ports where
  /-- Ports whose partner's TLV shows preemption supported and enabled, and those whose addFragSize is known (R369). -/
  partnerReady : List Nat
  partnerKnown : List Nat
  /-- VERIFY_LIMIT of the verification in progress, and the cell time in which preemption became active (R369, R370). -/
  limit : SMap Nat
  activeCell : SMap Nat
  /-- When a port that wakes from low-power idle may send, in 0.125 ns (R372). -/
  awake : SMap Nat
  /-- DWELL of the scan a lane runs, as it stood at GO (R374). -/
  dwell : SMap Nat
  deriving DecidableEq, Repr

/-- An outstanding time exchange (R396): its identifier and T1. -/
structure Exchange where
  id : Nat
  t1 : Nat
  epochStep : Nat
  deriving DecidableEq, Repr

/-- An envelope notice that waits to be sent (R402): whether it is a lift, its body, and the logical and the Ethernet ports that
were up at the request and take a copy. -/
structure EnvDue where
  lift : Bool
  body : List Byte
  lanes : List Nat
  eths : List Nat
  deriving DecidableEq, Repr

/-- IVL state besides registers (R382 to R411). -/
structure Ivl where
  /-- Messages that wait for a sleeping transmitter, each with the count of step ticks when it was made (R386, R397). -/
  txq : SMap (List (Nat × List Byte))
  /-- The seen cache of R393: source, sequence and the tick seen. -/
  seen : List (Nat × Nat × Nat)
  seqNo : Nat
  exchangeId : Nat
  exchanges : SMap Exchange
  results : SMap (List (List Word))
  envRing : List (List Word)
  /-- Envelope notices requested by the power controller, oldest first (R402). -/
  envDue : List EnvDue
  /-- Step ticks so far. -/
  steps : Nat
  /-- Logical ports that have their peer's VERSION since they entered stage 4 (R394). -/
  heard : List Nat
  /-- The characters a lane had sent at the last SKIP set, counted from the device reset (R383): key logical port. -/
  skipAt : SMap Nat
  /-- Characters in the elastic buffer of a receive lane, 8 at its centre (R383): key 2k + lane. -/
  elastic : SMap Nat
  deriving DecidableEq, Repr

/-- One direction of a mailbox channel (R428): its words, the words of the last message posted, and the sender's and
receiver's status. -/
structure MbDir where
  words : List Word
  posted : List Word
  full : Bool
  len : Nat
  purged : Bool
  purgeCount : Nat
  blocked : Nat
  senderReset : Bool
  txIe : Bool
  rxIe : Bool
  deriving DecidableEq, Repr

/-- A firmware slot (R438): security version, entry and image, and its SHA-256. -/
structure FwSlot where
  secVer : Nat
  entry : Nat
  image : List Byte
  digest : List Byte
  deriving DecidableEq, Repr

/-- Control-plane state besides registers (R412 to R448). -/
structure Ctl where
  /-- R15 read shadows: key master × 2^28 + high-word offset. -/
  shadow : SMap Word
  /-- R15 pending low word: key master, the low offset and the word. -/
  pendLow : SMap (Nat × Word)
  vlog : List (List Word)
  batons : SMap Nat
  batonPtr : SMap Nat
  /-- Mailbox directions: key 2c from A to B, 2c + 1 from B to A. -/
  mail : SMap MbDir
  slotA : Option FwSlot
  slotB : Option FwSlot
  /-- Security version waiting for CONFIRM. -/
  newSecVer : Nat
  /-- The first management cycle in which a scratchpad bank is free again (R434): key bank. -/
  spdNext : SMap Nat
  /-- What BIST has written into lent banks: scratchpad offset and byte. The bank's own contents stay as before the lend (R437). -/
  bist : SMap Byte
  deriving DecidableEq, Repr

/-- Start-up state besides registers (R449 to R473). -/
structure Boot where
  fuses : Option FuseIn
  /-- d and q of R454. -/
  keyD : Nat
  /-- The held image write of EV_CTRL.EN (R463); CTL_LOCK is set at stage 0x6 in any case. -/
  heldEvEn : Bool
  imageSecVer : Nat
  raiseFloor : Bool
  floorRaises : Nat
  holdS : Nat
  timeSource : Nat
  timeIndex : Nat
  timePps : Option Nat
  lockNs : Nat
  timeoutMs : Nat
  imageDigest : List Byte
  autoSr : Nat
  banks : List Nat
  /-- An image is being applied: the writer is the configuration image. -/
  applying : Bool
  /-- PWRGD is low, or was removed with the rails: the device is held in reset until a cold start (R526, R528). -/
  inReset : Bool
  /-- The undervoltage lockout has removed every rail (R526). -/
  unpowered : Bool
  /-- The reference clocks that run: IREFCLK, and bit t for LREFCLK[t] (R532). -/
  iref : Bool
  lref : Nat
  /-- Flash offset and length of image slots 0 and 1, by the directory (R456). -/
  images : List (Nat × Nat)
  /-- The flash command that runs (R470): whether it writes, and its length. -/
  spi : Option (Bool × Nat)
  /-- Time has been acquired, or the wait for it is over (R466). -/
  acquired : Bool
  /-- The JTAG instruction register, which the TAP alone resets (R539). -/
  ir : Nat
  /-- A test instruction holds the device in reset (R540). -/
  jtagHeld : Bool
  /-- After a trip, stage 0x0 waits for every valid sensor to read below 95 °C (R493). -/
  cooling : Bool
  deriving DecidableEq, Repr

/-- A warm-up hint (R495). -/
structure Hint where
  start8 : Nat
  durMs : Nat
  pipes : Nat
  pct : Nat
  active : Bool
  deriving DecidableEq, Repr

/-- Power state besides registers (R474 to R500). -/
structure Power where
  /-- VIN samples of the last 100 µs in mV, newest first (R474). -/
  vin : List Nat
  /-- Domains waiting for a wake slot, oldest first (R478). -/
  wakeQ : List Nat
  /-- The management cycle in which the last wakes entered the queue, and how many did (R478). -/
  wakeCycle : Nat
  wakeBatch : Nat
  /-- Domains in transition and the state they go to. -/
  moving : SMap Nat
  /-- A command recorded during a transition (R477). -/
  recorded : SMap Nat
  /-- Lane groups shed, last shed first (R488), and the reason each was last shed for (R496). -/
  shed : List Nat
  shedReason : SMap Nat
  /-- Ticks since which the power has been over the cap, under it by the hysteresis, and unmet (R488, R489). -/
  overSince : Option Nat
  underSince : Option Nat
  unmetSince : Option Nat
  lastShed : Option Nat
  /-- Sensors that read 115 °C or more in the last sample (R493). -/
  hotOnce : List Nat
  /-- The rotating pointer of R487. -/
  pipePtr : Nat
  /-- Protective step of each pipe and its reason (R482). -/
  protect : SMap Nat
  protectReason : SMap Nat
  /-- Pipes in the sequence of R483: target step and effective time in 0.125 ns; and pipes that speed up to a step. -/
  slowing : SMap (Nat × Nat)
  speeding : SMap Nat
  /-- The derate value that goes back to each pipe whose register PWC holds: the latest that H0 or a CP wrote (R484). -/
  request : SMap Word
  /-- The derate values that each of H0 and CP0 to CP3 last wrote to a pipe, the latest first (R484). -/
  wrote : SMap (List (Nat × Word))
  hints : List Hint
  /-- A stretch is in progress (R490). -/
  droop : Bool
  events : List (List Word)
  /-- What the energy of a domain is divided by (R494): domain × 256 + 128 × kind + account, since the last division. -/
  weights : SMap Nat
  deriving DecidableEq, Repr

/-- Telemetry state besides registers (R501 to R521). -/
structure Tel where
  /-- The trace map: trace ID and the copies that still owe an OUTCOME (R506). -/
  map : SMap Nat
  tagCount : SMap Nat
  blocks : List Nat
  /-- Tick from which the queue of ring records can pass one more (R511). -/
  ringBusy : Nat
  /-- The records in that queue, each with the tick at which it enters the ring. -/
  queue : List (Nat × List Byte)
  deriving DecidableEq, Repr

/-- Everything of the device but the contents of its memories. -/
structure Dev where
  /-- 32-bit registers: key the privileged offset, plus (master + 1) × 2^28 for a per-master copy. -/
  regs : SMap Word
  /-- 64-bit quantities of R15, keyed in the same way by their low word. -/
  wide : SMap (BitVec 64)
  ctl : Ctl
  time : Time
  adm : Adm
  hold : Hold
  buf : Buf
  ev : Evid
  heat : HeatSt
  parse : Parse
  tbl : Tables
  waiting : List Waiting
  egr : Egress
  hbm : Hbm
  ports : Ports
  ivl : Ivl
  boot : Boot
  pwr : Power
  tel : Tel
  /-- How many free values the device has drawn (model's own, assumption 5, DESIGN CHOICE). -/
  draws : Nat
  /-- What left the device in the last command (model's own, assumption 6, DESIGN CHOICE). -/
  out : List Out
  /-- The completions of the last command's accesses (model's own, assumption 6, DESIGN CHOICE). -/
  last : List Completion
  deriving DecidableEq, Repr

/-- The two memories: HBM device addresses and scratchpad window offsets, one canonical list each. -/
structure Mem where
  hbm : List Host.Cell
  spd : List Host.Cell
  deriving DecidableEq, Repr

/-- What a byte of memory that nothing has written reads as (assumption 3, DESIGN CHOICE): HBM is zero-filled at start-up (R465). -/
def Mem.unwritten : Byte := 0

/-- The canonical form of both memories. -/
def Mem.wf (m : Mem) : Bool := SMap.wf m.hbm Mem.unwritten && SMap.wf m.spd Mem.unwritten

/-- The machine: the waiting commands, first in first out, the memories and the device. -/
structure State where
  pending : List Instr
  mem : Mem
  dev : Dev
  deriving DecidableEq, Repr

/-! ### Reset -/

def Session.zero : Session :=
  ⟨false, false, 0, 0, 0, 0, 0, 0, 0, false, 0, 0, 0, 0, 0, 0, 0, 0, 0, 0, 0, 0, 0⟩
def Bucket.zero : Bucket := ⟨0, 0⟩
def Stream.zero : Stream := ⟨0, 0, 0, [], [], []⟩
def MbDir.zero : MbDir := ⟨List.replicate 8 0, List.replicate 8 0, false, 0, false, 0, 0, false, false, false⟩
def SpillSeg.zero : SpillSeg := ⟨[], [], [], 0⟩
def Chain.zero : Chain := ⟨[], 0, [], false⟩
def LinkWord.zero : LinkWord := ⟨false, false, false, 0, true, 0⟩
def SessCfg.zero : SessCfg := ⟨false, 0, 0, 0⟩

/-- F with every register at its reset value (R90): 16,777,216 − 16 × 131,072 − 64 × 8,256. -/
def Buf.resetFree : Int := 14151680

def Buf.reset : Buf :=
  { nextCopy := 0, nextFrame := 0, copies := [], queues := [], overflow := [], discards := [], free := Buf.resetFree,
    freeStart := Buf.resetFree, freed := 0, reserveUsed := 0, headUsed := 0, shared := [], links := [], tails := [], streams := [],
    recentBanks := [], chains := [], steerPtr := 0, requests := [], bankPtr := [], pipePtr := [], claims := [], claimsFor := 0,
    enqueued := [], bankBusy := [], due := [], noChain := [], holders := [], quarantine := [], spill := [], detached := [], spwTokens := 20000000, sprTokens := 20000000,
    spwAt := 0, sprAt := 0, hold := [], holdExpired := [], reclaimPending := [], recirc := [], entering := [], rx := [] }
def Time.reset : Time :=
  ⟨0, 0, 0, 0, 35184372088, 0, 0, none, 0, none, 0, [], [], [], [], [], [], [], [], 0⟩
def Adm.reset : Adm :=
  { alignQ := [], hurdleQ := [], carried := 0, buckets := [], notices := [], derateOld := [], mtuOld := [],
    decisions := 0, dropped := [] }
def Hold.reset : Hold :=
  { fifos := [], last := [], mergePtr := 0, calendars := [], oldLo := 0, oldHi := 0, newLo := 0, newHi := 0, seedFrom := 0,
    windowOld := [] }
def Evid.reset : Evid :=
  ⟨[], [], 0, none, false, 0, 0, List.replicate 32 0, true, List.replicate 32 0, none, true, [], none⟩
def HeatSt.reset : HeatSt := ⟨[(0, none)], none, [], [], [], []⟩
def Parse.reset : Parse := ⟨[], [], [], [], [], [], [], []⟩
def Tables.reset : Tables :=
  { em := [], action := [], tcam := [], lpm := [], learnQ := [], deferredQ := [], tracker := [], limitAt := [],
    notices := [], errors := [], dma := none, breaks := 0, untracked := [] }
def Egress.reset : Egress :=
  { lanes := [], onLine := [], preempted := [], deficit := [], spent := [], dwrr := [], pacers := [], portPacers := [],
    meters := [], pauses := [], pausedAt := [], pfcPending := [], usage := [] }
def Hbm.reset : Hbm :=
  { writes := [], waiting := [], reads := [], draining := [], floor := ⟨0, 0⟩, bad := [], lastReq := [],
    errors := [] }
def Ports.reset : Ports := ⟨[], [], [], [], [], []⟩
def Ivl.reset : Ivl := ⟨[], [], 0, 0, [], [], [], [], 0, [], [], []⟩
def Ctl.reset : Ctl := ⟨[], [], [], [], [], [], none, none, 0, [], []⟩
def Boot.reset : Boot :=
  { fuses := none, keyD := 0, heldEvEn := false, imageSecVer := 0, raiseFloor := false,
    floorRaises := 0, holdS := 0, timeSource := 0, timeIndex := 0, timePps := none, lockNs := 0, timeoutMs := 0,
    imageDigest := [], autoSr := 0, banks := [], applying := false, inReset := false, unpowered := false, iref := true, lref := 255, images := [], spi := none,
    acquired := false, ir := 1, jtagHeld := false, cooling := false }
def Power.reset : Power :=
  { vin := [], wakeQ := [], wakeCycle := 0, wakeBatch := 0, moving := [], recorded := [], shed := [], shedReason := [], overSince := none, underSince := none, unmetSince := none,
    lastShed := none, hotOnce := [], pipePtr := 0, protect := [], protectReason := [], slowing := [], speeding := [], request := [], wrote := [],
    hints := [], droop := false, events := [], weights := [] }
def Tel.reset : Tel := ⟨[], [], [], 0, []⟩

/-- The device right after a device reset or a cold start: stage 0x0, every register at its reset value. -/
def Dev.reset : Dev :=
  { regs := [], wide := [], ctl := .reset, time := .reset, adm := .reset, hold := .reset, buf := .reset, ev := .reset,
    heat := .reset, parse := .reset, tbl := .reset, waiting := [], egr := .reset, hbm := .reset, ports := .reset,
    ivl := .reset, boot := .reset, pwr := .reset, tel := .reset, draws := 0, out := [], last := [] }

/-- The machine right after reset. -/
def State.reset : State := { pending := [], mem := ⟨[], []⟩, dev := .reset }

end Sys2Proof.Machine
end

