-- ==== Sys2Proof/Machine/Ops.lean ====
section
/-! DEFINITION. The named operations over registers, memories, time and outputs that every meaning is written with. -/

namespace Sys2Proof.Machine

/-! ### Bytes -/

/-- The low `n` bytes of a number, most significant first (R5). -/
def be (n w : Nat) : List Byte :=
  match n with
  | 0 => []
  | k + 1 => BitVec.ofNat 8 (w / 256 ^ k) :: be k w

/-- The low `n` bytes of a number, least significant first (R6). -/
def le (n w : Nat) : List Byte := (be n w).reverse

/-- The number a big-endian byte string spells. -/
def ofBe (bs : List Byte) : Nat := bs.foldl (fun a b => a * 256 + b.toNat) 0

/-- The number a little-endian byte string spells. -/
def ofLe (bs : List Byte) : Nat := ofBe bs.reverse

/-- `n` bytes of a string from offset `o`, zero past its end. -/
def slice (bs : List Byte) (o n : Nat) : List Byte :=
  let t := (bs.drop o).take n
  t ++ List.replicate (n - t.length) 0

/-- The big-endian number in `n` bytes at offset `o`. -/
def beAt (bs : List Byte) (o n : Nat) : Nat := ofBe (slice bs o n)

/-- Replace the bytes from offset `o`. -/
def patchAt (bs : List Byte) (o : Nat) (new : List Byte) : List Byte :=
  slice bs 0 o ++ new ++ bs.drop (o + new.length)

/-- A bit of a number. -/
def bit (w i : Nat) : Bool := w.testBit i

/-- Bits `hi` to `lo` of a number. -/
def bits (w hi lo : Nat) : Nat := (w / 2 ^ lo) % 2 ^ (hi - lo + 1)

/-- A number of `n` bits read as two's complement. -/
def signed (n w : Nat) : Int := if w < 2 ^ (n - 1) then w else (w : Int) - 2 ^ n

/-- One bit as a number. -/
def b2n (b : Bool) : Nat := if b then 1 else 0

/-! ### Register fields -/

def Fld.ext (x : Fld) (w : Nat) : Nat := bits w x.hi x.lo

/-- Put a value into a field, cut to the field's width. -/
def Fld.ins (x : Fld) (w v : Nat) : Nat :=
  w - x.ext w * 2 ^ x.lo + (v % 2 ^ (x.hi - x.lo + 1)) * 2 ^ x.lo

/-- The key of a register instance in the register file. -/
def regKey (r : Reg) (i j k m : Nat) : Nat :=
  if r.row.perMaster then r.off i j k + (m + 1) * 2 ^ 28 else r.off i j k

/-- The value a register instance holds. -/
def Dev.get (d : Dev) (r : Reg) (i : Nat := 0) (j : Nat := 0) (k : Nat := 0) (m : Nat := 0) : Word :=
  SMap.get d.regs (regKey r i j k m) (BitVec.ofNat 32 (r.resetAt i j))

/-- Set the value a register instance holds. -/
def Dev.set (d : Dev) (r : Reg) (v : Word) (i : Nat := 0) (j : Nat := 0) (k : Nat := 0) (m : Nat := 0) : Dev :=
  { d with regs := SMap.set d.regs (regKey r i j k m) v }

/-- The value of a 64-bit quantity (R15). -/
def Dev.q (d : Dev) (r : Reg) (i : Nat := 0) (j : Nat := 0) (k : Nat := 0) (m : Nat := 0) : Nat :=
  (SMap.get d.wide (regKey r i j k m) (BitVec.ofNat 64 (r.resetAt i j))).toNat

/-- Set a 64-bit quantity, modulo 2^64. -/
def Dev.setQ (d : Dev) (r : Reg) (v : Nat) (i : Nat := 0) (j : Nat := 0) (k : Nat := 0) (m : Nat := 0) : Dev :=
  { d with wide := SMap.set d.wide (regKey r i j k m) (BitVec.ofNat 64 v) }

/-- Add to a 64-bit counter, which wraps. -/
def Dev.bumpQ (d : Dev) (r : Reg) (i : Nat := 0) (j : Nat := 0) (k : Nat := 0) (by_ : Nat := 1) : Dev :=
  d.setQ r (d.q r i j k + by_) i j k

/-- The value of a field. -/
def Dev.f (d : Dev) (x : Fld) (i : Nat := 0) (j : Nat := 0) (k : Nat := 0) (m : Nat := 0) : Nat :=
  x.ext (d.get x.reg i j k m).toNat

/-- Is a one-bit field set? -/
def Dev.on (d : Dev) (x : Fld) (i : Nat := 0) (j : Nat := 0) (k : Nat := 0) (m : Nat := 0) : Bool :=
  d.f x i j k m == 1

/-- Set a field. -/
def Dev.setF (d : Dev) (x : Fld) (v : Nat) (i : Nat := 0) (j : Nat := 0) (k : Nat := 0) (m : Nat := 0) : Dev :=
  d.set x.reg (BitVec.ofNat 32 (x.ins (d.get x.reg i j k m).toNat v)) i j k m

/-- Add to a counting field that saturates at all ones. -/
def Dev.bump (d : Dev) (x : Fld) (i : Nat := 0) (j : Nat := 0) (k : Nat := 0) (by_ : Nat := 1) : Dev :=
  d.setF x (min (d.f x i j k + by_) (2 ^ (x.hi - x.lo + 1) - 1)) i j k

/-! ### Outputs and completions -/

def Dev.emit (d : Dev) (o : Out) : Dev := { d with out := d.out ++ [o] }

/-- Raise the time (1), power (2) or mailbox (0) interrupt of each master of a list. -/
def Dev.irq (d : Dev) (kind : Nat) (ms : List Nat) : Dev :=
  { d with out := d.out ++ ms.map fun m => Out.irq kind m }

def Dev.done (d : Dev) (m : Nat) (st : Status) (data : Nat := 0) : Dev :=
  { d with last := d.last ++ [⟨m, st, data⟩] }

/-- The masters of R26. -/
def mH0 : Nat := 0x00
def mCP0 : Nat := 0x10
def mBMC : Nat := 0x24
def mIVL0 : Nat := 0x28
def mNone : Nat := 0x3F

def isCp (m : Nat) : Bool := 0x10 ≤ m && m ≤ 0x13
def isHostFn (m : Nat) : Bool := 1 ≤ m && m ≤ 0x0F
def isIvl (m : Nat) : Bool := 0x28 ≤ m && m ≤ 0x2B
def isDma (m : Nat) : Bool := 0x18 ≤ m && m ≤ 0x1F
def isEngine (m : Nat) : Bool := 0x20 ≤ m && m ≤ 0x23

/-! ### Geometry (R16, R19, R21) -/

/-- The pipe a port belongs or is attached to; 16 for the reserved ports, which are attached to none (R19). -/
def pipeOf (e : Nat) : Nat :=
  if e < 1024 then e / 64 else if e == 1024 then 0 else if e == 1025 then 1 else if e == 1026 then 8 else if e == 1027 then 9 else 16

/-- The internal port attached to a pipe (R19). -/
def internalOf (p : Nat) : Option Nat :=
  if p == 0 then some 1024 else if p == 1 then some 1025 else if p == 8 then some 1026 else if p == 9 then some 1027 else none

/-- The pipe-local number of a port (R260). -/
def localOf (e : Nat) : Nat := if e < 1024 then e % 64 else 64

def internal (e : Nat) : Bool := 1024 ≤ e && e ≤ 1031

/-- The queue of a port and class. -/
def queueOf (e c : Nat) : Nat := 8 * e + c

/-- The pipe-local queue of a port and class (R322). -/
def lqOf (e c : Nat) : Nat := 8 * localOf e + c

/-- Lanes of a mode (R360). -/
def modeLanes (mode : Nat) : Nat := [0, 1, 1, 1, 2, 1, 2, 4, 1, 2, 4, 8].getD mode 0

/-- Port rate of a mode in Mb/s (R360). -/
def modeRate (mode : Nat) : Nat :=
  [0, 10000, 25000, 50000, 100000, 100000, 200000, 400000, 200000, 400000, 800000, 1600000].getD mode 0

/-- RX latency of a mode in ns (R47, R48). -/
def modeRx (mode : Nat) (fecOff : Bool) : Nat :=
  if mode == 2 && fecOff then 24 else [0, 64, 310, 386, 290, 262, 214, 190, 198, 182, 166, 150].getD mode 0

/-- TX latency of a mode in ns (R47, R48). -/
def modeTx (mode : Nat) (fecOff : Bool) : Nat :=
  if mode == 2 && fecOff then 18 else [0, 48, 86, 104, 84, 78, 68, 62, 64, 60, 56, 52].getD mode 0

/-- Does the mode have timed classes (R46, R47)? -/
def modeTimed (mode : Nat) : Bool := 2 ≤ mode && mode ≤ 11

namespace Dev

def mode (d : Dev) (e : Nat) : Nat := if e < 1024 then d.f F.PORT_CFG_MODE e else 0
def fecOff (d : Dev) (e : Nat) : Bool := d.on F.PORT_CFG_FEC_OFF e

/-- A port is configured when its PORT_CFG names a mode (R360). -/
def configured (d : Dev) (e : Nat) : Bool := d.mode e != 0

/-- Port rate in Mb/s; of an internal port the capacity of R19, for port 1024 the free value Config.hostRate (assumption
112, DESIGN CHOICE), for a reserved port none. -/
def rate (d : Dev) (e : Nat) : Nat :=
  if e < 1024 then modeRate (d.mode e)
  else if e == 1024 then Config.hostRate
  else if e == 1025 then 100000 else if e == 1026 then 1600000 else if e == 1027 then 400000 else 0

def rx (d : Dev) (e : Nat) : Nat := if e < 1024 then modeRx (d.mode e) (d.fecOff e) else 0
def tx (d : Dev) (e : Nat) : Nat := if e < 1024 then modeTx (d.mode e) (d.fecOff e) else 0
def timedOk (d : Dev) (e : Nat) : Bool := decide (e < 1024) && modeTimed (d.mode e)

/-- The link of a port; internal ports 1024 to 1027 are always up (R550). -/
def linkUp (d : Dev) (e : Nat) : Bool :=
  if e < 1024 then d.on F.PORT_STATUS_LINK_UP e else decide (e ≤ 1027)

/-- Preemption is active exactly while its state is ACTIVE (R370). -/
def preemptActive (d : Dev) (e : Nat) : Bool := decide (e < 1024) && d.f F.PORT_PREEMPT_STAT_STATE e == 3

/-- Partition of a port (R413). -/
def portPartition (d : Dev) (e : Nat) : Nat := d.f F.PIPE_PORT_CFG_PARTITION (pipeOf e) (localOf e)

/-- Whether a port number names a port: a configured front-panel port or an internal one (R3, R17). -/
def namesPort (d : Dev) (e : Nat) : Bool := if e < 1024 then d.configured e else decide (e ≤ 1031)

/-- Whether traffic may be directed to a port number: it names a port and is no reserved internal port (R3, R4). -/
def usablePort (d : Dev) (e : Nat) : Bool := d.namesPort e && decide (e < 1028)

/-- The stamp-tag length a port adds to its frames (R204). -/
def tagLen (d : Dev) (e : Nat) : Nat := if decide (e < 1024) && d.on F.EV_TAG_PORT_TX_EN e then 20 else 0

/-- The class's bound (R45). -/
def bound (d : Dev) (e c : Nat) : Nat := d.f F.ADM_BOUND_BOUND_NS (4 * e + c)
def rsvRate (d : Dev) (e c : Nat) : Nat := d.f F.ADM_RSV_RATE_RATE (4 * e + c)
def rsvBurst (d : Dev) (e c : Nat) : Nat := d.f F.ADM_RSV_BURST_BURST (4 * e + c)

/-- The V/F step in force of a pipe. -/
def step (d : Dev) (p : Nat) : Nat := d.f F.PWR_PIPE_STAT_ACTUAL p

/-- The start-up stage (R35). -/
def bootStage (d : Dev) : Nat := d.f F.ID_STATUS_STAGE

def serving (d : Dev) : Bool := d.bootStage == 6

/-- The state of a power domain: 0 ON, 1 RET, 2 OFF (R476); one that leaves ON is out of it from the start of its
transition. -/
def domain (d : Dev) (n : Nat) : Nat :=
  match SMap.find? d.pwr.moving n with
  | some s => if s != 0 then s else d.f F.PWR_DOM_STAT_STATE n
  | none => d.f F.PWR_DOM_STAT_STATE n

end Dev

/-- Frequencies of the V/F steps in units of 10 MHz (R480). -/
def stepFreq (s : Nat) : Nat := [160, 150, 140, 130, 120, 110, 95, 80].getD s 80

/-- Least TIGHTEN_NS of a step (R480). -/
def stepTighten (s : Nat) : Nat := [0, 4, 9, 14, 20, 27, 40, 58].getD s 58

/-- Packet rate of a step in Mpps (R480). -/
def stepMpps (s : Nat) : Nat := [9600, 9000, 8400, 7800, 7200, 6600, 5700, 4800].getD s 4800

/-- Pipe power of a step at full load in 0.1 W (R480). -/
def stepPower (s : Nat) : Nat := [300, 262, 227, 195, 166, 140, 111, 88].getD s 88


/-- The line time of a number of bytes at a rate in Mb/s, in 0.125 ns: ceil8 of R54. -/
def line8 (bytes rateM : Nat) : Nat := ceilDiv (bytes * 64000) rateM

/-! ### Device time (R119, R135) -/

namespace Dev

/-- Device time in 0.125 ns. -/
def now8 (d : Dev) : Nat := (d.time.sec * 1000000000 + d.time.ns) * 8 + d.time.frac / 2 ^ 45

/-- The time clock's ticks in units of 0.125 ns: elapsed time without steps. -/
def el8 (d : Dev) : Nat := d.time.ticks * 10

/-- The buffer core clock in thirds of a tick: a droop lengthens it by 50 % (R24, R490). -/
def core3 (d : Dev) : Nat := 3 * d.time.ticks - d.time.stretched

/-- The cell time in progress: 2.5 ns, two ticks of the core clock (R75). -/
def cell (d : Dev) : Nat := d.core3 / 6

/-- Is the domain of a pipe ON? Without it no frame enters or leaves its pipelines (R476, R493). -/
def pipeOn (d : Dev) (p : Nat) : Bool := d.domain (64 + p) == 0

/-- What a part of the latency that takes `ns` at PS0 takes in pipe p, at its step and stretched by a droop (R49, R480, R490), in
0.125 ns, rounded up. -/
def pipe8 (d : Dev) (ns p : Nat) : Nat := ceilDiv (ns * 8 * 160 * (if d.pwr.droop then 3 else 2)) (stepFreq (d.step p) * 2)

/-- The first cell time that starts at or after now. -/
def nextCell (d : Dev) : Nat := ceilDiv d.core3 6

/-- Device time at the start of the cell time in progress. -/
def cellStart8 (d : Dev) : Nat := d.now8 - d.core3 % 6 * 10 / (if d.pwr.droop then 2 else 3)

end Dev

/-- The short form of a time in 0.125 ns (R135). -/
def short (t8 : Nat) : Nat := (t8 / 8) % 2 ^ 32

/-- The 16-bit fraction of a stamp in 0.125 ns (R132). -/
def frac16 (t8 : Nat) : Nat := (t8 % 8) * 0x2000

/-- Seconds of a time in 0.125 ns. -/
def secOf (t8 : Nat) : Nat := t8 / 8 / 1000000000

/-- Nanoseconds of a time in 0.125 ns. -/
def nsOf (t8 : Nat) : Nat := t8 / 8 % 1000000000

/-- Whole nanoseconds rounded up. -/
def upNs (t8 : Nat) : Nat := ceilDiv t8 8

/-- The time held in a NS, SEC_LO, SEC_HI register group. -/
def Dev.regTime (d : Dev) (ns lo hi : Reg) (i : Nat := 0) : Nat :=
  ((bits (d.get hi i).toNat 15 0 * 2 ^ 32 + (d.get lo i).toNat) * 1000000000 + bits (d.get ns i).toNat 29 0) * 8

/-- Ticks of the time clock in a number of ns. -/
def ticksOfNs (ns : Nat) : Nat := ns * 4 / 5

/-! ### Logs -/

/-- Append an entry to a bounded log of four-word entries; the second result is false when it was full. -/
def pushLog (log : List (List Word)) (cap : Nat) (e : List Word) : List (List Word) × Bool :=
  if log.length < cap then (log ++ [e], true) else (log, false)

def word (n : Nat) : Word := BitVec.ofNat 32 n

/-- Write a violation-log entry (R420). -/
def Dev.logViolation (d : Dev) (kind m : Nat) (froze write : Bool) (w1 detail : Nat) : Dev :=
  let w0 := kind * 2 ^ 28 + m * 2 ^ 22 + b2n froze * 2 ^ 21 + b2n write * 2 ^ 20
  let r := pushLog d.ctl.vlog 256 [word w0, word w1, word (short d.now8), word detail]
  if r.2 then { d with ctl := { d.ctl with vlog := r.1 } } else d.bump F.CTL_VLOG_STAT_OVF

/-- Write a power event (R496). -/
def Dev.logPower (d : Dev) (typ reason idx stepIn : Nat) : Dev :=
  let w0 := typ * 2 ^ 27 + reason * 2 ^ 24 + idx * 2 ^ 17 + stepIn * 2 ^ 14
  let r := pushLog d.pwr.events 64
    [word w0, word (short d.now8), word (d.f F.PWR_POWER_DIE_DW * 2 ^ 16 + d.f F.PWR_VIN_MV), 0]
  if r.2 then { d with pwr := { d.pwr with events := r.1 } } else d.bump F.PWR_EVT_STAT_OVF

/-- Raise a table notice (R286). -/
def Dev.tblNotice (d : Dev) (typ : Nat) (damped : Bool) (part newPort oldPort mac vid stamp : Nat) : Dev :=
  let w0 := typ * 2 ^ 29 + b2n damped * 2 ^ 28 + part * 2 ^ 22 + newPort * 2 ^ 11 + oldPort
  let r := pushLog d.tbl.notices 1024
    [word w0, word (mac % 2 ^ 32), word (mac / 2 ^ 32 * 2 ^ 16 + vid), word stamp]
  if r.2 then { d with tbl := { d.tbl with notices := r.1 } } else d.bump F.TBL_NOTICE_STAT_OVF

/-- Log a corrupt table entry (R295). -/
def Dev.tblError (d : Dev) (t structure_ foundBy : Nat) (static : Bool) (pipe index : Nat) : Dev :=
  let w0 := t * 2 ^ 28 + structure_ * 2 ^ 25 + foundBy * 2 ^ 22 + b2n static * 2 ^ 21 + pipe * 2 ^ 17
  let r := pushLog d.tbl.errors 64 [word w0, word index, word (short d.now8), 0]
  let d := if r.2 then { d with tbl := { d.tbl with errors := r.1 } } else d.bump F.TBL_ERR_STAT_OVF
  d.bumpQ .TBL_CNT t 7

/-- Pop the oldest entry of a log for a master: word 0 is returned and the others are latched (R301). -/
def Dev.popWords (d : Dev) (log : List (List Word)) (latch : Reg) (m n i : Nat) : List (List Word) × Dev × Word :=
  match log with
  | [] => ([], d, 0)
  | e :: rest =>
    (rest, (List.range (n - 1)).foldl (fun d w =>
      if latch == .IVL_TT_POP then d.set latch (e.getD (w + 1) 0) i w 0 m else d.set latch (e.getD (w + 1) 0) w 0 0 m) d, e.getD 0 0)

/-! ### Frozen masters (R28, R417) -/

def Dev.frozen (d : Dev) (m : Nat) : Bool := (d.q .CTL_FROZEN).testBit m

/-- Freeze the offender of a rights violation, where R417 freezes it; the result says whether it was. -/
def Dev.freeze (d : Dev) (m : Nat) : Dev × Bool :=
  if m == mH0 || isEngine m then (d, false)
  else
    let d := d.setQ .CTL_FROZEN (d.q .CTL_FROZEN ||| 2 ^ m)
    let d := if isCp m then d.setF F.CTL_CP_CTRL_HALTED (d.f F.CTL_CP_CTRL_HALTED ||| 2 ^ (m - 0x10)) else d
    (d, true)

/-- A rights violation under R28: no effect, freeze, log, error completion. -/
def Dev.violate (d : Dev) (m : Nat) (write : Bool) (off : Nat) (kind : Nat := 1) (detail : Nat := 0) : Dev :=
  let r := d.freeze m
  let kind := if isEngine m then 10 else kind
  (r.1.logViolation kind m r.2 write off detail).done m .aborted

/-! ### Token buckets -/

/-- Refill a bucket at `rate` tokens per time unit up to `cap`. -/
def Bucket.refill (b : Bucket) (now rate cap : Nat) : Bucket :=
  ⟨min (cap : Int) (b.tokens + rate * (now - b.at_)), now⟩

/-! ### Memories -/

/-- A byte of the scratchpad window. -/
def Mem.spdByte (m : Mem) (a : Nat) : Byte := SMap.get m.spd a Mem.unwritten

/-- Write a byte of the scratchpad window. -/
def Mem.spdPut (m : Mem) (a : Nat) (v : Byte) : Mem := { m with spd := SMap.put m.spd a v Mem.unwritten }

/-- A byte of HBM. -/
def Mem.hbmByte (m : Mem) (a : Nat) : Byte := SMap.get m.hbm a Mem.unwritten

/-- Write a byte of HBM. -/
def Mem.hbmPut (m : Mem) (a : Nat) (v : Byte) : Mem := { m with hbm := SMap.put m.hbm a v Mem.unwritten }

/-- Write consecutive bytes of the scratchpad window. -/
def Mem.spdWrite (m : Mem) (a : Nat) (bs : List Byte) : Mem :=
  match bs with
  | [] => m
  | b :: rest => Mem.spdWrite (m.spdPut a b) (a + 1) rest

/-- Write bytes of HBM at offsets from a base address. -/
def Mem.hbmWrite (m : Mem) (base : Nat) (bs : List (Nat × Byte)) : Mem :=
  match bs with
  | [] => m
  | (o, b) :: rest => Mem.hbmWrite (m.hbmPut (base + o) b) base rest

/-- Bytes of the scratchpad window. -/
def Mem.spdRead (m : Mem) (a n : Nat) : List Byte := (List.range n).map fun i => m.spdByte (a + i)

/-- The last posted byte of an address, if a write that has not left its queue holds one (R341). -/
def postedByte (ws : List HbmWrite) (a : Nat) : Option Byte :=
  ws.foldl (fun r w => if w.granule == a / 256 then
      match w.bytes.reverse.find? (fun p => p.1 == a % 256) with
      | some p => some p.2
      | none => r
    else r) none

def HbmReq.port : HbmReq → Nat
  | .write w => w.port
  | .read _ p _ _ _ => p

def HbmReq.granule : HbmReq → Nat
  | .write w => w.granule
  | .read g _ _ _ _ => g

def HbmReq.write? : HbmReq → Option HbmWrite
  | .write w => some w
  | .read _ _ _ _ _ => none

/-- The writes that wait at a port. -/
def Dev.waitingWrites (d : Dev) (port : Nat) : List HbmWrite := (d.hbm.waiting.filterMap HbmReq.write?).filter fun w => w.port == port

/-- A byte of HBM as a port reads it: the last write accepted before the read (R341). A read behind writes that wait at its port
waits with them, and is accepted after them (assumption 132, DEDUCED). During a zero-fill every read waits for its end, and finds
zeros (R345). -/
def Dev.hbmByte (d : Dev) (m : Mem) (port a : Nat) : Byte :=
  match postedByte (d.hbm.writes ++ d.waitingWrites port) a with
  | some b => b
  | none => if d.on F.HBM_STATUS_INIT_BUSY then 0 else m.hbmByte a

/-- Bytes of HBM as a port reads them. -/
def Dev.hbmRead (d : Dev) (m : Mem) (port a n : Nat) : List Byte := (List.range n).map fun i => d.hbmByte m port (a + i)

/-- Bases of the regions of R332. -/
def journalBase : Nat := 111 * 2 ^ 30
def tableBase : Nat := 175 * 2 ^ 30
def controlBase : Nat := 191 * 2 ^ 30

/-- The stack of a granule (R331). -/
def stackOf (g : Nat) : Nat := (g ^^^ (g >>> 3) ^^^ (g >>> 6)) &&& 7

/-- The pseudo-channel of a granule within its stack (R331). -/
def pcOf (g : Nat) : Nat := ((g >>> 3) ^^^ (g >>> 8)) &&& 0x1F

/-- The pseudo-channel of a granule among all 256. -/
def channelOf (g : Nat) : Nat := stackOf g * 32 + pcOf g

/-- The journal's floor credit now (R338): 64,000 tokens a byte, GBPS × 1,000 tokens per 0.125 ns, capped at 4,096 bytes. -/
def Dev.floorNow (d : Dev) : Bucket := d.hbm.floor.refill d.el8 (d.f F.HBM_FLOOR_GBPS * 1000) (4096 * 64000)

/-- Is domain TLD ON (R501)? -/
def Dev.tldOn (d : Dev) : Bool := d.domain 95 == 0

/-- Add to counter `k`, carrying into the chain (R513, R514). -/
def Dev.pcAdd (fuel : Nat) (d : Dev) (k n : Nat) : Dev :=
  match fuel with
  | 0 => d
  | fuel + 1 =>
    let v := d.f F.TEL_PC_COUNT k + n
    let d := d.setF F.TEL_PC_COUNT (v % 2 ^ 32) k
    if v < 2 ^ 32 then d
    else if k + 1 < 1024 && d.on F.TEL_PC_CFG_CHAIN (k + 1) then Dev.pcAdd fuel d (k + 1) (v / 2 ^ 32)
    else d.setF F.TEL_PC_CFG_OVF 1 k

/-- The counters whose configuration a master has written. -/
def Dev.pcConfigured (d : Dev) : List Nat :=
  let b := Reg.off .TEL_PC_CFG 0 0 0
  d.regs.filterMap fun p => if b ≤ p.1 && p.1 < b + 4096 then some ((p.1 - b) / 4) else none

/-- One event of R513: every counter that selects it counts. -/
def Dev.pcEvent (d : Dev) (sel index : Nat) (cls : Option Nat) (val : Nat → Bool) (n : Nat := 1) : Dev :=
  if !d.tldOn then d else
  d.pcConfigured.foldl (fun d k =>
    if !d.on F.TEL_PC_CFG_CHAIN k && d.f F.TEL_PC_CFG_SEL k == sel && d.f F.TEL_PC_CFG_INDEX k == index &&
        (cls.isNone || d.on F.TEL_PC_CFG_CLASS_ANY k || cls == some (d.f F.TEL_PC_CFG_CLASS k)) && val (d.f F.TEL_PC_CFG_VAL k) then
      Dev.pcAdd 4 d k n
    else d) d

/-- Count what a domain's energy is divided by (R494). -/
def Dev.weigh (d : Dev) (dom kind account n : Nat) : Dev :=
  { d with pwr := { d.pwr with weights := SMap.upd d.pwr.weights (dom * 256 + kind * 128 + account) 0 (· + n) } }

/-- A request of `n` bytes is accepted at a requester port and counted (R359). -/
def Dev.accept (d : Dev) (port granule n account : Nat) : Dev :=
  let d := ((d.bumpQ .HBM_REQ_CNT port 0).bumpQ .HBM_REQ_CNT port 1 0 n).weigh (80 + stackOf granule) 0 account n
  let d := d.pcEvent 10 port none (fun _ => true) n
  { d with hbm := { d.hbm with lastReq := SMap.set d.hbm.lastReq (stackOf granule) d.time.ticks } }

/-- A JRN request is served, or enters a write queue: its bytes leave the floor credit (R338, R359). -/
def Dev.takeFloor (d : Dev) (port n : Nat) : Dev :=
  if port != 1 then d else
  let fl := d.floorNow
  let d := if 0 < fl.tokens then d.bumpQ .HBM_REQ_CNT 1 3 0 n else d
  { d with hbm := { d.hbm with floor := { fl with tokens := fl.tokens - n * 64000 } } }

/-- Urgency of a waiting read (R336). -/
def Dev.urgency (d : Dev) (r : HbmRead) : Nat :=
  let a := d.time.ticks - r.at_
  let t := d.f F.HBM_REQ_CFG_TARGET r.port * 8
  if a * 2 < t then 0 else if a < t then 1 else if a < 2 * t then 2 else 3

/-- Reads that have reached urgency 3 are counted, each once (R359). -/
def Dev.countUrgent (d : Dev) : Dev :=
  let l := d.hbm.reads.filter fun r => !r.urgent && d.urgency r == 3
  if l.isEmpty then d else
  l.foldl (fun d r => d.bumpQ .HBM_REQ_CNT r.port 2)
    { d with hbm := { d.hbm with reads := d.hbm.reads.map fun r => { r with urgent := r.urgent || d.urgency r == 3 } } }

/-- An accepted granule write enters its write queue: merged into its entry, or queued; a queue of 48 starts a drain
(R340). -/
def Dev.queueWrite (d : Dev) (w : HbmWrite) : Dev :=
  let d := (d.accept w.port w.granule w.bytes.length w.account).takeFloor w.port w.bytes.length
  let ch := channelOf w.granule
  if d.hbm.writes.any fun x => x.granule == w.granule then
    { d with hbm := { d.hbm with writes := d.hbm.writes.map fun x =>
        if x.granule == w.granule then { x with bytes := (x.bytes.filter fun p => !(w.bytes.any fun r => r.1 == p.1)) ++ w.bytes } else x } }
  else
    let d := { d with hbm := { d.hbm with writes := d.hbm.writes ++ [w] } }
    let n := (d.hbm.writes.filter fun x => channelOf x.granule == ch).length
    if 48 ≤ n && !(d.hbm.draining.contains ch) then
      { d with hbm := { d.hbm with draining := ch :: d.hbm.draining } }.bumpQ .HBM_STACK_CNT (ch / 32) 5
    else d

/-- Does a write queue take a write of this granule (R336, R340)? -/
def Dev.queueTakes (d : Dev) (g : Nat) : Bool :=
  (d.hbm.writes.any fun x => x.granule == g) || decide ((d.hbm.writes.filter fun x => channelOf x.granule == channelOf g).length < 64)

/-- Post a granule write at a requester port: queued, or waiting at its port behind the port's earlier writes (R336). -/
def Dev.postGranule (d : Dev) (w : HbmWrite) : Dev :=
  if (d.hbm.waiting.any fun x => x.port == w.port) || !d.queueTakes w.granule then
    { d with hbm := { d.hbm with waiting := d.hbm.waiting ++ [.write w] } }
  else d.queueWrite w

/-- Split bytes at a device address into granule writes. -/
def granulesOf (a : Nat) (bs : List Byte) : List (Nat × List (Nat × Byte)) :=
  let n := bs.length
  if n == 0 then [] else
  let first := a / 256
  let last := (a + n - 1) / 256
  (List.range (last - first + 1)).map fun g =>
    (first + g, ((List.range 256).filterMap fun o =>
      let x := (first + g) * 256 + o
      if a ≤ x && x < a + n then some (o, bs.getD (x - a) 0) else none))

/-- Post bytes at a device address through a requester port. -/
def Dev.hbmPost (d : Dev) (port a : Nat) (bs : List Byte) (account : Nat := 64) : Dev :=
  (granulesOf a bs).foldl (fun d g => d.postGranule ⟨g.1, g.2, port, account⟩) d

/-- One granule of a read is accepted: answered from the write queue, or waiting for its slot (R336, R341). -/
def Dev.acceptRead (d : Dev) (port g : Nat) (offs : List Nat) (account : Nat) (scrub : Bool := false) : Dev :=
  let d := d.accept port g offs.length account
  let queued := fun o => d.hbm.writes.any fun x => x.granule == g && x.bytes.any fun p => p.1 == o
  if offs.all queued then (d.takeFloor port offs.length).bumpQ .HBM_STACK_CNT (stackOf g) 6
  else
    let d := if offs.any queued then d.bumpQ .HBM_STACK_CNT (stackOf g) 7 else d
    { d with hbm := { d.hbm with reads := d.hbm.reads ++ [⟨g, port, offs.length, d.time.ticks, 0, false, scrub⟩] } }

/-- One granule of a read, behind the writes that wait at its port. -/
def Dev.readGranule (d : Dev) (port g : Nat) (offs : List Nat) (account : Nat) (scrub : Bool := false) : Dev :=
  if d.hbm.waiting.any fun x => x.port == port then
    { d with hbm := { d.hbm with waiting := d.hbm.waiting ++ [.read g port account offs scrub] } }
  else d.acceptRead port g offs account scrub

/-- A read of `n` bytes at a device address through a requester port. -/
def Dev.askRead (d : Dev) (port a n : Nat) (account : Nat := 64) : Dev :=
  (granulesOf a (List.replicate n 0)).foldl (fun d g => d.readGranule port g.1 (g.2.map (·.1)) account) d

/-- Does a read of `n` bytes at a device address take a word known to be uncorrectable (R349)? Bytes that a write queue holds come
from there (R341). -/
def Dev.knownBad (d : Dev) (a n : Nat) : Bool :=
  d.hbm.bad.any fun w => (List.range 8).any fun i =>
    decide (a ≤ 8 * w + i) && decide (8 * w + i < a + n) && (postedByte d.hbm.writes (8 * w + i)).isNone

/-! ### Copies -/

namespace Dev

def copy? (d : Dev) (cid : Nat) : Option Copy := SMap.find? d.buf.copies cid

def setCopy (d : Dev) (c : Copy) : Dev := { d with buf := { d.buf with copies := SMap.set d.buf.copies c.id c } }

def dropCopy (d : Dev) (cid : Nat) : Dev := { d with buf := { d.buf with copies := SMap.erase d.buf.copies cid } }

/-- Change a copy, if it still exists. -/
def updCopy (d : Dev) (cid : Nat) (g : Copy → Copy) : Dev :=
  match d.copy? cid with
  | some c => d.setCopy (g c)
  | none => d

def copyList (d : Dev) : List Copy := d.buf.copies.map fun p => p.2

/-- Copies of a list of identifiers that still exist, in order. -/
def copiesOf (d : Dev) (ids : List Nat) : List Copy := ids.filterMap d.copy?

end Dev

/-- The wire length of a copy of a frame to a port (R53, R204). -/
def Dev.wireOf (d : Dev) (len e : Nat) : Nat := len + 20 + d.tagLen e

/-- backlog(e, c): wire length of admitted copies of classes 0 to c of the port (R54). -/
def Dev.backlog (d : Dev) (e c : Nat) : Nat :=
  (d.copyList.filter fun x => x.counted && x.egress == e && decide (x.cls ≤ c)).foldl (fun a x => a + x.wire) 0

/-- stagger_held(e): wire length of release copies already scheduled to launch on the port (R54). -/
def Dev.staggerHeld (d : Dev) (e : Nat) : Nat :=
  (d.copiesOf (SMap.get d.hold.calendars e [])).foldl (fun a x => a + x.wire) 0

/-- The tie value of R166. -/
def tieOf (id29 seedLo seedHi : Nat) : Nat :=
  (((id29 ^^^ seedLo) % 2 ^ 29) * (seedHi ||| 1)) % 2 ^ 29

/-- The source identity of a frame (R166). -/
def Dev.identOf (d : Dev) (fr : Frame) : Nat :=
  (if fr.tagged then fr.edgeDev else d.f F.IVL_DEVNUM_DEVNUM) * 2 ^ 11 + fr.ingress

/-- Compare short stamps with fraction through the u32 difference, read as signed (R166): a before b. -/
def stampLt (a8 b8 : Nat) : Bool :=
  let w := 2 ^ 35
  let x := (a8 % w + w - b8 % w) % w
  x != 0 && decide (w / 2 ≤ x)

/-- The order of R166 under the seed in force. -/
def keyLt (lo hi : Nat) (a b : Key) : Bool :=
  if stampLt a.edge8 b.edge8 then true
  else if stampLt b.edge8 a.edge8 then false
  else
    let ta := tieOf a.id29 lo hi
    let tb := tieOf b.id29 lo hi
    if ta == tb then decide (a.order < b.order) else decide (ta < tb)

def Dev.keyOf (d : Dev) (c : Copy) : Key := ⟨c.frame.edge8, d.identOf c.frame, c.id⟩

/-- The seed in force in this cell time (R167). -/
def Dev.seed (d : Dev) : Nat × Nat :=
  if d.hold.seedFrom ≤ d.cell then (d.hold.newLo, d.hold.newHi) else (d.hold.oldLo, d.hold.oldHi)

/-- A new seed, in force from the first cell time that starts at or after now (R167). -/
def Dev.setSeed (d : Dev) (lo hi : Nat) : Dev :=
  { d with hold := { d.hold with oldLo := d.seed.1, oldHi := d.seed.2, newLo := lo, newHi := hi, seedFrom := d.nextCell } }

def Dev.keyBefore (d : Dev) (a b : Key) : Bool := keyLt d.seed.1 d.seed.2 a b

/-- W of a finish group as held copies see it: a lower W holds from the next cell time (R176). -/
def Dev.windowNs (d : Dev) (g : Nat) : Nat :=
  match SMap.find? d.hold.windowOld g with
  | some (w, c) => if d.cell ≤ c then w else d.f F.FIN_GRP_WINDOW_W_NS g
  | none => d.f F.FIN_GRP_WINDOW_W_NS g

/-- A value that a list of replaced ones still stands for in this cell time, or the one held now (R62, R551). -/
def Dev.slow (d : Dev) (old : List (Word × Nat)) (now : Word) : Word :=
  ((old.find? fun x => decide (d.cell < x.2)).map (·.1)).getD now

/-- A write replaces a value that decisions use up to the second cell time after it (R62, R551). -/
def Dev.slowWrite (d : Dev) (old : List (Word × Nat)) (was : Word) : List (Word × Nat) :=
  (old.filter fun x => decide (d.cell < x.2)) ++ [(was, d.cell + 2)]

/-- Insert into a list ordered by a strict order, after its equals. -/
def insertBy {α : Type} (lt : α → α → Bool) (x : α) : List α → List α
  | [] => [x]
  | y :: ys => if lt x y then x :: y :: ys else y :: insertBy lt x ys

def sortBy {α : Type} (lt : α → α → Bool) (l : List α) : List α := l.foldl (fun acc x => insertBy lt x acc) []

/-- The short time of R65 elapsed since a short stamp. -/
def shortDiff (now then_ : Nat) : Nat := (now + 2 ^ 32 - then_ % 2 ^ 32) % 2 ^ 32

/-- The next number at or after `pick` (cyclically below `n`) that a list does not hold. -/
def nextFree (used : List Nat) (n pick : Nat) : Option Nat :=
  (List.range (used.length + 1)).findSome? fun i =>
    let x := (pick + i) % n
    if n == 0 || used.contains x then none else some x

/-- The measurement digest's register words. -/
def Dev.setBytes (d : Dev) (r : Reg) (n : Nat) (bs : List Byte) : Dev :=
  (List.range n).foldl (fun d i => d.set r (word (beAt bs (4 * i) 4)) i) d

/-- The bytes of a word-array register, byte 4i in bits 31:24 of word i (R225). -/
def Dev.bytesOf (d : Dev) (r : Reg) (n : Nat) : List Byte :=
  (List.range n).flatMap fun i => be 4 (d.get r i).toNat

end Sys2Proof.Machine
end

