-- ==== Sys2Proof/Machine/Crypto.lean ====
section
/-! DEFINITION. SHA-256 (FIPS 180-4), ECDSA over P-256 with deterministic nonces (FIPS 186-5), and the CRCs the manual
names: CRC-32 of the IEEE 802.3 FCS and CRC-32C of RFC 3720. -/

namespace Sys2Proof.Machine

/-- The 64 round constants of FIPS 180-4 section 4.2.2, the first one highest, sixteen a line. -/
def shaConstants : Nat :=
  0x428a2f9871374491b5c0fbcfe9b5dba53956c25b59f111f1923f82a4ab1c5ed5d807aa9812835b01243185be550c7dc372be5d7480deb1fe9bdc06a7c19bf174 * 2 ^ 1536
  + 0xe49b69c1efbe47860fc19dc6240ca1cc2de92c6f4a7484aa5cb0a9dc76f988da983e5152a831c66db00327c8bf597fc7c6e00bf3d5a7914706ca635114292967 * 2 ^ 1024
  + 0x27b70a852e1b21384d2c6dfc53380d13650a7354766a0abb81c2c92e92722c85a2bfe8a1a81a664bc24b8b70c76c51a3d192e819d6990624f40e3585106aa070 * 2 ^ 512
  + 0x19a4c1161e376c082748774c34b0bcb5391c0cb34ed8aa4a5b9cca4f682e6ff3748f82ee78a5636f84c878148cc7020890befffaa4506cebbef9a3f7c67178f2

/-- The eight initial hash words of FIPS 180-4 section 5.3.3, the first one highest. -/
def shaStart : Nat := 0x6a09e667bb67ae853c6ef372a54ff53a510e527f9b05688c1f83d9ab5be0cd19

/-- Word `k` of a row of `n` 32-bit words packed in one number, the first highest. -/
def wordAt (n x k : Nat) : Nat := x / 2 ^ (32 * (n - 1 - k)) % 2 ^ 32

/-- A 32-bit word rotated right by `n` places. -/
def turn (x n : Nat) : Nat := x / 2 ^ n + x % 2 ^ n * 2 ^ (32 - n)

/-- The next word of the message schedule, from the sixteen words in the window. -/
def shaNext (win : Nat) : Nat :=
  let x := wordAt 16 win 1
  let y := wordAt 16 win 14
  (wordAt 16 win 0 + (turn x 7 ^^^ turn x 18 ^^^ x / 2 ^ 3) + wordAt 16 win 9 +
    (turn y 17 ^^^ turn y 19 ^^^ y / 2 ^ 10)) % 2 ^ 32

/-- One round on the eight packed working words: seven move one place down, the fourth takes the mix on its way. -/
def shaStep (st kw : Nat) : Nat :=
  let v := wordAt 8 st
  let mix := v 7 + kw + (turn (v 4) 6 ^^^ turn (v 4) 11 ^^^ turn (v 4) 25) + (v 6 ^^^ (v 4 &&& (v 5 ^^^ v 6)))
  let top := mix + (turn (v 0) 2 ^^^ turn (v 0) 13 ^^^ turn (v 0) 22) + ((v 0 &&& v 1) ||| (v 2 &&& (v 0 ||| v 1)))
  top % 2 ^ 32 * 2 ^ 224 + st / 2 ^ 160 * 2 ^ 128 + (v 3 + mix) % 2 ^ 32 * 2 ^ 96 + st / 2 ^ 32 % 2 ^ 96

/-- The last `n` of the 64 rounds, over the window whose first word this round takes. -/
def shaRounds : Nat → Nat → Nat → Nat
  | 0, _, st => st
  | n + 1, win, st =>
    shaRounds n (win % 2 ^ 480 * 2 ^ 32 + shaNext win) (shaStep st (wordAt 64 shaConstants (63 - n) + wordAt 16 win 0))

/-- The hash after `n` more blocks of a padded message. -/
def shaBlocks : Nat → List Byte → Nat → Nat
  | 0, _, h => h
  | n + 1, bs, h =>
    let st := shaRounds 64 (beAt bs 0 64) h
    shaBlocks n (bs.drop 64) ((List.range 8).foldl (fun a k => a * 2 ^ 32 + (wordAt 8 h k + wordAt 8 st k) % 2 ^ 32) 0)

/-- The padding of FIPS 180-4 section 5.1.1: a one bit, zeros to 56 bytes beyond a block, the length in bits. -/
def shaPad (n : Nat) : List Byte := 0x80 :: (List.replicate ((119 - n % 64) % 64) 0 ++ be 8 (8 * n))

/-- SHA-256 of a byte string. -/
@[irreducible] def sha256 (msg : List Byte) : List Byte :=
  be 32 (shaBlocks ((msg.length + 72) / 64) (msg ++ shaPad msg.length) shaStart)

/-- HMAC with SHA-256 (FIPS 198-1). -/
def hmac (key msg : List Byte) : List Byte :=
  let k := if key.length > 64 then sha256 key else key
  let k := k ++ List.replicate (64 - k.length) 0
  sha256 (k.map (· ^^^ 0x5c) ++ sha256 (k.map (· ^^^ 0x36) ++ msg))

/-! ### P-256 -/

def pP : Nat := 0xFFFFFFFF00000001000000000000000000000000FFFFFFFFFFFFFFFFFFFFFFFF
def pN : Nat := 0xFFFFFFFF00000000FFFFFFFFFFFFFFFFBCE6FAADA7179E84F3B9CAC2FC632551
def pGx : Nat := 0x6B17D1F2E12C4247F8BCE6E563A440F277037D812DEB33A0F4A13945D898C296
def pGy : Nat := 0x4FE342E2FE1A7F9B8EE7EB4A7C0F9E162BCE33576B315ECECBB6406837BF51F5

/-- Modular exponentiation by the bits of the exponent, `fuel` of them. -/
def powMod (m : Nat) : Nat → Nat → Nat → Nat
  | 0, _, _ => 1 % m
  | n + 1, b, e => if e = 0 then 1 % m else
      let r := powMod m n (b * b % m) (e / 2)
      if e % 2 = 1 then r * b % m else r

def invMod (m a : Nat) : Nat := powMod m 256 a (m - 2)

/-- A point of the curve in Jacobian coordinates x / z², y / z³; z = 0 is the point at infinity. -/
structure Point where
  x : Nat
  y : Nat
  z : Nat
  deriving DecidableEq, Repr

def Point.base : Point := ⟨pGx, pGy, 1⟩

/-- A difference modulo p. -/
def subP (a b : Nat) : Nat := (a + (pP - b % pP)) % pP

/-- Twice a point. -/
def ptDouble (a : Point) : Point :=
  let zz := a.z * a.z % pP
  let yy := a.y * a.y % pP
  let b := a.x * yy % pP
  let m := 3 * subP a.x zz * (a.x + zz) % pP
  let x := subP (m * m) (8 * b)
  ⟨x, subP (m * subP (4 * b) x) (8 * yy * yy), 2 * a.y * a.z % pP⟩

/-- The sum of two points. -/
def ptAdd (a b : Point) : Point :=
  if a.z = 0 then b
  else if b.z = 0 then a
  else
    let az := a.z * a.z % pP
    let bz := b.z * b.z % pP
    let u := a.x * bz % pP
    let v := a.y * bz % pP * b.z % pP
    let h := subP (b.x * az) u
    let r := subP (b.y * az % pP * a.z) v
    if h = 0 then (if r = 0 then ptDouble a else ⟨1, 1, 0⟩)
    else
      let hh := h * h % pP
      let w := u * hh % pP
      let x := subP (r * r) (h * hh + 2 * w)
      ⟨x, subP (r * subP w x) (v * (h * hh % pP)), a.z * b.z % pP * h % pP⟩

/-- A multiple of a point, by the bits of the scalar, `n` of them. -/
def ptMul : Nat → Nat → Point → Point
  | 0, _, _ => ⟨1, 1, 0⟩
  | n + 1, k, p =>
    let h := ptDouble (ptMul n (k / 2) p)
    if k % 2 = 1 then ptAdd h p else h

/-- The two coordinates of a point; none at infinity. -/
def Point.plain (a : Point) : Option (Nat × Nat) :=
  if a.z = 0 then none
  else
    let i := invMod pP a.z
    some (a.x * (i * i % pP) % pP, a.y * (i * i % pP * i % pP) % pP)

/-- The public point of a private scalar. -/
@[irreducible] def p256Public (d : Nat) : Nat × Nat :=
  ((ptMul 256 d .base).plain).getD (0, 0)

/-- The deterministic nonce candidates of FIPS 186-5 (RFC 6979 with HMAC-SHA-256). -/
def nonceLoop : Nat → List Byte → List Byte → (Nat → Option (Nat × Nat)) → Nat × Nat
  | 0, _, _, _ => (0, 0)
  | n + 1, k, v, try_ =>
    let v := hmac k v
    let x := ofBe v
    let again := fun (_ : Unit) =>
      let k' := hmac k (v ++ [0])
      nonceLoop n k' (hmac k' v) try_
    if 0 < x ∧ x < pN then
      match try_ x with
      | some rs => rs
      | none => again ()
    else again ()

/-- ECDSA signature r ‖ s over P-256 with SHA-256 and a deterministic nonce (R218). -/
@[irreducible] def ecdsaSign (d : Nat) (msg : List Byte) : List Byte :=
  let h := sha256 msg
  let z := ofBe h
  let seed := be 32 d ++ be 32 (z % pN)
  let k0 := List.replicate 32 (0 : Byte)
  let v0 := List.replicate 32 (1 : Byte)
  let k1 := hmac k0 (v0 ++ [0] ++ seed)
  let v1 := hmac k1 v0
  let k2 := hmac k1 (v1 ++ [1] ++ seed)
  let v2 := hmac k2 v1
  let rs := nonceLoop 64 k2 v2 fun k =>
    match (ptMul 256 k .base).plain with
    | none => none
    | some (x, _) =>
      let r := x % pN
      let s := invMod pN k * ((z + r * d) % pN) % pN
      if r = 0 ∨ s = 0 then none else some (r, s)
  be 32 rs.1 ++ be 32 rs.2

/-- Verification of a signature r ‖ s under a public key. -/
@[irreducible] def ecdsaVerify (qx qy : Nat) (msg sig : List Byte) : Bool :=
  let r := beAt sig 0 32
  let s := beAt sig 32 32
  let z := ofBe (sha256 msg)
  let onCurve := (qy * qy) % pP == (qx * qx * qx + (pP - 3) * qx + 0x5AC635D8AA3A93E7B3EBBD55769886BC651D06B0CC53B0F63BCE3C3E27D2604B) % pP
  if r = 0 ∨ r ≥ pN ∨ s = 0 ∨ s ≥ pN ∨ onCurve = false then false
  else
    let w := invMod pN s
    match (ptAdd (ptMul 256 (z * w % pN) .base) (ptMul 256 (r * w % pN) ⟨qx, qy, 1⟩)).plain with
    | none => false
    | some (x, _) => x % pN == r

/-! ### CRCs -/

def crcBit (poly c : Nat) : Nat := if c % 2 = 1 then (c / 2) ^^^ poly else c / 2

def crcByte (poly c : Nat) (b : Byte) : Nat :=
  let x := (c ^^^ b.toNat)
  crcBit poly (crcBit poly (crcBit poly (crcBit poly (crcBit poly (crcBit poly (crcBit poly (crcBit poly x)))))))

/-- A reflected CRC with all-ones preset and final inversion. -/
def crc (poly : Nat) (bs : List Byte) : Nat := 0xFFFFFFFF ^^^ bs.foldl (crcByte poly) 0xFFFFFFFF

/-- CRC-32 of the IEEE 802.3 FCS. -/
def crc32 (bs : List Byte) : Nat := crc 0xEDB88320 bs

/-- The CRC field of a big-endian message (R387, R456). -/
def crc32Field (bs : List Byte) : List Byte := be 4 (crc32 bs)

/-- CRC-32C of RFC 3720. -/
def crc32c (bs : List Byte) : Nat := crc 0x82F63B78 bs

end Sys2Proof.Machine
end

