-- ==== Sys2Proof/Machine/Operands.lean ====
section
/-! DEFINITION. The forms a command takes: an effect on the device alone, or on the memories and the device; and the
free values the device draws. -/

namespace Sys2Proof.Machine

/-- The device with the outputs and completions of the last command dropped (assumption 6, DESIGN CHOICE). -/
def Dev.fresh (d : Dev) : Dev := { d with out := [], last := [] }

/-- A command that changes the device and neither the queue nor the memories. -/
def onDev (f : Mem → Dev → Dev) (s : State) : Host.Outcome State Fault Refusal :=
  .next { s with dev := f s.mem s.dev.fresh }

/-- A command that may change the memories too. -/
def onMem (f : Mem → Dev → Mem × Dev) (s : State) : Host.Outcome State Fault Refusal :=
  let r := f s.mem s.dev.fresh
  .next { s with mem := r.1, dev := r.2 }

/-- Is the device held in reset, by PWRGD, by its rails or by a test instruction (R526, R528, R540)? -/
def Dev.held (d : Dev) : Bool := d.boot.inReset || d.boot.jtagHeld

/-- Events that a device held in reset does not see. -/
def awake (f : Mem → Dev → Dev) (mem : Mem) (d : Dev) : Dev := if d.held then d else f mem d
def awakeMem (f : Mem → Dev → Mem × Dev) (mem : Mem) (d : Dev) : Mem × Dev := if d.held then (mem, d) else f mem d

/-- ID_CLK_STAT shows the lane and link clocks that run, once start-up has left stage 0x0 (R532). -/
def Dev.clocksShown (d : Dev) : Dev := (d.setF F.ID_CLK_STAT_IREF_OK (b2n d.boot.iref)).setF F.ID_CLK_STAT_LREF_OK d.boot.lref

/-- What locks to a reference clock shows that it runs: LREFCLK[t] for a lane of tile t, IREFCLK for a logical IVL port (R527,
R532; assumption 152, DEDUCED). -/
def Dev.clockRuns (d : Dev) (tile : Option Nat) : Dev :=
  match tile with
  | some t => if bit d.boot.lref t then d else { d with boot := { d.boot with lref := d.boot.lref ||| 2 ^ t } }.clocksShown
  | none => if d.boot.iref then d else { d with boot := { d.boot with iref := true } }.clocksShown

/-- Draw a value the spec leaves open: a fresh free value (assumption 5, DESIGN CHOICE). -/
def Dev.draw (d : Dev) : Nat × Dev := (Config.freeValue d.draws, { d with draws := d.draws + 1 })

/-- A list of numbers below `n`. -/
def upto (n : Nat) : List Nat := List.range n

/-- Fold a change of the device over a list. -/
def Dev.each {α : Type} (d : Dev) (l : List α) (f : Dev → α → Dev) : Dev := l.foldl f d

/-- Change the device where a condition holds. -/
def Dev.when_ (d : Dev) (b : Bool) (f : Dev → Dev) : Dev := if b then f d else d

/-! ### Scratchpad banks (R432, R437) -/

def spdBase : Nat := 0x08000000
def spdBankSize : Nat := 0x80000

def Dev.bankOwner (d : Dev) (b : Nat) : Nat := d.f F.SPD_BANK_CFG_OWNER b

def Dev.bankState (d : Dev) (b : Nat) : Nat := d.f F.SPD_BANK_CFG_PSTATE b

/-- BIST restores what it changed in a bank: its contents are as before the lend (R437). -/
def Dev.bistRestore (d : Dev) (b : Nat) : Dev :=
  { d with ctl := { d.ctl with bist := d.ctl.bist.filter fun c => c.1 / spdBankSize != b } }

/-- BIST gives a lent bank back with its contents as before the lend (R437). -/
def Dev.reclaimBank (d : Dev) (b : Nat) : Dev :=
  if d.on F.SPD_BANK_CFG_LEND b then
    ((d.setF F.SPD_BANK_CFG_LEND 0 b).setF F.SPD_BANK_STAT_BIST_ACTIVE 0 b).bistRestore b
  else d

/-- The management cycle, of 1 ns, counted from the device reset (R30, R434; assumption 108, DESIGN CHOICE). -/
def Dev.mgmtCycle (d : Dev) : Nat := d.time.ticks * 5 / 4

/-- The management cycles that a request to a bank waits for the requests before it: a bank makes one access in a cycle (R434). -/
def Dev.spdWait (d : Dev) (b : Nat) : Nat := SMap.get d.ctl.spdNext b 0 - d.mgmtCycle

/-- A bank serves `n` accesses of a master: every cycle the request waits, for the requests before it and `waited` more for a
wake or a reclaim, is added to the master's SPD_CONFLICT (R434; assumption 143, DESIGN CHOICE). -/
def Dev.spdServe (d : Dev) (m b n waited : Nat) : Dev :=
  { d with ctl := { d.ctl with spdNext := SMap.set d.ctl.spdNext b (d.mgmtCycle + d.spdWait b + n) } }.bumpQ
    .SPD_CONFLICT m 0 0 (d.spdWait b + waited)

/-- The banks that `n` bytes of the scratchpad at `off` lie in. -/
def banksOf (off n : Nat) : List Nat := (upto 32).filter fun b => off / spdBankSize ≤ b && b * spdBankSize < off + n

/-- An engine or DMA channel reaches `n` bytes of the scratchpad for their owner `m`: what is lent of them comes back, and its
accesses, of 64 bytes each, wait and count for the master (R434, R437). -/
def Dev.spdReach (d : Dev) (m off n : Nat) : Dev :=
  d.each ((banksOf off n).filter fun b => d.bankOwner b == m) fun d b =>
    (d.reclaimBank b).spdServe m b (min ((off + n + 63) / 64) ((b + 1) * 8192) - max (off / 64) (b * 8192)) 0

/-- The first of `n` bytes of the scratchpad at `off` that lies in a bank that is not ON (R435). -/
def Dev.spdOff (d : Dev) (off n : Nat) : Option Nat :=
  ((banksOf off n).find? fun b => d.bankState b != 0).map fun b => max off (b * spdBankSize)

/-- The NOT_ON entry of an access that an engine or DMA channel makes for a master (R420, R435). -/
def Dev.logNotOn (d : Dev) (m : Nat) (write : Bool) (off : Nat) : Dev := d.logViolation 6 m false write (spdBase + off) 0

end Sys2Proof.Machine
end

