-- ==== Sys2Proof/Machine/Datagram.lean ====
section
/-! DEFINITION. The UDP datagrams the device builds itself (R63, R211): Ethernet, IPv4 or IPv6, and UDP with their lengths
and checksums. -/

namespace Sys2Proof.Machine

/-- The ones' complement sum of two 16-bit numbers. -/
def onesAdd (a b : Nat) : Nat := let s := a + b; s % 65536 + s / 65536

/-- The ones' complement sum of the 16-bit words of a byte string, a last odd byte padded with zero. -/
def onesSum : List Byte → Nat
  | a :: b :: rest => onesAdd (a.toNat * 256 + b.toNat) (onesSum rest)
  | [a] => a.toNat * 256
  | [] => 0

/-- Where a datagram goes and what its headers carry. -/
structure UdpTo where
  dstMac : List Byte
  /-- The VLAN tag behind the source address, if any. -/
  tag : List Byte
  /-- IP version, 4 or 6. -/
  ver : Nat
  srcIp : List Byte
  dstIp : List Byte
  srcPort : Nat
  dstPort : Nat
  dscp : Nat
  ttl : Nat
  deriving DecidableEq, Repr

/-- The UDP header and payload, with the checksum over the pseudo-header of RFC 768 or RFC 8200. -/
def udpPart (x : UdpTo) (payload : List Byte) : List Byte :=
  let n := 8 + payload.length
  let head := be 2 x.srcPort ++ be 2 x.dstPort ++ be 2 n
  let pseudo := x.srcIp ++ x.dstIp ++ (if x.ver == 4 then be 2 17 ++ be 2 n else be 4 n ++ be 4 17)
  let sum := 65535 - onesSum (pseudo ++ head ++ payload)
  head ++ be 2 (if sum == 0 then 65535 else sum) ++ payload

/-- The IP header over `n` bytes. What no rule states of it, IPv4's identification and don't-fragment bit and IPv6's flow
label, comes from the free value (assumption 113, DESIGN CHOICE). -/
def ipPart (x : UdpTo) (free n : Nat) : List Byte :=
  if x.ver == 4 then
    let a := be 1 0x45 ++ be 1 (x.dscp * 4) ++ be 2 (20 + n) ++ be 2 (free % 65536) ++ be 2 (free / 65536 % 2 * 0x4000) ++ be 1 x.ttl ++ be 1 17
    a ++ be 2 (65535 - onesSum (a ++ x.srcIp ++ x.dstIp)) ++ x.srcIp ++ x.dstIp
  else be 4 (6 * 2 ^ 28 + x.dscp * 2 ^ 22 + free % 2 ^ 20) ++ be 2 n ++ be 1 17 ++ be 1 x.ttl ++ x.srcIp ++ x.dstIp

/-- The whole frame for port `e`, from the destination address through the FCS. -/
def udpFrame (e : Nat) (x : UdpTo) (free : Nat) (payload : List Byte) : List Byte :=
  let u := udpPart x payload
  let body := x.dstMac ++ be 6 (Config.sourceMac e) ++ x.tag ++ be 2 (if x.ver == 4 then 0x0800 else 0x86DD) ++ ipPart x free u.length ++ u
  body ++ le 4 (crc32 body)

end Sys2Proof.Machine
end

