-- ==== Sys2Proof/Machine/Time.lean ====
section
/-! DEFINITION. The time base (R119 to R165): the counter, rate and slew, the time state and error bound, PTP
correction, TX timestamp queues, pins and alarms. -/

namespace Sys2Proof.Machine

/-! ### The counter -/

/-- Device time in 2^-48 ns. -/
def Time.total (t : Time) : Nat := (t.sec * 1000000000 + t.ns) * 2 ^ 48 + t.frac

/-- Set device time from a total in 2^-48 ns. -/
def Time.ofTotal (t : Time) (x : Nat) : Time :=
  let n := x / 2 ^ 48
  { t with sec := (n / 1000000000) % 2 ^ 48, ns := n % 1000000000, frac := x % 2 ^ 48 }

/-- The slew applied in `n` ticks (R121): the share each tick, the last cut to what remains. -/
def slewIn (rem : Int) (share n : Nat) : Int :=
  let a := min rem.natAbs (n * share)
  if rem < 0 then -(a : Int) else a

/-- `n` ticks of the time clock (R119, R121). -/
def Dev.tick (d : Dev) (n : Nat) : Dev :=
  let t := d.time
  let a := slewIn t.slewRem t.slewShare n
  let x := ((t.total : Int) + n * d.q .TIME_RATE + a).toNat
  { d with time := { t.ofTotal x with slewRem := t.slewRem - a, ticks := t.ticks + n, stretched := t.stretched + if d.pwr.droop then n else 0 } }

/-- Is a rate word within ±500 ppm of nominal (R120)? -/
def rateOk (v : Nat) : Bool := decide (1999 * 2 ^ 48 ≤ v * 1600) && decide (v * 1600 ≤ 2001 * 2 ^ 48)

/-- A write to TIME_SLEW replaces the remaining amount (R121). -/
def Dev.slewWrite (d : Dev) (v : Nat) : Dev := { d with time := { d.time with slewRem := signed 32 v * 2 ^ 40 } }

/-- What TIME_SLEW reads: the remaining amount rounded toward zero to 2^-8 ns. -/
def Dev.slewRead (d : Dev) : Nat :=
  let a := d.time.slewRem.natAbs / 2 ^ 40
  if d.time.slewRem < 0 then (2 ^ 32 - a % 2 ^ 32) % 2 ^ 32 else a % 2 ^ 32

/-- The share of a tick for a slew rate in ppb: floor(PPB × 1.25 × 2^48 / 10^9). -/
def slewShareOf (ppb : Nat) : Nat := ppb * 5 * 2 ^ 48 / (4 * 1000000000)

def Dev.slewRateWrite (d : Dev) (ppb : Nat) : Dev := { d with time := { d.time with slewShare := slewShareOf ppb } }


/-- Latch the group of R123 for a master, and answer the live nanoseconds. -/
def Dev.latchNow (d : Dev) (m : Nat) : Dev :=
  let n := d.time.sec * 1000000000 + d.time.ns
  let d := d.set .TIME_NOW_SEC_LO (word d.time.sec) 0 0 0 m
  let d := d.set .TIME_NOW_SEC_HI (word (d.time.frac / 2 ^ 32 * 2 ^ 16 + d.time.sec / 2 ^ 32)) 0 0 0 m
  let d := d.set .TIME_NOW_LAP_LO (word (n / 2 ^ 32)) 0 0 0 m
  let d := d.set .TIME_NOW_LAP_HI (word (n / 2 ^ 64)) 0 0 0 m
  d.set .TIME_NOW_SHORT (word n) 0 0 0 m

/-! ### Steps and epochs (R124 to R126) -/

/-- Where a step request would take device time, in ns; none where it is out of range (R124). -/
def Dev.stepTarget (d : Dev) (r : StepReq) : Option Nat :=
  let v := r.sec * 1000000000 + r.ns
  let now := d.time.sec * 1000000000 + d.time.ns
  if r.absolute then if r.ns < 1000000000 then some v else none
  else if r.neg then if v ≤ now then some (now - v) else none
  else if now + v < 2 ^ 48 * 1000000000 then some (now + v) else none

/-- The step value as the step registers and MODE give it. -/
def Dev.stepReq (d : Dev) (newEpoch : Bool) : StepReq :=
  { absolute := d.on F.TIME_STEP_CTRL_MODE, neg := d.on F.TIME_STEP_SEC_HI_SIGN,
    sec := d.f F.TIME_STEP_SEC_HI_SEC_HI * 2 ^ 32 + d.f F.TIME_STEP_SEC_LO_SEC_LO, ns := d.f F.TIME_STEP_NS_NS, newEpoch := newEpoch }

/-- Start a new epoch, and with it a new seal chain (R126, R218). -/
def Dev.startEpoch (d : Dev) : Dev :=
  let d := ((d.setF F.TIME_EPOCH_EPOCH (d.f F.TIME_EPOCH_EPOCH + 1)).setF F.TIME_STATUS_STEP_USED 0).setF F.TIME_STEP_CTRL_STATUS 5
  { d with ev := { d.ev with sealNum := 0, chainStart := true } }

/-- Is the epoch's step used, or granted and waiting for its tick (R125)? -/
def Dev.stepSpent (d : Dev) : Bool := d.on F.TIME_STATUS_STEP_USED || d.time.pendingStep.isSome

def Dev.rejectStep (d : Dev) (status : Nat) : Dev := (d.setF F.TIME_STEP_CTRL_STATUS status).bump F.TIME_STEP_CTRL_REJECTS

/-! ### Time state and the error bound (R128, R129) -/

def Dev.timeState (d : Dev) : Nat := d.f F.TIME_STATUS_STATE

/-- Enter a time state. A seal interval in progress remembers holdover (R217). -/
def Dev.setTimeState (d : Dev) (st : Nat) : Dev :=
  let d := d.setF F.TIME_STATUS_STATE st
  let d := if st == 1 then { d with time := { d.time with lockedAt := d.time.ticks } } else d
  if st == 2 then { d with ev := { d.ev with interval := d.ev.interval.map fun i => { i with holdover := true } } } else d

/-- STATE_REQ (R128): 1 from FREE or HOLDOVER to LOCKED, 2 from FREE or LOCKED to HOLDOVER. -/
def Dev.stateReq (d : Dev) (r : Nat) : Dev :=
  if r == 1 && d.timeState != 1 then d.setTimeState 1
  else if r == 2 && d.timeState != 2 then d.setTimeState 2 else d

/-- The error bound of R129. -/
def Dev.errBound (d : Dev) : Nat :=
  match d.time.errAt with
  | none => 0xFFFFFFFF
  | some at_ =>
    if d.timeState == 0 then 0xFFFFFFFF else
    let t := ceilDiv ((d.time.ticks - at_) * 5) 4000
    let x := d.f F.TIME_ERR_BASE_BASE * 2000000000000000 + d.f F.TIME_ERR_GROWTH_GROWTH * t * 2000000 + d.f F.TIME_ERR_AGEING_AGEING * t * t
    min (ceilDiv x 2000000000000000) 0xFFFFFFFF

/-- ERR_OVER is 1 while the bound exceeds the limit (R129); a seal interval remembers it and its greatest bound. -/
def Dev.errOver (d : Dev) : Dev :=
  let b := d.f F.TIME_ERR_BOUND_BOUND
  let past := decide (d.f F.TIME_HOLD_CFG_ERR_LIMIT_NS < b)
  let d := d.setF F.TIME_STATUS_ERR_OVER (b2n past)
  { d with ev := { d.ev with interval := d.ev.interval.map fun i => { i with errOver := i.errOver || past, maxErr := max i.maxErr b } } }

/-- The recomputation of every microsecond (R129). -/
def Dev.errUpdate (d : Dev) : Dev := (d.setF F.TIME_ERR_BOUND_BOUND d.errBound).errOver

/-- A write to TIME_ERR_BASE restarts t (R129). -/
def Dev.errBaseWritten (d : Dev) : Dev := { d with time := { d.time with errAt := some d.time.ticks } }

/-- The watchdog (R128): LOCKED to HOLDOVER, when WDOG_MS is not 0. -/
def Dev.watchdog (d : Dev) : Dev :=
  if d.timeState == 1 && d.f F.TIME_HOLD_CFG_WDOG_MS != 0 then (d.setTimeState 2).setF F.TIME_STATUS_WDOG 1 else d

/-! ### Trims (R134) -/

/-- A stamp moved by a trim in 2^-6 ns, rounded down to 0.125 ns. -/
def trimmed (t8 : Nat) (trim : Int) : Nat := (((t8 : Int) * 8 + trim) / 8).toNat

/-- The PTP receive stamp of a frame from port i (R134). -/
def Dev.rxTrimmed (d : Dev) (i t8 : Nat) : Nat :=
  if i < 1024 then trimmed t8 (-(signed 16 (d.f F.TIME_PCAL_RX_TRIM i))) else t8

/-- The PTP transmit stamp of a frame to port e (R134). -/
def Dev.txTrimmed (d : Dev) (e t8 : Nat) : Nat :=
  if e < 1024 then trimmed t8 (signed 16 (d.f F.TIME_PCAL_TX_TRIM e)) else t8

/-! ### PTP (R139 to R146) -/

/-- The enabled domain entry a message matches (R139). -/
def Dev.ptpEntry (d : Dev) (x : PtpIn) : Option Nat :=
  (upto 4).find? fun i => d.on F.TIME_PTP_DOM_EN i && d.f F.TIME_PTP_DOM_DOMAIN i == x.domain &&
    bit (d.f F.TIME_PTP_DOM_TRANSPORT i) x.transport

/-- Is the port served by a Split unit of its pipe (R144)? -/
def Dev.split (d : Dev) (e : Nat) : Bool :=
  decide (e < 1024) && (upto 4).any fun u =>
    d.on F.TIME_SPLIT_MAP_EN (4 * pipeOf e + u) && d.f F.TIME_SPLIT_MAP_PORT (4 * pipeOf e + u) == e

/-- Event messages corrected in flight on a Split port (R141, assumption 20, DEDUCED). -/
def ptpOneStep (x : PtpIn) : Bool :=
  (x.msgType == 0 && !x.twoStep) || x.msgType == 1 || x.msgType == 2 || (x.msgType == 3 && !x.twoStep)

/-- Event messages whose residence is kept for a general message (R141). -/
def ptpStored (x : PtpIn) : Bool :=
  (x.msgType == 0 && x.twoStep) || x.msgType == 1 || (x.msgType == 3 && x.twoStep)

/-- The event message type a general message follows (R141). -/
def generalOf (t : Nat) : Option Nat :=
  if t == 8 then some 0 else if t == 9 then some 1 else if t == 10 then some 3 else none

/-- Residence in 2^-16 ns (R140), with the ingress link delay for a peer-to-peer Sync (R142). -/
def Dev.residence (d : Dev) (entry : Nat) (x : PtpIn) (i e s8 d8 : Nat) : Int :=
  let r : Int := ((d.txTrimmed e d8 : Int) - d.rxTrimmed i s8) * 8192
  if x.msgType == 0 && d.f F.TIME_PTP_DOM_MODE entry == 2 && decide (i < 1024) then r + d.f F.TIME_LINK_DELAY_DELAY i * 256 else r

/-- The incremental checksum of R146 when the bytes from `o` change. -/
def udpPatch (old new : List Byte) (o n csum : Nat) : Nat :=
  let acc := (upto (n / 2)).foldl (fun a w =>
    onesAdd (onesAdd a (65535 - beAt old (o + 2 * w) 2)) (beAt new (o + 2 * w) 2)) (65535 - csum)
  let r := 65535 - acc
  if r == 0 then 0xFFFF else r

/-- Change `n` bytes at `o` of a PTP message whose header is at `off`, and its UDP checksum (R146). -/
def ptpPatch (bs : List Byte) (x : PtpIn) (o : Nat) (new : List Byte) : List Byte :=
  let bs' := patchAt bs o new
  if x.transport == 0 then bs' else
  let c := beAt bs (x.off - 2) 2
  if x.transport == 1 && c == 0 then bs' else patchAt bs' (x.off - 2) (be 2 (udpPatch bs bs' o new.length c))

/-- Add a residence to the correctionField (R143). -/
def Dev.addCorrection (d : Dev) (bs : List Byte) (x : PtpIn) (r : Int) : Dev × List Byte :=
  let old := signed 64 (beAt bs (x.off + 8) 8)
  let top : Int := 0x7FFFFFFFFFFFFFFF
  if old == top || top < old + r then
    (d.bump F.TIME_PTP_CNT_COUNT 4, ptpPatch bs x (x.off + 8) (be 8 0x7FFFFFFFFFFFFFFF))
  else (d, ptpPatch bs x (x.off + 8) (be 8 ((old + r + 2 ^ 64).toNat % 2 ^ 64)))

/-- The PTP work of a departing copy (R140 to R146): its bytes as sent. The egress stages have moved its headers by `moved`
bytes. -/
def Dev.ptpDepart (d : Dev) (fr : Frame) (moved : Int) (e d8 : Nat) (bs : List Byte) : Dev × List Byte :=
  match fr.ptp with
  | none => (d, bs)
  | some x =>
    let x := { x with off := ((x.off : Int) + moved).toNat }
    let pre := decide (fr.born < d.time.preStepFrames)
    if (fr.inj.map (·.oneStep)).getD false && x.msgType == 0 && d.split e then
      let t := d.txTrimmed e d8
      let bs := ptpPatch bs x (x.off + 34) (be 6 (secOf t) ++ be 4 (nsOf t))
      (d, ptpPatch bs x (x.off + 8) (be 8 (frac16 t)))
    else match d.ptpEntry x with
      | none => (d, bs)
      | some i =>
        if d.f F.TIME_PTP_DOM_MODE i == 0 then (d, bs)
        else if x.msgType < 4 && pre then (d.bump F.TIME_PTP_CNT_COUNT 1, bs)
        else
          let r := d.residence i x fr.ingress e fr.stamp8 d8
          if ptpOneStep x && d.split e then d.addCorrection bs x r
          else if ptpStored x then
            let p := pipeOf e
            let tab := SMap.get d.time.residence p []
            if tab.length < 256 then
              let en : ResEntry := ⟨e, i, x.msgType, x.seqId, x.srcPortId, r, d.time.ticks⟩
              ({ d with time := { d.time with residence := SMap.set d.time.residence p (tab ++ [en]) } }, bs)
            else (d.bump F.TIME_PTP_CNT_COUNT 2, bs)
          else if ptpOneStep x then (d.bump F.TIME_PTP_CNT_COUNT 1, bs)
          else match generalOf x.msgType with
            | none => (d, bs)
            | some t =>
              let p := pipeOf e
              let tab := SMap.get d.time.residence p []
              let hit := fun (en : ResEntry) => en.port == e && en.dom == i && en.msgType == t && en.seqId == x.seqId && en.srcPortId == x.srcPortId
              match tab.find? hit with
              | none => (d.bump F.TIME_PTP_CNT_COUNT 3, bs)
              | some en =>
                let d := { d with time := { d.time with residence := SMap.set d.time.residence p (tab.eraseP hit) } }
                d.addCorrection bs x en.residence

/-- An entry not matched within 1 s is freed: the oldest of the pipe's table (R141). -/
def Dev.residenceTimeout (d : Dev) (p : Nat) : Dev :=
  { d with time := { d.time with residence := SMap.set d.time.residence p ((SMap.get d.time.residence p []).drop 1) } }

/-! ### TX timestamp queues (R147 to R149) -/

def Dev.txqOf (d : Dev) (p : Nat) : List TxEntry := SMap.get d.time.txq p []

def Dev.setTxq (d : Dev) (p : Nat) (q : List TxEntry) : Dev :=
  ({ d with time := { d.time with txq := SMap.set d.time.txq p q } }).setF F.TIME_TXQ_STAT_LEVEL q.length p

/-- Write a capture into a pipe's queue, or discard it under R149. -/
def Dev.txCaptureIn (d : Dev) (p owner ident e stamp8 : Nat) (notSent : Bool) : Dev :=
  let q := d.txqOf p
  if 64 ≤ q.length || d.f F.TIME_TXQ_CTRL_PER_MASTER_MAX p ≤ (q.filter fun x => x.owner == owner).length then
    (d.bump F.TIME_TXQ_STAT_OVF p).setF F.TIME_TXQ_STAT_STICKY_OVF 1 p
  else d.setTxq p (q ++ [⟨owner, ident, e, stamp8, notSent, d.time.ticks⟩])

/-- A capture of a copy goes to the queue of its egress port's pipe (R147). -/
def Dev.txCapture (d : Dev) (owner ident e stamp8 : Nat) (notSent : Bool) : Dev := d.txCaptureIn (pipeOf e) owner ident e stamp8 notSent

/-- What the egress stages do to a copy (R248): the rewrite that SET_REWRITE selected, then the actions of their own lookups. -/
def Dev.egressActs (d : Dev) (c : Copy) : List EgressAct :=
  let base := pipeOf c.egress * 65536
  let found := ((c.frame.egress.find? fun x => x.port == c.egress && x.heat == c.heat).map (·.hits)).getD []
  (c.frame.rewrite.map fun i => SMap.get d.parse.rewrites (base + i) []).getD [] ++ found.flatMap fun i => SMap.get d.parse.egress (base + i) []

/-- The stamp requests of a copy, each of an owner with its identifier: the injection's and the egress stages' (R147). -/
def Dev.stampRequests (d : Dev) (c : Copy) : List (Nat × Nat) :=
  (c.frame.inj.bind fun j => j.stampId.map fun n => (j.master, n)).toList ++ (d.egressActs c).filterMap fun a => match a with
    | .stamp ident owner => some (owner, ident)
    | _ => none

/-- The COUNT actions of a copy's egress stages (assumption 56, DESIGN CHOICE). -/
def Dev.egressCounts (d : Dev) (c : Copy) : Dev :=
  d.each (d.egressActs c) fun d a => match a with
    | .count i => { d with parse := { d.parse with counts := SMap.upd d.parse.counts (pipeOf c.egress * 65536 + i) 0 (· + 1) } }
    | _ => d

/-- Capture a copy's transmit stamps at first bit (R147). -/
def Dev.txStamps (d : Dev) (c : Copy) (d8 : Nat) : Dev :=
  d.each (d.stampRequests c) fun d x => d.txCapture x.1 x.2 c.egress (d.txTrimmed c.egress d8) false

/-- A frame with a stamp request discarded before transmission (R149). The egress stages have not acted on it, so the
request is its injection's (assumption 124, DEDUCED); one discarded for no port stands in the queue of the pipe it was injected
into (assumption 168, DESIGN CHOICE). -/
def Dev.txNotSent (d : Dev) (fr : Frame) (e : Nat) : Dev :=
  match fr.inj with
  | some j => match j.stampId with
    | some n => d.txCaptureIn (if pipeOf e < 16 then pipeOf e else pipeOf fr.ingress) j.master n e 0 true
    | none => d
  | none => d

/-- A pop by a master of its oldest entry of a pipe (R148); the answer is the LO word. -/
def Dev.txqPop (d : Dev) (m p : Nat) : Dev × Nat :=
  let q := d.txqOf p
  match q.find? fun x => x.owner == m with
  | none => (d, 0)
  | some x =>
    let lo := 2 ^ 31 + b2n x.notSent * 2 ^ 30 + (x.stamp8 % 8) * 2 ^ 27 + x.port * 2 ^ 16 + x.ident % 2 ^ 16
    ((d.setTxq p (q.eraseP fun y => y.owner == m)).set .TIME_TXQ_POP_HI (word (short x.stamp8)) p 0 0 m, lo)

/-- The oldest entry of a pipe has waited 2,000 ms (R149). -/
def Dev.txqAged (d : Dev) (p : Nat) : Dev :=
  match d.txqOf p with
  | [] => d
  | _ :: rest => (d.setTxq p rest).bump F.TIME_TXQ_STAT_AGED p

/-- Discard the entries of a TX queue at a step (R127). -/
def Dev.txqStepFlush (d : Dev) (p : Nat) : Dev :=
  let n := (d.txqOf p).length
  if n == 0 then d else (d.setTxq p []).bump F.TIME_TXQ_STAT_STEP_FLUSH p 0 0 n

/-- Discard a master's stamps in every pipe (R419). -/
def Dev.txqDiscard (d : Dev) (m : Nat) : Dev :=
  d.each (upto 16) fun d p =>
    if (d.txqOf p).any fun x => x.owner == m then d.setTxq p ((d.txqOf p).filter fun x => x.owner != m) else d

/-! ### Pins (R150 to R153) -/

def Dev.pinT (d : Dev) (n : Nat) : Nat := d.regTime .TIME_PIN_T_NS .TIME_PIN_T_SEC_LO .TIME_PIN_T_SEC_HI n
def Dev.pinMode (d : Dev) (n : Nat) : Nat := d.f F.TIME_PIN_CFG_MODE n

/-- May an output run in the present time state (R150)? -/
def Dev.pinMayRun (d : Dev) (n : Nat) : Bool := d.timeState != 0 || d.on F.TIME_PIN_CFG_FREE_OUT n || d.pinMode n == 2

/-- A pulse of WIDTH ns at a pin, at the level POLARITY makes active (R150, R163). -/
def Dev.pinPulse (d : Dev) (n : Nat) (t8 : Int) : Dev :=
  d.emit (.pin n t8 (d.f F.TIME_PIN_WIDTH_WIDTH n * 8) (!d.on F.TIME_PIN_CFG_POLARITY n))

/-- Place the active edge of a pulse at device time T − TRIM, on the 0.125 ns at or after it (R151, assumption 125,
DESIGN CHOICE). -/
def Dev.pinEdge (d : Dev) (n t8 : Nat) : Dev := d.pinPulse n ((t8 : Int) - signed 16 (d.f F.TIME_PIN_CFG_TRIM n) / 8)

/-- ARM (R152): an arm at or later than T − 100 ns does not fire. -/
def Dev.pinArm (d : Dev) (n : Nat) : Dev :=
  if d.pinMode n == 2 || d.pinMode n == 3 then
    let t := d.pinT n
    if t ≤ d.now8 + 800 then ({ d with time := { d.time with pins := SMap.erase d.time.pins n } }).setF F.TIME_PIN_CFG_STATUS 3 n
    else ({ d with time := { d.time with pins := SMap.set d.time.pins n t, pinBase := SMap.set d.time.pinBase n t } }).setF F.TIME_PIN_CFG_STATUS 1 n
  else d

/-- An output fires with its active edge at `edge`, and its STATUS; PERIODIC_OUT goes on a period later. -/
def Dev.pinFireAt (d : Dev) (n status : Nat) (edge : Dev → Nat → Dev) : Dev :=
  match SMap.find? d.time.pins n with
  | none => d
  | some t =>
    let d := if d.pinMayRun n then edge d t else d
    let d := d.setF F.TIME_PIN_CFG_STATUS status n
    if d.pinMode n == 3 then
      { d with time := { d.time with pins := SMap.set d.time.pins n (t + d.f F.TIME_PIN_PERIOD_PERIOD n * 8) } }
    else { d with time := { d.time with pins := SMap.erase d.time.pins n } }

/-- PIN_FIRE: device time reaches the armed time of an output (R150): one pulse, and the next T of PERIODIC_OUT. -/
def Dev.pinFire (d : Dev) (n : Nat) : Dev := d.pinFireAt n 2 fun d t => d.pinEdge n t

/-- A whole second of device time at a PPS_OUT pin (R150). -/
def Dev.ppsEdge (d : Dev) (n : Nat) : Dev :=
  if d.pinMode n == 1 && d.pinMayRun n then d.pinEdge n ((d.now8 + 4000000000) / 8000000000 * 8000000000) else d

/-- Does a pin's EDGE select an edge (R163)? -/
def Dev.pinSelects (d : Dev) (n : Nat) (rising : Bool) : Bool :=
  let g := d.f F.TIME_PIN_CFG_EDGE n
  g == 3 || (g == 1 && rising) || (g == 2 && !rising)

def Dev.setCaps (d : Dev) (n : Nat) (l : List Nat) : Dev :=
  ({ d with time := { d.time with caps := SMap.set d.time.caps n l } }).setF F.TIME_PIN_CAP_STAT_LEVEL l.length n

/-- An edge at an input pin, stamped less TRIM on the 0.125 ns at or before it (R151, assumption 125, DESIGN CHOICE). -/
def Dev.pinCapture (d : Dev) (n : Nat) (rising : Bool) : Dev :=
  if (d.pinMode n == 4 || d.pinMode n == 5) && d.pinSelects n rising then
    let near := match SMap.find? d.time.lastEdge n with
      | some t => decide (d.el8 < t + 64)
      | none => false
    if near then d.bump F.TIME_PIN_CAP_STAT_MISS n else
    let d := { d with time := { d.time with lastEdge := SMap.set d.time.lastEdge n d.el8 } }
    let l := SMap.get d.time.caps n []
    if 16 ≤ l.length then d.bump F.TIME_PIN_CAP_STAT_OVF n
    else d.setCaps n (l ++ [trimmed d.now8 (-(signed 16 (d.f F.TIME_PIN_CFG_TRIM n)))])
  else d

/-- A read of CAP_NS: the oldest capture is removed and the rest of it latched (R163). -/
def Dev.capPop (d : Dev) (m n : Nat) : Dev × Nat :=
  match SMap.get d.time.caps n [] with
  | [] => (d, 0)
  | t :: rest =>
    let d := d.setCaps n rest
    let d := d.set .TIME_PIN_CAP_SEC_LO (word (secOf t)) n 0 0 m
    (d.set .TIME_PIN_CAP_SEC_HI (word (frac16 t * 2 ^ 16 + secOf t / 2 ^ 32 % 2 ^ 16)) n 0 0 m, 2 ^ 31 + nsOf t)

/-- Discard a pin's captures at a step (R127). -/
def Dev.capStepFlush (d : Dev) (n : Nat) : Dev :=
  let k := (SMap.get d.time.caps n []).length
  if k == 0 then d else (d.setCaps n []).bump F.TIME_PIN_CAP_STAT_STEP_FLUSH n 0 0 k

/-- A PERIODIC_OUT that has fired goes on at the next multiple of PERIOD after T in the new time, `now` (R152). -/
def Dev.pinGoOn (d : Dev) (n now : Nat) : Dev :=
  let per := d.f F.TIME_PIN_PERIOD_PERIOD n * 8
  if d.pinMode n == 3 && per != 0 then
    let t := SMap.get d.time.pinBase n 0
    let next := if now < t then t else t + ((now - t) / per + 1) * per
    { d with time := { d.time with pins := SMap.set d.time.pins n next } }
  else d

/-- An output at a step (R152): a forward step that passes an armed T fires it at the step tick. One that has fired goes on. -/
def Dev.pinStep (d : Dev) (n before after : Nat) : Dev :=
  match SMap.find? d.time.pins n with
  | none => d
  | some t =>
    if d.f F.TIME_PIN_CFG_STATUS n != 1 then d.pinGoOn n after
    else if before < t && t ≤ after then (d.pinFireAt n 4 fun d _ => d.pinPulse n after).pinGoOn n after
    else d

/-- The pins claimed by something other than their own mode (R153). -/
def Dev.pinClaims (d : Dev) (n : Nat) (imagePps : Option Nat) : Nat :=
  b2n (d.on F.TIME_CTRL_PPS_REF_EN && d.f F.TIME_CTRL_PPS_REF_PIN == n) + b2n (imagePps == some n)

/-! ### Alarms (R154) -/

def Dev.alarmT (d : Dev) (a : Nat) : Nat := d.regTime .TIME_ALARM_T_NS .TIME_ALARM_T_SEC_LO .TIME_ALARM_T_SEC_HI a

/-- A write of EN = 1 to an alarm with no owner, or by its owner, arms it at T. -/
def Dev.alarmArm (d : Dev) (m a : Nat) : Dev :=
  let d := if d.f F.TIME_ALARM_CFG_OWNER a == mNone then d.setF F.TIME_ALARM_CFG_OWNER m a else d
  let d := d.setF F.TIME_ALARM_CFG_EN 1 a
  let t := d.alarmT a
  if t ≤ d.now8 + 800 then ({ d with time := { d.time with alarms := SMap.erase d.time.alarms a } }).setF F.TIME_ALARM_CFG_PAST 1 a
  else ({ d with time := { d.time with alarms := SMap.set d.time.alarms a t } }).setF F.TIME_ALARM_CFG_PAST 0 a

/-- EN = 0 by the owner or H0 releases the alarm. -/
def Dev.alarmRelease (d : Dev) (a : Nat) : Dev :=
  (({ d with time := { d.time with alarms := SMap.erase d.time.alarms a } }).setF F.TIME_ALARM_CFG_EN 0 a).setF F.TIME_ALARM_CFG_OWNER mNone a

/-- Device time reaches T: the time interrupt of the owner. -/
def Dev.alarmFire (d : Dev) (a : Nat) : Dev :=
  match SMap.find? d.time.alarms a with
  | none => d
  | some _ =>
    (({ d with time := { d.time with alarms := SMap.erase d.time.alarms a } }).setF F.TIME_ALARM_CFG_FIRED 1 a).irq 1 [d.f F.TIME_ALARM_CFG_OWNER a]

/-- Alarms follow the rules of pins at a step (R152). -/
def Dev.alarmStep (d : Dev) (a before after : Nat) : Dev :=
  match SMap.find? d.time.alarms a with
  | none => d
  | some t => if before < t && t ≤ after then d.alarmFire a else d

end Sys2Proof.Machine
end

