-- ==== Sys2Proof/Machine/Tel.lean ====
section
/-! DEFINITION. The buffer pool manager (R95 to R99) and the telemetry engine (R501 to R517): trace ring, histograms,
programmable counters, snapshot and the descriptor window. -/

namespace Sys2Proof.Machine

/-! ### Pools -/

/-- Block size of a pool (R95). -/
def poolBlock (k : Nat) : Nat := [256, 128, 512, 2048, 10240, 4096].getD k 256

/-- Address of block `i` of pool `k`, P1 to P5 (R95). -/
def Dev.poolAddr (d : Dev) (k i : Nat) : Nat :=
  if k == 5 then i * 4096
  else controlBase + ((upto k).foldl (fun a j => if j == 0 then a else a + d.f F.BUF_POOL_CFG_BLOCKS j * poolBlock j) 0) + i * poolBlock k

def poolKey (k i : Nat) : Nat := k * 2 ^ 26 + i

/-- The number of a block in the holder table and free bitmap that describe it: P1 to P4 are counted through (R334). -/
def Dev.blockNo (d : Dev) (k i : Nat) : Nat :=
  if k == 5 then i else ((List.range (k - 1)).foldl (fun a j => a + d.f F.BUF_POOL_CFG_BLOCKS (j + 1)) 0) + i

/-- The address of a block's byte in its holder table (R334). -/
def Dev.holderAddr (d : Dev) (k i : Nat) : Nat := controlBase + (if k == 5 then 960 else 988) * 2 ^ 20 + d.blockNo k i

/-- The address of the free bitmap's byte with a block's bit (R334). -/
def Dev.bitmapAddr (d : Dev) (k i : Nat) : Nat := controlBase + (if k == 5 then 996 else 1000) * 2 ^ 20 + d.blockNo k i / 8

/-- The numbers of the blocks held in the table that describes pool `k`. -/
def Dev.heldNos (d : Dev) (k : Nat) : List Nat :=
  d.buf.holders.filterMap fun p =>
    let x := p.1 / 2 ^ 26
    if x != 0 && (x == 5) == (k == 5) then some (d.blockNo x (p.1 % 2 ^ 26)) else none

/-- A byte of a bitmap: the bits of eight numbers, the lowest in bit 0, set for those a list holds. -/
def bitmapByte (l : List Nat) (n : Nat) : Byte :=
  BitVec.ofNat 8 ((upto 8).foldl (fun a j => a + b2n (l.contains (n / 8 * 8 + j)) * 2 ^ j) 0)

/-- The pool manager writes a block's holder byte and its byte of the free bitmap, through port CTL (R334, R335). A bit of
the bitmap is 1 while its block is held (assumption 133, DESIGN CHOICE). The cells of P0 have neither. -/
def Dev.writeHolder (d : Dev) (k i : Nat) (b : Byte) : Dev :=
  if k == 0 then d else
  (d.hbmPost 5 (d.holderAddr k i) [b]).hbmPost 5 (d.bitmapAddr k i) [bitmapByte (d.heldNos k) (d.blockNo k i)]

/-- Record the holder of a block (R98): HELD and the requester. -/
def Dev.hold_ (d : Dev) (r k i : Nat) : Dev :=
  let d := { d with buf := { d.buf with holders := SMap.set d.buf.holders (poolKey k i) r } }
  let d := d.setF F.BUF_POOL_FREE_FREE (d.f F.BUF_POOL_FREE_FREE k - 1) k
  (d.setF F.BUF_HELD_HELD (d.f F.BUF_HELD_HELD r k + 1) r k).writeHolder k i (BitVec.ofNat 8 (128 + r))

/-- A block loses its holder. -/
def Dev.dropHolder (d : Dev) (k i : Nat) : Dev :=
  match SMap.find? d.buf.holders (poolKey k i) with
  | none => d
  | some r =>
    let d := { d with buf := { d.buf with holders := SMap.erase d.buf.holders (poolKey k i) } }
    let d := d.setF F.BUF_POOL_FREE_FREE (d.f F.BUF_POOL_FREE_FREE k + 1) k
    d.setF F.BUF_HELD_HELD (d.f F.BUF_HELD_HELD r k - 1) r k

/-- Return a block to its pool. -/
def Dev.unhold (d : Dev) (k i : Nat) : Dev :=
  if (SMap.find? d.buf.holders (poolKey k i)).isNone then d else (d.dropHolder k i).writeHolder k i 0

/-- Blocks of a pool that are held. -/
def Dev.poolHeld (d : Dev) (k : Nat) : List Nat :=
  d.buf.holders.filterMap fun x => if x.1 / 2 ^ 26 == k then some (x.1 % 2 ^ 26) else none

/-- Blocks of a pool that cannot be given: held ones and quarantined ones (R352). -/
def Dev.poolUsed (d : Dev) (k : Nat) : List Nat :=
  d.poolHeld k ++ d.buf.quarantine.filterMap fun x => if x / 2 ^ 26 == k then some (x % 2 ^ 26) else none

/-- Would one more block pass the requester's quota (R97)? -/
def Dev.quotaOk (d : Dev) (r k n : Nat) : Bool := decide (d.f F.BUF_HELD_HELD r k + n ≤ d.f F.BUF_QUOTA_LIMIT r k)

/-- Take one block of a pool for a requester: the block chosen at or after `pick` (assumption 21, DESIGN CHOICE), as the
free bitmap shows it. -/
def Dev.take (d : Dev) (r k pick : Nat) : Option (Nat × Dev) :=
  if !d.quotaOk r k 1 || d.f F.BUF_POOL_FREE_FREE k == 0 then none
  else match nextFree (d.poolUsed k) (d.f F.BUF_POOL_CFG_BLOCKS k) pick with
    | none => none
    | some i => some (i, (if k == 0 then d else d.askRead 5 (d.bitmapAddr k i) 1).hold_ r k i)

/-- The pool that serves a request for `s` bytes (R96). -/
def poolFor (s : Nat) : Option Nat :=
  if s == 0 then none else if s ≤ 128 then some 1 else if s ≤ 512 then some 2 else if s ≤ 2048 then some 3
  else if s ≤ 10240 then some 4 else none

/-- The requester a master is mapped to (R97). -/
def requesterOf (m : Nat) : Option Nat := if m == mH0 then some 22 else if isCp m then some (18 + (m - 0x10)) else none

/-- Start an allocation for a master (R96, R97, R99): its response word. An empty pool answers EMPTY to a requester past
its quota as well, an order no rule gives (assumption 135, DESIGN CHOICE). -/
def Dev.allocReq (d : Dev) (m size pick : Nat) : Dev :=
  match requesterOf m with
  | none => d
  | some r =>
    match poolFor size with
    | none => d.set .BUF_ALLOC_RESP (word (3 * 2 ^ 29)) 0 0 0 m
    | some k =>
      if d.f F.BUF_POOL_FREE_FREE k == 0 then d.set .BUF_ALLOC_RESP (word (1 * 2 ^ 29)) 0 0 0 m
      else if !d.quotaOk r k 1 then d.set .BUF_ALLOC_RESP (word (2 * 2 ^ 29)) 0 0 0 m
      else match d.take r k pick with
        | none => d.set .BUF_ALLOC_RESP (word (1 * 2 ^ 29)) 0 0 0 m
        | some (i, d) => d.set .BUF_ALLOC_RESP (word (k * 2 ^ 26 + i)) 0 0 0 m

/-- A free of a block by a requester, written at a BAR0 offset (R98). -/
def Dev.freeBlock (d : Dev) (m k i off : Nat) : Dev :=
  match requesterOf m with
  | none => d
  | some r =>
    if 1 ≤ k && k ≤ 4 && SMap.find? d.buf.holders (poolKey k i) == some r then (d.askRead 5 (d.holderAddr k i) 1).unhold k i
    else (d.bump F.BUF_FREE_ERR_COUNT).logViolation 4 m false true off 0

/-! ### HBM regions and the error log (R332, R353) -/

/-- The region of an address, as R353 numbers them: 0 spill, 1 unallocated, 2 journal, 3 large table, 4 P1 to P4, 5 fixed
structures. -/
def Dev.regionOf (d : Dev) (a : Nat) : Nat :=
  if a < d.f F.HBM_SPILL_CFG_SPILL_GIB * 2 ^ 30 then 0
  else if a < journalBase then 1 else if a < tableBase then 2 else if a < controlBase then 3
  else if a < controlBase + 960 * 2 ^ 20 then 4 else 5

/-- Log an HBM error (R353): kind, granule address and port. -/
def Dev.hbmError (d : Dev) (kind a port : Nat) : Dev :=
  let g := a / 256
  let w0 := kind * 2 ^ 29 + d.regionOf a * 2 ^ 26 + stackOf g * 2 ^ 23 + pcOf g * 2 ^ 18 + port * 2 ^ 15
  let r := pushLog d.hbm.errors 64 [word w0, word (a / 64), word (short d.now8), 0]
  if r.2 then { d with hbm := { d.hbm with errors := r.1 } } else d.bump F.HBM_ERR_STAT_OVF

/-- Words found uncorrectable, by address / 8: counted, and known from then on until they are written (R347, R358). -/
def Dev.badFound (d : Dev) (ws : List Nat) : Dev :=
  let d := d.each ws fun d w => d.bumpQ .HBM_STACK_CNT (stackOf (w / 32)) 1
  { d with hbm := { d.hbm with bad := (d.hbm.bad ++ ws).eraseDups } }

/-! ### Programmable counters (R514, R515) -/

/-- The counters of the chain that starts at `k` (R514). -/
def Dev.chainFrom (d : Dev) (k : Nat) : List Nat :=
  k :: ((upto 3).map (· + k + 1)).takeWhile fun j => decide (j < 1024) && d.on F.TEL_PC_CFG_CHAIN j

/-- The snapshot of R515. -/
def Dev.telSnap (d : Dev) : Dev :=
  let b := Reg.off .TEL_PC 0 0 0
  let s := Reg.off .TEL_PC_SNAP 0 0 0
  let live := d.regs.filter fun p => decide (b ≤ p.1) && decide (p.1 < b + 4096)
  let rest := d.regs.filter fun p => !(decide (s ≤ p.1) && decide (p.1 < s + 4096))
  let d := { d with regs := live.foldl (fun (r : SMap Word) (p : Nat × Word) => SMap.set r (p.1 - b + s) p.2) rest }
  let n := d.now8
  ((d.set .TEL_SNAP_TIME_NS (word (nsOf n))).set .TEL_SNAP_TIME_SEC_LO (word (secOf n))).set .TEL_SNAP_TIME_SEC_HI
    (word (d.time.frac / 2 ^ 32 * 2 ^ 16 + secOf n / 2 ^ 32 % 2 ^ 16))

/-- Zero a whole chain and its OVF (R515). -/
def Dev.pcClear (d : Dev) (k : Nat) : Dev :=
  d.each (d.chainFrom k) fun d j => (d.setF F.TEL_PC_COUNT 0 j).setF F.TEL_PC_CFG_OVF 0 j

/-- A read of a counter by a master (R514): reading a chain's first counter latches the rest for that master, and the
next read of a latched counter returns the latched value, once. -/
def Dev.pcRead (d : Dev) (m k : Nat) : Dev × Nat :=
  let key := fun (j : Nat) => m * 2 ^ 28 + Reg.off .TEL_PC j 0 0
  if d.on F.TEL_PC_CFG_CHAIN k then
    match SMap.find? d.ctl.shadow (key k) with
    | some v => ({ d with ctl := { d.ctl with shadow := SMap.erase d.ctl.shadow (key k) } }, v.toNat)
    | none => (d, d.f F.TEL_PC_COUNT k)
  else
    (((d.chainFrom k).drop 1).foldl (fun d j =>
      { d with ctl := { d.ctl with shadow := SMap.set d.ctl.shadow (key j) (word (d.f F.TEL_PC_COUNT j)) } }) d, d.f F.TEL_PC_COUNT k)

/-! ### The trace ring (R509 to R512) -/

def Dev.ringCapacity (d : Dev) : Nat := 64 * d.tel.blocks.length

/-- Address of the slot of a record position. -/
def Dev.ringAddr (d : Dev) (q : Nat) : Nat :=
  let slot := q % d.ringCapacity
  d.poolAddr 3 (d.tel.blocks.getD (slot / 64) 0) + (slot % 64) * 32

def Dev.ringLost (d : Dev) : Dev := d.setQ .TEL_RING_LOST (d.q .TEL_RING_LOST + 1)

/-- A record reaches the ring, and is written through port TRC, 6 (R511). -/
def Dev.ringStore (d : Dev) (rec : List Byte) : Dev :=
  let w := d.q .TEL_RING_WRPOS
  let full := w - d.q .TEL_RING_RELPOS == d.ringCapacity
  if full && d.on F.TEL_RING_CFG_MODE then d.ringLost
  else
    let d := if full then (d.setQ .TEL_RING_RELPOS (d.q .TEL_RING_RELPOS + 1)).setQ .TEL_RING_OVERWRITTEN (d.q .TEL_RING_OVERWRITTEN + 1) else d
    (d.hbmPost 6 (d.ringAddr w) rec).setQ .TEL_RING_WRPOS (w + 1)

/-- A record for the ring (R511): the queue before it passes one record in 5 ns, 4 ticks, and holds 4,096. -/
def Dev.ringWrite (d : Dev) (rec : List Byte) : Dev :=
  if !d.tldOn || d.ringCapacity == 0 then d
  else if 4096 ≤ d.tel.queue.length then d.ringLost
  else
    let start := max d.time.ticks d.tel.ringBusy
    let d := { d with tel := { d.tel with ringBusy := start + 4 } }
    if start ≤ d.time.ticks then d.ringStore rec
    else { d with tel := { d.tel with queue := d.tel.queue ++ [(start, rec)] } }

def Dev.ringOn (d : Dev) : Bool := d.on F.TEL_CTRL_TRACE_EN || d.on F.TEL_CTRL_TIMED_EN

/-- Is a record of the ring in flight: in its queue, or on its way to HBM? -/
def Dev.ringInFlight (d : Dev) : Bool := !d.tel.queue.isEmpty || !(d.waitingWrites 6).isEmpty || d.hbm.writes.any fun w => w.port == 6

/-- Both enables are 0 and no record is in flight: the ring's blocks are freed (R511). -/
def Dev.ringSettle (d : Dev) : Dev :=
  if d.ringOn || d.ringInFlight || d.tel.blocks.isEmpty then d else
  let d := d.each d.tel.blocks fun d i => d.unhold 3 i
  { d with tel := { d.tel with blocks := [] } }

/-- The records whose turn has come enter the ring. -/
def Dev.ringDrain (d : Dev) : Dev :=
  let due := d.tel.queue.takeWhile fun x => decide (x.1 ≤ d.time.ticks)
  if due.isEmpty then d else
  (due.foldl (fun (d : Dev) x => d.ringStore x.2) { d with tel := { d.tel with queue := d.tel.queue.drop due.length } }).ringSettle

/-- A record of R509. -/
def traceRecord (typ : Nat) (fr : Frame) (cls verdict reason ann dest a b c : Nat) : List Byte :=
  be 1 typ ++ be 1 (fr.heat * 16 + b2n fr.session.isSome * 8 + cls) ++ be 2 fr.ingress ++ be 4 (fr.trace.getD 0) ++
  be 4 (short fr.stamp8) ++ be 1 (fr.stamp8 % 8 * 32) ++ be 1 verdict ++ be 1 reason ++ be 1 ann ++ be 2 dest ++
  be 2 (fr.session.getD 0xFFFF) ++ be 4 a ++ be 4 b ++ be 4 c

/-- Destination of a copy in the forms of R200. -/
def Copy.destField (c : Copy) : Nat :=
  match c.kind with
  | .release _ => 0x4000 + c.egress
  | .finish g => 0x8000 + g
  | .noGroup x => x
  | _ => c.egress

/-- A whole ns count of a difference of times in 0.125 ns, rounded up, as a 32-bit field. -/
def offsetNs (t8 s8 : Nat) : Nat := upNs (t8 - s8) % 2 ^ 32

/-- The predicted offset p − S in whole ns; all ones where no prediction was made. -/
def Copy.predNs (c : Copy) : Nat :=
  match c.pred8 with
  | some p => offsetNs p c.frame.stamp8
  | none => 0xFFFFFFFF

def Copy.departNs (c : Copy) : Nat :=
  match c.depart8 with
  | some t => offsetNs t c.frame.stamp8
  | none => 0xFFFFFFFF

/-- Is the frame tagged, with its entry in the trace map (R506)? -/
def Dev.traced (d : Dev) (fr : Frame) : Bool := (fr.trace.map fun t => (SMap.find? d.tel.map t).isSome).getD false

/-- INGRESS record of a tagged frame (R507, R510). -/
def Dev.traceIngress (d : Dev) (fr : Frame) (cls verdict reason dest slow parseFail hits : Nat) : Dev :=
  if d.traced fr then
    d.ringWrite (traceRecord 1 fr cls verdict reason fr.ann dest (slow * 2 ^ 24 + parseFail * 2 ^ 16 + fr.len) hits (short d.now8))
  else d

/-- DECISION record of a copy of a tagged frame. -/
def Dev.traceDecision (d : Dev) (c : Copy) (verdict reason b : Nat) : Dev :=
  if d.traced c.frame then
    d.ringWrite (traceRecord 2 { c.frame with heat := c.heat } c.cls verdict reason c.ann c.destField c.predNs b (short d.now8))
  else d

/-- Account for the OUTCOME of one copy of a traced frame: the last frees its map entry (R506). -/
def Dev.mapDone (d : Dev) (t : Nat) : Dev :=
  match SMap.find? d.tel.map t with
  | none => d
  | some n => { d with tel := { d.tel with map := if n ≤ 1 then SMap.erase d.tel.map t else SMap.set d.tel.map t (n - 1) } }

/-- OUTCOME record of a copy of a tagged frame. -/
def Dev.traceOutcome (d : Dev) (c : Copy) (verdict reason ann : Nat) : Dev :=
  match c.frame.trace.filter fun _ => d.traced c.frame with
  | none => d
  | some t =>
    (d.ringWrite (traceRecord 3 { c.frame with heat := c.heat } c.served verdict reason ann c.destField c.departNs (c.useAtSel.getD 0xFFFFFFFF) (short d.now8))).mapDone t

/-- Does MODE of R508 select a timed copy with this outcome? -/
def Dev.timedSelected (d : Dev) (c : Copy) (verdict : Nat) : Bool :=
  let n := 4 * c.egress + c.cls
  let slackLow := match c.depart8 with
    | some t => decide ((c.bound : Int) * 8 - ((t : Int) - c.frame.stamp8) < d.f F.TEL_TIMED_CFG_THRESH_NS n * 8)
    | none => true
  let mode := d.f F.TEL_TIMED_CFG_MODE n
  mode == 1 || (mode == 2 && (verdict != 0 || slackLow)) || (mode == 3 && verdict != 0)

/-- TIMED record of a timed copy (R508). -/
def Dev.traceTimed (d : Dev) (c : Copy) (verdict reason ann : Nat) : Dev :=
  if c.cls < 4 && d.on F.TEL_CTRL_TIMED_EN && d.timedSelected c verdict then
    d.ringWrite (traceRecord 4 { c.frame with heat := c.heat } c.cls verdict reason ann c.destField c.departNs c.predNs c.bound)
  else d

/-- Does the ring hold a record at a master's read position? -/
def Dev.ringHolds (d : Dev) (m : Nat) : Bool :=
  let q := d.q .TEL_RING_RD_POS 0 0 0 m
  d.ringCapacity != 0 && decide (q < d.q .TEL_RING_WRPOS) && decide (d.q .TEL_RING_RELPOS ≤ q)

/-- Does that record hold an uncorrectable word, so that its read completes with an error (R349)? -/
def Dev.ringFails (d : Dev) (m : Nat) : Bool := d.ringHolds m && d.knownBad (d.ringAddr (d.q .TEL_RING_RD_POS 0 0 0 m)) 32

/-- A read of TEL_RING_RD_DATA word 0 by a master (R512). A read that ends with an error latches nothing, and RD_POS moves on
(assumption 134, DESIGN CHOICE). -/
def Dev.ringRead (d : Dev) (mem : Mem) (m : Nat) : Dev × Nat :=
  let q := d.q .TEL_RING_RD_POS 0 0 0 m
  if !d.ringHolds m then (d, 0)
  else if d.ringFails m then ((d.askRead 6 (d.ringAddr q) 32).setQ .TEL_RING_RD_POS (q + 1) 0 0 0 m, 0)
  else
    let bs := d.hbmRead mem 6 (d.ringAddr q) 32
    let d := d.askRead 6 (d.ringAddr q) 32
    let d := d.each (upto 7) fun d w => d.set .TEL_RING_RD_DATA (word (beAt bs (4 * w + 4) 4)) w 0 0 m
    (d.setQ .TEL_RING_RD_POS (q + 1) 0 0 0 m, beAt bs 0 4)

/-! ### Histograms (R503, R504) -/

/-- The bin of a departure x = D − S in 0.125 ns, for BASE_NS b and width w. -/
def histBin (x8 b w : Nat) : Nat := if x8 < b * 8 then 0 else min 15 ((x8 - b * 8) / (w * 8) + 1)

/-- Count a delivered timed copy. -/
def Dev.histCount (d : Dev) (c : Copy) : Dev :=
  match c.kind, c.depart8 with
  | .release _, _ => d
  | _, none => d
  | _, some t =>
    if c.cls < 4 && d.on F.TEL_CTRL_HIST_EN && d.tldOn then
      let n := 4 * c.egress + c.cls
      let x := t - c.frame.stamp8
      let k := histBin x (d.f F.TEL_HIST_CFG_BASE_NS n) (2 ^ d.f F.TEL_HIST_CFG_WIDTH n)
      (d.bumpQ .TEL_HIST n k).setF F.TEL_HIST_MAX_MAX_NS (max (d.f F.TEL_HIST_MAX_MAX_NS n) (upNs x)) n
    else d

/-- Zero the 16 bins and MAX of an index (R504). -/
def Dev.histClear (d : Dev) (n : Nat) : Dev :=
  (d.each (upto 16) fun d k => d.setQ .TEL_HIST 0 n k).setF F.TEL_HIST_MAX_MAX_NS 0 n

/-! ### Tagging (R505, R506) -/

/-- Tag an entering frame: a draw uniform below 2^24 falls below 2^(24 − SHIFT). The answer is the trace ID. -/
def Dev.tagFrame (d : Dev) (i draw : Nat) : Dev × Option Nat :=
  let shift := d.f F.TEL_PORT_TRACE_SHIFT i
  if !d.tldOn || !d.on F.TEL_CTRL_TRACE_EN || shift == 0 || 2 ^ (24 - shift) ≤ draw then (d, none)
  else if 16384 ≤ d.tel.map.length then (d.bump F.TEL_TAG_MISS_COUNT, none)
  else
    let p := pipeOf i
    let n := SMap.get d.tel.tagCount p 0
    let t := p * 2 ^ 28 + n % 2 ^ 28
    let d := { d with tel := { d.tel with tagCount := SMap.set d.tel.tagCount p (n + 1), map := SMap.set d.tel.map t 1 } }
    (d.pcEvent 8 i none (fun _ => true), some t)

/-- A tagged frame, which holds one place of its map entry, becomes `n` copies that owe an OUTCOME record. -/
def Dev.mapOwe (d : Dev) (fr : Frame) (n : Nat) : Dev :=
  match fr.trace.bind fun t => (SMap.find? d.tel.map t).map fun k => (t, k - 1 + n) with
  | none => d
  | some (t, k) => { d with tel := { d.tel with map := if k == 0 then SMap.erase d.tel.map t else SMap.set d.tel.map t k } }

/-- A frame that ends without an outcome gives its map entry back (R107). -/
def Dev.mapDrop (d : Dev) (fr : Frame) : Dev :=
  match fr.trace with
  | none => d
  | some t => { d with tel := { d.tel with map := SMap.erase d.tel.map t } }

/-- A frame enters, in the class it has at the end of stage 11 (R513). -/
def Dev.enters (d : Dev) (fr : Frame) (cls : Nat) : Dev := { d with buf := { d.buf with entering := SMap.set d.buf.entering fr.id cls } }

/-- A frame that R107 can no longer reject, since a first bit has left or no copy is left, counts as accepted (R513;
assumption 39, DEDUCED). -/
def Dev.accepted (d : Dev) (fr : Frame) : Dev :=
  match SMap.find? d.buf.entering fr.id with
  | none => d
  | some cls =>
    let d := { d with buf := { d.buf with entering := SMap.erase d.buf.entering fr.id } }
    (d.pcEvent 1 fr.ingress (some cls) (fun _ => true)).pcEvent 2 fr.ingress (some cls) (fun _ => true) fr.len

/-! ### The descriptor window (R80, R517) -/

/-- The 32 bytes of a copy's descriptor. -/
def Copy.descBytes (c : Copy) (next : Nat) : List Byte :=
  let flags := b2n c.owner.isSome * 128 + b2n c.ct * 64 + b2n c.badTail * 32 + b2n c.deferred * 16 + b2n c.frame.session.isSome * 8 + c.served
  let hold := if c.deferred then 0xFFFF else match c.kind with
    | .finish g => g
    | .release r => 0x4000 + r
    | _ => 0xFFFF
  be 3 next ++ be 1 flags ++ be 3 (c.cells.headD 0 * 16 + c.firstSector) ++ be 1 (c.heat * 16) ++ be 2 c.frame.len ++ be 2 c.frame.ingress ++
  be 4 (short c.frame.stamp8) ++ be 1 (c.frame.stamp8 % 8 * 32) ++ be 1 c.ann ++ be 3 (if c.cls < 4 then c.bound else 0) ++ be 1 0 ++
  be 2 (c.owner.getD 0) ++ be 2 (c.frame.session.getD 0) ++ be 2 hold ++ be 4 (short c.frame.edge8)

/-- Is a copy's descriptor linked to a queue, a discard list or a hold (R517)? -/
def Dev.linked (d : Dev) (c : Copy) : Bool :=
  match c.stage with
  | .mergeWait | .merge | .calendar | .queued | .discard => true
  | .lane | .line | .preempted | .due => (SMap.get d.buf.queues (queueOf c.egress c.served) []).contains c.id
  | .align | .hurdle | .decided | .spilled | .overflow => false

/-- The descriptor behind a copy's on its queue's list, or on the discard list that took that list over (R81); 0 where there is
none (assumption 162, DESIGN CHOICE). -/
def Dev.nextDesc (d : Dev) (c : Copy) : Nat :=
  let q := queueOf c.egress c.served
  let gone := (d.copiesOf (SMap.get d.buf.discards (pipeOf c.egress) [])).filterMap fun x =>
    if queueOf x.egress x.served == q then some x.id else none
  let l := if c.stage == .discard then gone else SMap.get d.buf.queues q []
  ((((l.dropWhile (· != c.id)).drop 1).head?.bind d.copy?).bind (·.desc)).getD 0

/-- A write of TEL_DESC_SEL latches a descriptor for the writer. What a descriptor holds that no copy has is a free value
(assumption 22, DESIGN CHOICE). -/
def Dev.descSel (d : Dev) (m idx : Nat) : Dev :=
  let hit := d.copyList.find? fun c => c.desc == some idx
  let r := match hit with
    | some c => (c.descBytes (d.nextDesc c), d)
    | none => let x := d.draw; (be 32 x.1, x.2)
  let bs := r.1
  let d := r.2.each (upto 8) fun d w => d.set .TEL_DESC_DATA (word (beAt bs (4 * w) 4)) w 0 0 m
  d.set .TEL_DESC_STAT (word (b2n ((hit.map d.linked).getD false) * 2 ^ 31)) 0 0 0 m

end Sys2Proof.Machine
end

