-- ==== Sys2Proof/Machine/Evidence.lean ====
section
/-! DEFINITION. The evidence engine (R194 to R224): session contexts, records and their numbering, the partition rings
and receipt streams, seals, the measurement and attestations. -/

namespace Sys2Proof.Machine

/-! ### Session contexts (R194 to R197) -/

def Dev.session (d : Dev) (n : Nat) : Session := SMap.get d.ev.sessions n Session.zero

def Dev.updSession (d : Dev) (n : Nat) (g : Session → Session) : Dev :=
  { d with ev := { d.ev with sessions := SMap.set d.ev.sessions n (g (d.session n)) } }

/-- The 256 bytes of a context (R194). -/
def Session.bytes (x : Session) : List Byte :=
  be 1 (b2n x.en * 128 + b2n x.meterEn * 64) ++ be 1 x.partition ++ be 2 x.excerpt ++ be 2 x.noticePort ++ be 2 x.meter ++
  List.replicate 24 0 ++ be 4 x.nextSeq ++ be 4 x.lastNotice ++ be 1 x.supSince ++ be 1 (b2n x.recent) ++ List.replicate 6 0 ++
  be 8 x.frames ++ be 8 x.delivered ++ be 8 x.deferred ++ be 8 x.refused ++ be 8 x.dropped ++ be 8 x.deferredLost ++
  be 8 x.sent ++ be 8 x.suppressed ++ be 8 x.unjournaled ++ be 8 x.late ++ be 8 x.lastRecord ++ be 6 x.lastSec ++ be 4 x.lastNs ++
  List.replicate 110 0

/-- Bytes 0 to 31 of a context take new values. -/
def Session.withConfig (x : Session) (bs : List Byte) : Session :=
  { x with en := bit (beAt bs 0 1) 7, meterEn := bit (beAt bs 0 1) 6, partition := beAt bs 1 1 % 64, excerpt := beAt bs 2 2,
           noticePort := beAt bs 4 2, meter := beAt bs 6 2 }

/-- CLEAR zeroes bytes 32 to 255. -/
def Session.cleared (x : Session) : Session :=
  { Session.zero with en := x.en, meterEn := x.meterEn, partition := x.partition, excerpt := x.excerpt, noticePort := x.noticePort, meter := x.meter }

/-- The session a master has selected. -/
def Dev.sessSel (d : Dev) (m : Nat) : Nat := d.f F.EV_SESS_SEL_SESSION 0 0 0 m

def Dev.sessStatus (d : Dev) (m st : Nat) : Dev := d.setF F.EV_SESS_CMD_STATUS st 0 0 0 m

/-- READ (R197). -/
def Dev.sessRead (d : Dev) (m : Nat) : Dev :=
  let bs := (d.session (d.sessSel m)).bytes
  (d.each (upto 64) fun d w => d.set .EV_SESS_DATA (word (beAt bs (4 * w) 4)) w 0 0 m).sessStatus m 0

/-- The 32 bytes a WRITE by a master would copy. -/
def Dev.sessStaged (d : Dev) (m : Nat) : List Byte := (upto 8).flatMap fun w => be 4 (d.get .EV_SESS_DATA w 0 0 m).toNat

/-- WRITE (R197). -/
def Dev.sessWrite (d : Dev) (m : Nat) : Dev :=
  let n := d.sessSel m
  let x := d.session n
  let y := x.withConfig (d.sessStaged m)
  if (x.en && y.partition != x.partition) || 16367 < y.excerpt then d.sessStatus m 1
  else (d.updSession n fun _ => y).sessStatus m 0

/-- CLEAR, accepted only while EN is 0 (R197). -/
def Dev.sessClear (d : Dev) (m : Nat) : Dev :=
  let n := d.sessSel m
  if (d.session n).en then d.sessStatus m 1 else (d.updSession n Session.cleared).sessStatus m 0

/-! ### The journal (R205 to R210) -/

def Dev.evOn (d : Dev) : Bool := d.on F.EV_CTRL_EN

/-- Records a partition's ring holds (R205). -/
def Dev.jrnCapacity (d : Dev) (k : Nat) : Nat := d.f F.EV_PART_CFG_RING_MIB k * 16384

/-- Address of the ring of a partition. -/
def Dev.jrnBase (d : Dev) (k : Nat) : Nat :=
  journalBase + (328 + (upto k).foldl (fun a j => a + d.f F.EV_PART_CFG_RING_MIB j) 0) * 2 ^ 20

def Dev.jrnAddr (d : Dev) (k pos : Nat) : Nat := d.jrnBase k + pos % d.jrnCapacity k * 64

/-- Indices waiting in the close list. -/
def Dev.closeBacklog (d : Dev) : Nat := (d.ev.closeList.filter (·.slot.isSome)).length

/-- Room for `n` more records in a partition's ring (third condition of R208). -/
def Dev.ringRoom (d : Dev) (k n : Nat) : Bool :=
  d.f F.EV_PART_CFG_FULL_POLICY k == 1 ||
  decide (d.q .EV_PART_WRPOS k - d.q .EV_PART_RELPOS k + d.f F.EV_PART_STATUS_OPEN k + n ≤ d.jrnCapacity k)

/-- The JOURNAL_FULL check for a frame of partition `k` that would make `n` copies (R208). A ring of 0 MiB stops every
stamped frame of the partition (R230). -/
def Dev.journalFull (d : Dev) (k n : Nat) : Bool :=
  !d.evOn || decide (1048576 ≤ d.closeBacklog) || d.jrnCapacity k == 0 || !d.ringRoom k n

/-- STOPPED of a partition: the second or third condition refuses its frames. -/
def Dev.stopped (d : Dev) (k : Nat) : Bool :=
  decide (1048576 ≤ d.closeBacklog) || d.jrnCapacity k == 0 || !d.ringRoom k 1

def Dev.onInterval (d : Dev) (g : Interval → Interval) : Dev :=
  { d with ev := { d.ev with interval := d.ev.interval.map g } }

/-- A frame refused with JOURNAL_FULL (R209). -/
def Dev.unjournaled (d : Dev) (k session : Nat) : Dev :=
  let d := d.updSession session fun x => { x with unjournaled := x.unjournaled + 1 }
  let d := d.bumpQ .EV_PART_UNJOURNALED k
  d.onInterval fun i => { i with unj := SMap.upd i.unj k 0 (· + 1) }

def Dev.addOpen (d : Dev) (k n : Nat) : Dev := d.setF F.EV_PART_STATUS_OPEN (d.f F.EV_PART_STATUS_OPEN k + n) k
def Dev.subOpen (d : Dev) (k n : Nat) : Dev := d.setF F.EV_PART_STATUS_OPEN (d.f F.EV_PART_STATUS_OPEN k - n) k

/-- Every open record of the device, closed ones waiting for their number among them. -/
def Dev.openTotal (d : Dev) : Nat := (upto 64).foldl (fun a k => a + d.f F.EV_PART_STATUS_OPEN k) 0

/-- The payload excerpt of a frame (R199). -/
def Frame.excerpt (fr : Frame) : List Byte :=
  match fr.session with
  | some _ => slice (fr.bytes.take fr.len) fr.cfg.excerpt 16
  | none => List.replicate 16 0

/-- The stamp of a frame under R23. -/
def Frame.stamp (fr : Frame) : Nat := if fr.tagged then fr.edge8 else fr.stamp8

/-- Bytes 0 to 55 of a record (R199). -/
def Frame.recordBody (fr : Frame) (cls heat dest verdict reason ann : Nat) (depart : Option Nat) : List Byte :=
  let t := fr.stamp
  let dep := match depart with
    | some x => be 4 ((x - fr.stamp8) / 8) ++ be 2 ((x - fr.stamp8) % 8 * 0x2000)
    | none => List.replicate 6 0xFF
  be 2 1 ++ be 1 (if fr.tagged then 2 else 1) ++ be 1 fr.partition ++ be 4 (fr.session.getD 0) ++ be 4 fr.seq ++ be 6 (secOf t) ++
  be 4 (nsOf t) ++ be 2 (frac16 t) ++ be 2 fr.ingress ++ be 2 dest ++ be 1 verdict ++ be 1 reason ++ be 1 ann ++
  be 1 (cls * 32 + heat) ++ dep ++ be 2 fr.len ++ fr.excerpt

/-- Where the close list begins in the journal region (R205). -/
def closeListAt : Nat := 64 * 2 ^ 20

/-- EVX writes a copy's open-record entry (R206). No rule gives the entry's layout: its bytes are free values
(assumption 23, DESIGN CHOICE). -/
def Dev.openRecord (d : Dev) (desc : Nat) : Dev :=
  let r := d.draw
  r.2.hbmPost 1 (journalBase + 32 * desc) (be 32 r.1)

/-- EVX asks for the close-list slot and the open-record entry of the record it comes to (R206, assumption 128,
DEDUCED). -/
def Dev.askEntry (d : Dev) (x : Closed) : Dev :=
  match x.desc, x.slot with
  | some i, some s => (d.askRead 1 (journalBase + closeListAt + 4 * s) 4).askRead 1 (journalBase + 32 * i) 32
  | _, _ => d

/-- Close a record: the outcome is written into its open-record entry, and it joins the numbering stage, through the close
list when the copy had a descriptor (R205, R206). The answer is the number it will take, which the order of the stage fixes. -/
def Dev.closeRecord (d : Dev) (fr : Frame) (body : List Byte) (desc : Option Nat) : Dev × Nat :=
  let n := d.q .EV_REC_NUM + d.ev.closeList.length
  let slot := desc.map fun _ => d.ev.closed % 2097152
  let x : Closed := ⟨fr.id, body, fr.partition, fr.session.getD 0, desc, slot⟩
  let d := match desc, slot with
    | some i, some s =>
      let r := d.draw
      (r.2.hbmPost 1 (journalBase + 32 * i + 16) (be 16 r.1)).hbmPost 1 (journalBase + closeListAt + 4 * s) (be 4 i)
    | _, _ => d
  let front := d.ev.closeList.isEmpty
  let d := { d with ev := { d.ev with closeList := d.ev.closeList ++ [x], closed := d.ev.closed + b2n desc.isSome } }
  (if front then d.askEntry x else d, n)

def leafHash (rec : List Byte) : List Byte := sha256 (0 :: rec)

/-- A closed record lost: it is not written and takes no number (R349). EVX comes to the next one. -/
def Dev.closedLost (d : Dev) (x : Closed) : Dev :=
  let front := d.ev.closeList.head? == some x
  let rest := d.ev.closeList.erase x
  let d := { d with ev := { d.ev with closeList := rest } }
  let d := match rest with
    | y :: _ => if front then d.askEntry y else d
    | [] => d
  ((d.subOpen x.partition 1).setQ .HBM_JRN_LOST (d.q .HBM_JRN_LOST + 1)).onInterval fun i => { i with gap := true }

/-- Is a closed record's open-record entry or close-list slot known to hold an uncorrectable word? -/
def Dev.entryLost (d : Dev) (x : Closed) : Bool :=
  match x.desc, x.slot with
  | some i, some s => d.knownBad (journalBase + 32 * i) 32 || d.knownBad (journalBase + closeListAt + 4 * s) 4
  | _, _ => false

/-- Number the oldest closed record and write it to its ring (R201, R206, R210); one whose entry is bad is lost (R349). -/
def Dev.numberRecord (d : Dev) : Dev :=
  match d.ev.closeList with
  | [] => d
  | x :: rest =>
    if d.entryLost x then d.closedLost x else
    let k := x.partition
    let n := d.q .EV_REC_NUM
    let entry := x.body ++ be 8 n
    let d := { d with ev := { d.ev with closeList := rest } }
    let d := match rest with
      | y :: _ => d.askEntry y
      | [] => d
    let d := (d.setQ .EV_REC_NUM (n + 1)).subOpen k 1
    let d := d.updSession x.session fun s => { s with lastRecord := n }
    let d := d.onInterval fun i => { i with leaves := i.leaves ++ [(k, leafHash entry)] }
    let w := d.q .EV_PART_WRPOS k
    let cap := d.jrnCapacity k
    if cap == 0 then d else
    let r := d.q .EV_PART_RELPOS k
    let d := if r + cap ≤ w then
        let d := (d.setQ .EV_PART_RELPOS (r + 1) k).bumpQ .EV_PART_OVERWRITTEN k
        let d := d.onInterval fun i => { i with gap := true, ovw := SMap.upd i.ovw k 0 (· + 1) }
        let st := SMap.get d.ev.streams k Stream.zero
        let d := if d.on F.EV_STR_CFG_EN k then
            { d with ev := { d.ev with streams := SMap.set d.ev.streams k { st with gaps := st.gaps ++ [(r, 1)] } } } else d
        d.setQ .EV_STR_SENDPOS (max (d.q .EV_STR_SENDPOS k) (r + 1)) k
      else d
    let d := (d.hbmPost 1 (d.jrnAddr k w) entry k).setQ .EV_PART_WRPOS (w + 1) k
    if d.on F.EV_STR_CFG_EN k then d else d.setQ .EV_PART_RELPOS (w + 1) k

/-! ### Receipt streams (R211 to R213) -/

def Dev.stream (d : Dev) (k : Nat) : Stream := SMap.get d.ev.streams k Stream.zero

def Dev.updStream (d : Dev) (k : Nat) (g : Stream → Stream) : Dev :=
  { d with ev := { d.ev with streams := SMap.set d.ev.streams k (g (d.stream k)) } }

def Dev.devNum (d : Dev) : Nat := d.f F.IVL_DEVNUM_DEVNUM

/-! ### Seals (R214 to R219) -/

/-- One level of a tree: pairs are hashed and an odd last node is promoted (R216). -/
def treeLevel : List (List Byte) → List (List Byte)
  | a :: b :: rest => sha256 (1 :: (a ++ b)) :: treeLevel rest
  | l => l

/-- The root of a tree, with fuel the number of nodes. -/
def treeRoot (fuel : Nat) (l : List (List Byte)) : List Byte :=
  match fuel, l with
  | _, [] => List.replicate 32 0
  | 0, a :: _ => a
  | _ + 1, [a] => a
  | n + 1, l => treeRoot n (treeLevel l)

/-- The leaves of a partition in an interval. -/
def Interval.leavesOf (i : Interval) (k : Nat) : List (List Byte) :=
  i.leaves.filterMap fun x => if x.1 == k then some x.2 else none

/-- The partition root R(k); none without a record. -/
def Interval.rootOf (i : Interval) (k : Nat) : Option (List Byte) :=
  let l := i.leavesOf k
  if l.isEmpty then none else some (treeRoot l.length l)

def Interval.mask (i : Interval) : Nat := (upto 64).foldl (fun a k => if (i.leavesOf k).isEmpty then a else a + 2 ^ k) 0

def Interval.sealRoot (i : Interval) : List Byte :=
  let l := (upto 64).filterMap i.rootOf
  treeRoot l.length l

/-- The first whole multiple of the interval length after a time, in 0.125 ns (R214). -/
def nextBoundary (t8 us : Nat) : Nat := (t8 / (us * 8000) + 1) * (us * 8000)

def sumOf (m : SMap Nat) : Nat := m.foldl (fun a p => a + p.2) 0

/-- The 48-byte summary of a partition (R219). -/
def Interval.summary (i : Interval) (k : Nat) : List Byte :=
  (i.rootOf k).getD (List.replicate 32 0) ++ be 4 (i.leavesOf k).length ++ be 4 (SMap.get i.unj k 0) ++ be 4 (SMap.get i.ovw k 0) ++ be 4 0

/-- Bytes 0 to 191 of the seal of an interval that ends at `end8` (R217). -/
def Dev.sealHead (d : Dev) (i : Interval) (end8 : Nat) (epochEnd stepEnd : Bool) : List Byte :=
  let short := !(i.onBoundary && end8 % (i.us * 8000) == 0)
  let flags := b2n i.chainStart + b2n epochEnd * 2 + b2n short * 4 + b2n i.gap * 8 + b2n (sumOf i.unj != 0) * 16 +
    b2n i.measFirst * 32 + b2n i.heatChanged * 64
  let tstate := d.timeState + b2n i.holdover * 4 + b2n stepEnd * 8 + b2n i.errOver * 16
  be 2 1 ++ be 1 flags ++ be 1 tstate ++ be 4 d.devNum ++ be 8 (d.q .EV_SERIAL) ++ be 4 (d.f F.TIME_EPOCH_EPOCH) ++ be 8 d.ev.sealNum ++
  be 6 i.startSec ++ be 4 i.startNs ++ be 6 (secOf end8) ++ be 4 (nsOf end8) ++ be 8 i.firstRec ++ be 4 i.leaves.length ++
  be 4 (min (sumOf i.unj) 0xFFFFFFFF) ++ be 8 (sumOf i.ovw) ++ be 8 i.mask ++ i.sealRoot ++ d.ev.prevDigest ++ d.ev.measurement ++
  be 4 (max i.maxErr (d.f F.TIME_ERR_BOUND_BOUND)) ++ be 1 ((d.heat.live.getLast?.map (·.1)).getD 0) ++ be 3 0 ++ be 8 (i.seedHi * 2 ^ 32 + i.seedLo)

/-- Close the interval in progress at `end8`: its seal is built, chained, signed and published (R214 to R219). -/
def Dev.closeInterval (d : Dev) (end8 : Nat) (epochEnd stepEnd : Bool) : Dev :=
  match d.ev.interval with
  | none => d
  | some i =>
    let head := d.sealHead i end8 epochEnd stepEnd
    let sl := head ++ ecdsaSign d.boot.keyD head
    let slot := d.ev.sealed_ % 65536
    let d := d.hbmPost 1 (journalBase + 72 * 2 ^ 20 + slot * 4096) (sl ++ (upto 64).flatMap i.summary)
    let d := (d.setBytes .EV_SEAL_LAST 64 sl).setQ .EV_SEAL_NUM d.ev.sealNum
    let d := d.setQ .FIN_TIE_SEED (i.seedHi * 2 ^ 32 + i.seedLo)
    let due := (slot, d.ev.sealNum, d.f F.TIME_EPOCH_EPOCH)
    let d := d.each (upto 64) fun d k =>
      if d.on F.EV_STR_CFG_EN k then d.updStream k fun x => { x with sealsDue := x.sealsDue ++ [due] } else d
    { d with ev := { d.ev with interval := none, sealed_ := d.ev.sealed_ + 1, prevDigest := sha256 sl,
                               sealNum := d.ev.sealNum + 1, chainStart := false } }

/-- The interval length in force: a change waits for the next boundary (R214). -/
def Dev.intervalUs (d : Dev) : Nat :=
  match d.ev.interval with
  | some i => i.us
  | none => d.f F.EV_SEAL_CFG_INTERVAL_US

/-- Start an interval of `us` microseconds at `start8` with a seed drawn from the entropy source (R167, R214). -/
def Dev.startInterval (d : Dev) (start8 us seed : Nat) : Dev :=
  let lo := seed % 2 ^ 32
  let hi := seed / 2 ^ 32 % 2 ^ 32
  let i : Interval :=
    { startSec := secOf start8, startNs := nsOf start8, onBoundary := start8 % (us * 8000) == 0, us := us,
      firstRec := d.q .EV_REC_NUM, leaves := [], unj := [], ovw := [], gap := false, measFirst := d.ev.measFresh,
      heatChanged := false, holdover := d.timeState != 1, errOver := d.on F.TIME_STATUS_ERR_OVER,
      maxErr := d.f F.TIME_ERR_BOUND_BOUND, chainStart := d.ev.chainStart, seedLo := lo, seedHi := hi }
  let d := { d with ev := { d.ev with interval := some i, measFresh := false } }.setSeed lo hi
  d.setF F.EV_STATUS_STARTED 1

/-- SEAL_CLOSE: a boundary of R214 has been reached. While sealing drains after EN was cleared, no interval follows the
one in which the last open copy closed (R215). -/
def Dev.sealClose (d : Dev) (seed : Nat) : Dev :=
  match d.ev.interval with
  | none => d
  | some i =>
    let b := nextBoundary ((i.startSec * 1000000000 + i.startNs) * 8) i.us
    if d.now8 < b then d else
    let d := d.closeInterval b false false
    if d.evOn || d.openTotal != 0 then d.startInterval b (d.f F.EV_SEAL_CFG_INTERVAL_US) seed
    else { d with ev := { d.ev with draining := false } }

/-- EN set: an interval starts at that moment, once the device serves; one that still drains closes first (R215, R468). -/
def Dev.evEnable (d : Dev) (seed : Nat) : Dev :=
  let running := d.ev.interval.isSome && !d.ev.draining
  let d := d.setF F.EV_CTRL_EN 1
  if running || !d.serving then d else
  let us := d.intervalUs
  let d := d.closeInterval d.now8 false false
  { d with ev := { d.ev with draining := false } }.startInterval d.now8 us seed

/-- EN cleared: the interval in progress closes, and sealing goes on while copies are open (R215). -/
def Dev.evDisable (d : Dev) (seed : Nat) : Dev :=
  let d := d.setF F.EV_CTRL_EN 0
  if d.ev.interval.isNone || d.ev.draining then d else
  let us := d.intervalUs
  let d := d.closeInterval d.now8 false false
  if d.openTotal == 0 then d
  else { d with ev := { d.ev with draining := true } }.startInterval d.now8 us seed

/-! ### Measurement and attestation (R220, R223) -/

/-- A 192-bit patch word of a pipe; its index in the patch map is pipe × 1024 + word. -/
def Dev.patchWord (d : Dev) (p w : Nat) : Nat := SMap.get d.parse.patch (p * 1024 + w) 0

def Dev.patchDigest (d : Dev) (p : Nat) : List Byte := sha256 ((upto 1024).flatMap fun w => be 24 (d.patchWord p w))

/-- The firmware image in the running slot. -/
def Dev.runningSlot (d : Dev) : Option FwSlot :=
  if d.f F.ID_STATUS_CP_SLOT == 0xA then d.ctl.slotA else if d.f F.ID_STATUS_CP_SLOT == 0xB then d.ctl.slotB else none

/-- The measurement digest of the present parts (R220). -/
def Dev.measure (d : Dev) : List Byte :=
  sha256 (be 4 (d.get .ID_REVISION).toNat ++ be 4 (d.f F.PIPE_UCODE_ROM_RELEASE 0) ++
    ((d.runningSlot.map (·.digest)).getD (List.replicate 32 0)) ++ sha256 ((upto 16).flatMap d.patchDigest) ++ d.boot.imageDigest)

/-- A change of the measurement waits to take effect (R215, R220). -/
def Dev.remeasure (d : Dev) : Dev := { d with ev := { d.ev with measNext := some d.measure } }

/-- The change takes effect: the interval in progress closes and its successor is the first under the measurement. A
recomputation that finds the digest in force changes nothing. -/
def Dev.measurementChange (d : Dev) (seed : Nat) : Dev :=
  match d.ev.measNext with
  | none => d
  | some x =>
    if x == d.ev.measurement then { d with ev := { d.ev with measNext := none } } else
    let d' := d.closeInterval d.now8 false false
    let d' := { d' with ev := { d'.ev with measurement := x, measNext := none, measFresh := true } }.setBytes .EV_MEAS 8 x
    if d.ev.interval.isSome then d'.startInterval d'.now8 d.intervalUs seed else d'

/-- GO of an attestation; a GO while BUSY is a conflict the caller has refused (R223). -/
def Dev.attestGo (d : Dev) (m : Nat) : Dev :=
  { d with ev := { d.ev with attestBy := some m } }.setF F.EV_ATTEST_CTRL_BUSY 1

/-- The 96-byte attestation statement. -/
def Dev.attestStatement (d : Dev) : List Byte :=
  be 2 0xFFFF ++ be 2 0 ++ be 4 d.devNum ++ be 8 (d.q .EV_SERIAL) ++ d.bytesOf .EV_ATTEST_NONCE 8 ++ d.ev.measurement ++
  be 8 (d.q .EV_SEAL_NUM) ++ be 4 (d.f F.TIME_EPOCH_EPOCH) ++ be 4 0

def Dev.attestDone (d : Dev) : Dev :=
  match d.ev.attestBy with
  | none => d
  | some _ =>
    let d := d.setBytes .EV_ATTEST_SIG 16 (ecdsaSign d.boot.keyD d.attestStatement)
    { d with ev := { d.ev with attestBy := none } }.setF F.EV_ATTEST_CTRL_BUSY 0 |>.setF F.EV_ATTEST_CTRL_DONE 1

end Sys2Proof.Machine
end

