-- ==== Sys2Proof/Machine/Verdict.lean ====
section
/-! DEFINITION. Verdicts (R36 to R42): what follows when a copy's verdict is final, and the refusal notices of R63
to R65. -/

namespace Sys2Proof.Machine

/-! ### Reasons (R38) -/

def rHURDLE : Nat := 0x01
def rRSV : Nat := 0x02
def rLINK : Nat := 0x03
def rJOURNAL : Nat := 0x04
def rMETER : Nat := 0x05
def rLATE : Nat := 0x06
def rENV : Nat := 0x07
def rAGED : Nat := 0x08
def rNOSESS : Nat := 0x09
def rQUOTA : Nat := 0x0A
def rTAIL : Nat := 0x0B

/-- Annotation bits (R41). -/
def aLATE : Nat := 1
def aOVERDUE : Nat := 2
def aSTOMPED : Nat := 4
def aFSU : Nat := 8
def aHOLDOVER : Nat := 16
def aNOPREEMPT : Nat := 32

/-- Counter of R66 that a refusal reason counts in. -/
def refusedCounter (reason : Nat) : Nat :=
  if reason == rHURDLE then 3 else if reason == rRSV then 4 else if reason == rENV then 5 else if reason == rAGED then 6 else 7

/-- Is the copy served as a timed copy? -/
def Copy.timed (c : Copy) : Bool := decide (c.cls < 4) && !c.deferred

def Copy.stamped (c : Copy) : Bool := c.frame.session.isSome

def Copy.finishOf (c : Copy) : Option Nat :=
  match c.kind with
  | .finish g => if c.deferred then none else some g
  | _ => none

def Copy.releaseOf (c : Copy) : Option Nat :=
  match c.kind with
  | .release r => if c.deferred then none else some r
  | _ => none

/-- The release group whose REFUSED counter a refused copy counts in (R192, R552). -/
def Copy.refusedGroup (c : Copy) : Option Nat :=
  match c.kind with
  | .release r => some r
  | .noGroup x => if 0x9000 ≤ x then some (x % 256) else none
  | _ => none

def Copy.blocked (c : Copy) : Bool :=
  match c.kind with
  | .noGroup _ => true
  | _ => false

/-- Verdict of a copy that is discarded with a reason (R37, R38). -/
def Copy.discardVerdict (c : Copy) (reason : Nat) : Nat :=
  if c.deferred then 1 else if c.cls < 4 then 2
  else if c.stamped && (reason == rTAIL || reason == rMETER || reason == rJOURNAL) then 2 else 3

/-! ### Frame headers -/

/-- Offset of the EtherType behind at most two VLAN tags. -/
def etherOffset (bs : List Byte) : Nat :=
  let tag := fun t => t == 0x8100 || t == 0x88A8
  if tag (beAt bs 12 2) then if tag (beAt bs 16 2) then 20 else 16 else 12

/-- IP version of a frame: 4, 6 or 0. -/
def ipVersion (bs : List Byte) : Nat :=
  let t := beAt bs (etherOffset bs) 2
  if t == 0x0800 then 4 else if t == 0x86DD then 6 else 0

/-- Offset of the IP header. -/
def ipOffset (bs : List Byte) : Nat := etherOffset bs + 2

/-- Replace the two bytes of an IPv4 header at `o` and update its header checksum incrementally (RFC 1624). -/
def ipv4Patch (bs : List Byte) (o new : Nat) : List Byte :=
  let h := ipOffset bs
  let old := beAt bs o 2
  let acc := onesAdd (onesAdd (65535 - beAt bs (h + 10) 2) (65535 - old)) new
  patchAt (patchAt bs o (be 2 new)) (h + 10) (be 2 (65535 - acc))

/-- Write the six DSCP bits of an IPv4 or IPv6 frame; a non-IP frame is unchanged (R58, R314). -/
def setDscp (bs : List Byte) (dscp : Nat) : List Byte :=
  let h := ipOffset bs
  let w := beAt bs h 2
  if ipVersion bs == 4 then ipv4Patch bs h (w / 256 * 256 + dscp * 4 + w % 4)
  else if ipVersion bs == 6 then patchAt bs h (be 2 (w / 4096 * 4096 + dscp * 64 + w % 64))
  else bs

/-- The ECN field of an IP frame. -/
def ecnOf (bs : List Byte) : Option Nat :=
  let w := beAt bs (ipOffset bs) 2
  if ipVersion bs == 4 then some (w % 4) else if ipVersion bs == 6 then some (w / 16 % 4) else none

/-- Set the ECN field to CE (R321). -/
def setCe (bs : List Byte) : List Byte :=
  let h := ipOffset bs
  let w := beAt bs h 2
  if ipVersion bs == 4 then ipv4Patch bs h (w / 4 * 4 + 3)
  else if ipVersion bs == 6 then patchAt bs h (be 2 (w / 64 * 64 + 48 + w % 16))
  else bs

/-! ### Notices (R63 to R65) -/

/-- The frame of a notice (R63): one VLAN tag, the outer one, where the copy had any (assumption 114, DEDUCED). -/
def Dev.noticeFrame (d : Dev) (fr : Frame) (payload : List Byte) : Dev × List Byte :=
  let bs := fr.bytes
  let v := ipVersion bs
  let h := ipOffset bs
  let tag := if etherOffset bs == 12 then [] else slice bs 12 4
  let dst := if v == 4 then slice bs (h + 12) 4 else slice bs (h + 8) 16
  let src := if v == 4 then be 4 (d.get .ADM_NOTICE_SRC4 fr.partition).toNat
    else (upto 4).flatMap fun i => be 4 (d.get .ADM_NOTICE_SRC6 fr.partition i).toNat
  let port := if fr.cfg.noticePort == 0 then d.f F.ADM_NOTICE_DPORT_DPORT fr.partition else fr.cfg.noticePort
  let r := d.draw
  (r.2, udpFrame fr.ingress ⟨slice bs 6 6, tag, v, src, dst, d.f F.ADM_NOTICE_SPORT_SPORT, port, d.f F.ADM_NOTICE_CTRL_DSCP,
    d.f F.ADM_NOTICE_CTRL_TTL⟩ r.1 payload)

/-- A notice the limit, the queue or its addressing suppresses (R63, R65). -/
def Dev.suppressNotice (d : Dev) (n : Nat) : Dev :=
  d.updSession n fun s => { s with suppressed := s.suppressed + 1, supSince := min 255 (s.supSince + 1) }

def Dev.setNotices (d : Dev) (l : List Notice) : Dev :=
  { d with adm := { d.adm with notices := l } }.setF F.ADM_NOTICE_LEVEL_LEVEL l.length

/-- May the session send a notice now (R65)? -/
def Dev.mayNotify (d : Dev) (s : Session) : Bool := !s.recent || decide (1000 ≤ shortDiff (short d.now8) s.lastNotice)

/-- A refusal (1) or deferral (2) notice enters the queue or is suppressed (R64, R65). EN is tested here and when the notice is
ready to leave (assumption 159, DEDUCED). -/
def Dev.notify (d : Dev) (fr : Frame) (typ cls heat dest verdict reason ann bound pred recNum : Nat) (counters : List Nat) : Dev :=
  match fr.session with
  | none => d
  | some n =>
    let s := d.session n
    if !d.on F.ADM_NOTICE_CTRL_EN || ipVersion fr.bytes == 0 || !d.mayNotify s then d.suppressNotice n
    else if 4096 ≤ d.adm.notices.length then (d.suppressNotice n).setQ .ADM_NOTICE_QFULL (d.q .ADM_NOTICE_QFULL + 1)
    else
      let t := fr.stamp
      let payload := be 1 1 ++ be 1 typ ++ be 1 fr.partition ++ be 1 (heat * 16 + cls) ++ be 4 n ++ be 4 fr.seq ++ be 6 (secOf t) ++
        be 4 (nsOf t) ++ be 2 (frac16 t) ++ be 2 fr.ingress ++ be 2 dest ++ be 1 verdict ++ be 1 reason ++ be 1 ann ++ be 1 s.supSince ++
        be 4 bound ++ be 4 pred ++ fr.excerpt ++ be 8 recNum
      let r := d.noticeFrame fr payload
      let d := r.1.setNotices (r.1.adm.notices ++ [⟨fr.ingress, n, counters, r.2⟩])
      d.updSession n fun s => { s with recent := true, lastNotice := short d.now8, supSince := 0 }

/-- The background pass of R65. -/
def Dev.recentPass (d : Dev) : Dev :=
  let old := fun (s : Session) => decide (1000 ≤ shortDiff (short d.now8) s.lastNotice)
  { d with ev := { d.ev with sessions := d.ev.sessions.map fun p => (p.1, if old p.2 then { p.2 with recent := false } else p.2) } }

/-! ### The final verdict -/

/-- Count a DROPPED best-effort copy outside stamped sessions per port and class (R38, assumption 115, DEDUCED). -/
def Dev.countDropped (d : Dev) (c : Copy) : Dev :=
  if c.stamped || 1032 ≤ c.egress then d
  else { d with adm := { d.adm with dropped := SMap.upd d.adm.dropped (queueOf c.egress c.cls) 0 (· + 1) } }

/-- Count a copy's verdict per port and class (R38, R66). DEFERRED is counted at the decision. -/
def Dev.countVerdict (d : Dev) (c : Copy) (verdict reason : Nat) : Dev :=
  if c.cls < 4 && c.egress < 1032 then
    let n := 4 * c.egress + c.cls
    if verdict == 0 then d.bumpQ .ADM_CNT n 0
    else if verdict == 2 then d.bumpQ .ADM_CNT n (refusedCounter reason)
    else d
  else if verdict == 3 then d.countDropped c
  else d

/-- The counters of R66 a copy's notice counts in. -/
def Copy.noticeCounters (c : Copy) : List Nat := if c.cls < 4 && c.egress < 1032 then [4 * c.egress + c.cls] else []

/-- Count a copy's verdict in its session context (R194); `lost` tells of a DEFERRED copy that was discarded (R37). -/
def Dev.countSession (d : Dev) (c : Copy) (verdict ann : Nat) (lost : Bool) : Dev :=
  match c.frame.session with
  | none => d
  | some n => d.updSession n fun s =>
    { s with delivered := s.delivered + b2n (verdict == 0), refused := s.refused + b2n (verdict == 2 && c.record),
             dropped := s.dropped + b2n (verdict == 3), late := s.late + b2n (bit ann 0),
             deferredLost := s.deferredLost + b2n lost }

/-- Close a copy's record and, when it is refused, notify its sender (R42, R206). The record of a DEFERRED copy that was
discarded shows no departure (R37), that of a stomped one the departure of its head (R199; assumption 157, DEDUCED). -/
def Dev.closeCopy (d : Dev) (c : Copy) (verdict reason ann : Nat) (lost : Bool) : Dev :=
  let r := if c.record then
      d.closeRecord c.frame (c.frame.recordBody c.cls c.frame.heat c.destField verdict reason ann (if lost && !bit ann 2 then none else c.depart8)) c.desc
    else (d, 0xFFFFFFFFFFFFFFFF)
  if verdict == 2 && c.stamped then
    r.1.notify c.frame 1 c.cls c.frame.heat c.destField verdict reason ann (if c.cls < 4 then c.bound else 0) c.predNs r.2
      c.noticeCounters
  else r.1

/-- Everything that follows from a final verdict except the copy's place in the buffer (R36 to R42, R501 to R513). -/
def Dev.outcome (d : Dev) (c : Copy) (verdict reason extra : Nat) : Dev :=
  match c.kind with
  | .observation => d
  | _ =>
    let ann := c.ann ||| extra
    let lost := verdict == 1 && reason != 0
    let reason := if verdict == 0 then 0 else if verdict == 1 then c.reason else reason
    let d := d.countVerdict c verdict reason
    let d := d.countSession c verdict ann lost
    let d := d.closeCopy c verdict reason ann lost
    let d := match c.refusedGroup with
      | some r => if verdict == 2 then d.bumpQ .STG_CNT r 2 else d
      | none => d
    let d := if c.depart8.isNone then d.txNotSent c.frame c.egress else d
    let d := if verdict == 0 then d.histCount c else d
    let d := d.pcEvent 5 c.egress (some c.cls) (fun v => v == verdict)
    let d := d.pcEvent 6 c.egress (some c.cls) (fun v => v == reason && reason != 0)
    let d := d.pcEvent 7 c.egress (some c.cls) (fun v => ann.testBit v)
    (d.traceOutcome c verdict reason ann).traceTimed c verdict reason ann

/-! ### Step marks (R127) -/

/-- The changes of device time between a best-effort copy's enqueue and now. -/
def Dev.markDelta (d : Dev) (c : Copy) : Int :=
  (SMap.get d.time.marks (queueOf c.egress c.served) []).foldl (fun a m => if m.copies.contains c.id then a + m.delta8 else a) 0

/-- Device time as the ages and departures of a copy see it. -/
def Dev.timeFor (d : Dev) (c : Copy) (t8 : Nat) : Nat := ((t8 : Int) - d.markDelta c).toNat

end Sys2Proof.Machine
end

