-- ==== Sys2Proof/Machine/Buffer.lean ====
section
/-! DEFINITION. The central buffer (R75 to R109): cells and packing, write steering, accounting, queues, chains, spill
and priority flow control's usage. -/

namespace Sys2Proof.Machine

/-! ### Geometry and configuration -/

def Dev.txTag (d : Dev) (e : Nat) : Bool := d.tagLen e != 0

/-- Quadrants whose BQ domain is not ON (R90). -/
def Dev.offQuads (d : Dev) : Nat := ((upto 4).filter fun i => d.domain (88 + i) != 0).length

/-- The sum of the queue minimums. -/
def Dev.sumMin (d : Dev) : Int :=
  let b := Reg.off .BUF_QCFG 0 0 0
  d.regs.foldl (fun (a : Int) (p : Nat × Word) =>
    if b ≤ p.1 && p.1 < b + 4 * 8256 then a + (bits p.2.toNat 19 0 : Nat) - 64 else a) (8256 * 64)

/-- The shared pool S (R90). -/
def Dev.sharedSize (d : Dev) : Int :=
  16777216 - 16 * d.f F.BUF_TIMED_RESERVE_CELLS - d.sumMin - d.f F.BUF_HEADROOM_SECTORS - 4194304 * d.offQuads

/-- After a change of configuration, F moves with S. -/
def Dev.sharedMoved (d old : Dev) : Dev :=
  let x := d.sharedSize - old.sharedSize
  { d with buf := { d.buf with free := d.buf.free + x, freeStart := d.buf.freeStart + x } }

/-- Cells in use, as pointers. -/
def Dev.usedCells (d : Dev) : List Nat := d.buf.links.map (·.1)

/-- QEMPTY: a quadrant holds no allocated cell (R112). -/
def Dev.quadEmpty (d : Dev) (i : Nat) : Bool := d.usedCells.all fun p => p / 262144 != i

/-! ### Usage and PFC (R318) -/

def usageKey (i k : Nat) : Nat := 4 * i + k

def Dev.usageOf (d : Dev) (i k : Nat) : Nat := SMap.get d.egr.usage (usageKey i k) 0

/-- Is XOFF in force for ingress port i and best-effort class k? -/
def Dev.xoff (d : Dev) (i k : Nat) : Bool := decide (i < 1024) && bit (d.f F.PIPE_PFC_STATE_XOFF (pipeOf i) (localOf i)) k

def Dev.setXoff (d : Dev) (i k : Nat) (b : Bool) : Dev :=
  let x := d.f F.PIPE_PFC_STATE_XOFF (pipeOf i) (localOf i)
  let y := if b then x ||| 2 ^ k else x &&& (15 - 2 ^ k)
  d.setF F.PIPE_PFC_STATE_XOFF y (pipeOf i) (localOf i)

/-- Queue a PFC entry of port i: the entries of one cell time share a frame, in which a priority's last entry stands
(R318). -/
def Dev.queuePfc (d : Dev) (i k time : Nat) : Dev :=
  let pr := bits (d.f F.PIPE_PFC_TXMAP_TX_PRIO (pipeOf i) (localOf i)) (3 * k + 2) (3 * k)
  let l := SMap.get d.egr.pfcPending i []
  let here := (l.filter fun x => x.1 == d.cell).flatMap fun x => x.2.filter fun y => y.1 != pr
  { d with egr := { d.egr with pfcPending := SMap.set d.egr.pfcPending i ((l.filter fun x => x.1 != d.cell) ++ [(d.cell, here ++ [(pr, time)])]) } }

def Dev.pfcQuanta (d : Dev) (i : Nat) : Nat := d.f F.PIPE_PFC_TIMING_QUANTA (pipeOf i) (localOf i)
def Dev.pfcTx (d : Dev) (i : Nat) : Bool := decide (i < 1024) && d.on F.PIPE_PFC_CFG_EN_TX (pipeOf i) (localOf i)

/-- XOFF when usage reaches its threshold, XON when it falls to its own (R318); the reset threshold never triggers
(R324). A port whose link is down has no XOFF, and sends none (R320). -/
def Dev.pfcCheck (d : Dev) (i k : Nat) : Dev :=
  if !d.pfcTx i || !d.linkUp i then d else
  let u := d.usageOf i k
  let j := 4 * localOf i + k
  let thr := d.f F.PIPE_PFC_THR_XOFF_SECTORS (pipeOf i) j
  if !d.xoff i k && thr != 0xFFFFF && thr ≤ u then (d.setXoff i k true).queuePfc i k (d.pfcQuanta i)
  else if d.xoff i k && u ≤ d.f F.PIPE_PFC_THR_XON_SECTORS (pipeOf i) j then (d.setXoff i k false).queuePfc i k 0
  else d

/-- Add to (or take from) the usage of a copy's ingress port and class; only best-effort, not DEFERRED, copies count. -/
def Dev.usageMove (d : Dev) (c : Copy) (n : Int) : Dev :=
  if c.cls < 4 || n == 0 then d else
  let k := c.cls - 4
  let u := ((d.usageOf c.frame.ingress k : Int) + n).toNat
  ({ d with egr := { d.egr with usage := SMap.put d.egr.usage (usageKey c.frame.ingress k) u 0 } }).pfcCheck c.frame.ingress k

/-! ### Cells (R82 to R86) -/

/-- Does a copy still need a cell? -/
def Copy.needs (c : Copy) (p : Nat) : Bool := c.cells.contains p && !c.cellsRead.contains p

/-- Cells with TIMED = 1 that some copy has still to read. -/
def Dev.unreadTimed (d : Dev) : List Nat :=
  let l := d.copyList
  (d.buf.links.filter fun p => p.2.timed && l.any fun c => c.needs p.1).map (·.1)

/-- Claims still to be read in this cell time from a bank (R88). -/
def Dev.claimsOn (d : Dev) (b : Nat) : Nat :=
  if d.buf.claimsFor ≤ d.cell then (d.buf.claims.filter fun c => c.bank == b).length else 0

/-- Has a bank a cycle of this cell time that no read claim and no other write takes (R85, R88)? -/
def Dev.bankFree (d : Dev) (b : Nat) : Bool := decide (SMap.get d.buf.bankBusy b 0 + d.claimsOn b < 4)

def Dev.takeBank (d : Dev) (b : Nat) : Dev := { d with buf := { d.buf with bankBusy := SMap.upd d.buf.bankBusy b 0 (· + 1) } }

/-- Choose the bank of the next cell of a stream (R85). -/
def Dev.steer (d : Dev) (timed : Bool) (stream : Nat) : Option Nat :=
  let used := d.usedCells.map (· / 4096)
  let load := if timed then d.unreadTimed.map (· / 4096) else used
  let recent := SMap.get d.buf.recentBanks stream []
  (upto 256).foldl (fun (best : Option Nat) b =>
    if d.domain (88 + b / 64) != 0 || recent.contains b || !d.bankFree b || 4096 ≤ used.count b then best else
    let score := fun x => load.count x * 256 + (x + 256 - d.buf.steerPtr) % 256
    match best with
    | none => some b
    | some a => if score b < score a then some b else best) none

/-- Bits 30:0 of a link word (R77). -/
def LinkWord.body (w : LinkWord) : Nat := b2n w.mc * 2 ^ 30 + b2n w.timed * 2 ^ 29 + w.frames * 2 ^ 24 + b2n w.last * 2 ^ 20 + w.next

/-- A link word with its even parity. -/
def LinkWord.sealed (w : LinkWord) : LinkWord := { w with parity := (upto 31).foldl (fun a i => a != w.body.testBit i) false }

/-- Write a cell's link word. -/
def Dev.setLink (d : Dev) (p : Nat) (w : LinkWord) : Dev := { d with buf := { d.buf with links := SMap.set d.buf.links p w.sealed } }

/-- Change a cell's link word. -/
def Dev.updLink (d : Dev) (p : Nat) (g : LinkWord → LinkWord) : Dev := d.setLink p (g (SMap.get d.buf.links p LinkWord.zero))

/-- Allocate a cell for a requester on a stream, in the bank that steering chooses; the cell within the bank is the
free one at or after `pick`. The bank cycle of its write is taken here (assumption 117, DEDUCED). -/
def Dev.newCell (d : Dev) (r stream pick : Nat) (timed mc : Bool) : Option (Nat × Dev) :=
  if !d.quotaOk r 0 1 then none else
  match d.steer timed stream with
  | none => none
  | some b =>
    let used := d.usedCells.filterMap fun p => if p / 4096 == b then some (p % 4096) else none
    match nextFree used 4096 pick with
    | none => none
    | some i =>
      let p := b * 4096 + i
      let d := ((d.hold_ r 0 p).setLink p ⟨false, mc, false, 0, true, 0⟩).takeBank b
      let banks := (b :: SMap.get d.buf.recentBanks stream []).take 15
      some (p, { d with buf := { d.buf with recentBanks := SMap.set d.buf.recentBanks stream banks } })

/-- A frame gains bytes in a cell: FRAMES counts it and TIMED is set by a timed frame (R77). -/
def Dev.markCell (d : Dev) (p : Nat) (timed : Bool) : Dev :=
  d.updLink p fun w => { w with frames := min 16 (w.frames + 1), timed := w.timed || timed }

/-- Link a cell to its successor. -/
def Dev.linkCell (d : Dev) (p q : Nat) : Dev :=
  d.updLink p fun w => { w with last := false, next := q }

/-- Cells written for a frame, by the partition of its ingress port (R494). -/
def Dev.weighCells (d : Dev) (fr : Frame) (cells : List Nat) : Dev :=
  d.each cells fun d p => d.weigh (88 + p / 262144) 0 (d.portPartition fr.ingress) 1

/-- A full cell is written to its bank. -/
def Dev.cellWritten (d : Dev) (p : Nat) : Dev := d.pcEvent 9 (p / 262144) none (fun _ => true)

/-- A new cell becomes the open tail of a queue's stream, linked behind the newest cell that the stream still holds (R77, R82). -/
def Dev.openTail (d : Dev) (q p : Nat) : Dev :=
  let d := match SMap.find? d.buf.streams q with
    | some x => d.linkCell x p
    | none => d
  { d with buf := { d.buf with tails := SMap.set d.buf.tails q ⟨p, 0⟩, streams := SMap.set d.buf.streams q p } }

/-- A tail cell is full: it is written, and a new tail is allocated and linked as its successor (R82). -/
def Dev.tailFull (d : Dev) (q r pick ptr : Nat) (timed : Bool) : Option Dev :=
  ((d.cellWritten ptr).newCell r q pick timed false).map fun x => x.2.openTail q x.1

/-- Place `n` sectors of a frame in a queue's stream of cells from its open tail onwards (R82). The answer is the
device, the cells, and the first sector. A frame that just fills a cell when no new tail can be had leaves its queue
without one (assumption 116, DEDUCED). -/
def Dev.placeIn (fuel : Nat) (d : Dev) (q r n pick : Nat) (timed : Bool) (cells : List Nat) (first : Option Nat) :
    Option (Dev × List Nat × Nat) :=
  if n == 0 then some (d, cells, first.getD 0) else
  match fuel with
  | 0 => none
  | fuel + 1 =>
    match SMap.find? d.buf.tails q with
    | some t =>
      let k := min n (16 - t.sectors)
      let d := d.markCell t.ptr timed
      let full := t.sectors + k == 16
      let tails := SMap.set d.buf.tails q ⟨t.ptr, t.sectors + k⟩
      let d := { d with buf := { d.buf with tails := tails } }
      let first := some (first.getD t.sectors)
      if full then
        match d.tailFull q r pick t.ptr timed with
        | none =>
          if n == k then some ({ d.cellWritten t.ptr with buf := { d.buf with tails := SMap.erase d.buf.tails q } }, cells ++ [t.ptr], first.getD 0)
          else none
        | some d => Dev.placeIn fuel d q r (n - k) pick timed (cells ++ [t.ptr]) first
      else some (d, cells ++ [t.ptr], first.getD 0)
    | none =>
      match d.newCell r q pick timed false with
      | none => none
      | some (p, d) => Dev.placeIn fuel (d.openTail q p) q r n pick timed cells first

/-- A chain of `k` fresh cells of an ingress writer (R84). -/
def Dev.chainCells (k : Nat) (d : Dev) (r stream pick : Nat) (timed : Bool) (prev : Option Nat) : Option (Dev × List Nat) :=
  match k with
  | 0 => some (d, [])
  | k + 1 =>
    match d.newCell r stream pick timed true with
    | none => none
    | some (p, d) =>
      let d := (d.markCell p timed).cellWritten p
      let d := match prev with
        | some x => d.linkCell x p
        | none => d
      match Dev.chainCells k d r stream pick timed (some p) with
      | none => none
      | some (d, l) => some (d, p :: l)

/-- Free a cell: the cell before it in its stream takes its successor, or becomes the last (R77; assumption 165, DEDUCED). -/
def Dev.freeCell (d : Dev) (p : Nat) : Dev :=
  let d := d.unhold 0 p
  let w := SMap.get d.buf.links p LinkWord.zero
  let before := (d.buf.links.filter fun x => !x.2.last && x.2.next == p).map (·.1)
  let d := d.each before fun d x => d.updLink x fun y => { y with last := w.last, next := w.next }
  let ends := d.buf.streams.filterMap fun x => if x.2 == p then before.head?.map fun y => (x.1, y) else some x
  { d with buf := { d.buf with links := SMap.erase d.buf.links p, streams := ends, tails := d.buf.tails.filter fun t => t.2.ptr != p } }

/-- A queue's open tail in which no frame is left is freed without being written (R83). -/
def Dev.closeTail (d : Dev) (q : Nat) : Dev :=
  match SMap.find? d.buf.tails q with
  | none => d
  | some t =>
    if t.sectors == 0 && !(d.copyList.any fun c => queueOf c.egress c.served == q && c.owner.isNone && !c.cells.isEmpty) then d.freeCell t.ptr
    else d

/-! ### Accounting (R90 to R94) -/

def Dev.used (d : Dev) (q : Nat) : Nat := d.f F.BUF_QUSE_USED q
def Dev.sharedOf (d : Dev) (q : Nat) : Nat := SMap.get d.buf.shared q 0

/-- The α test of step 3: shared(q) + n' ≤ α(q) × F (R91, R92). -/
def Dev.alphaOk (d : Dev) (q n : Nat) : Bool :=
  let code := d.f F.BUF_QCFG_ALPHA q
  if code == 0 then d.sharedOf q + n == 0
  else decide (((d.sharedOf q + n : Nat) : Int) * 256 ≤ 2 ^ code * d.buf.free)

/-- A charge: minimum, timed reserve, shared pool, headroom. -/
structure Charge where
  min_ : Nat
  res : Nat
  shared : Nat
  head : Nat
  deriving DecidableEq, Repr

/-- Steps 1 to 3 of R91, with the headroom of R319; none where the copy must spill or fails. -/
def Dev.chargeFor (d : Dev) (c : Copy) (q n : Nat) (reduces : Bool) : Option Charge :=
  let u := d.used q
  let mn := d.f F.BUF_QCFG_MIN q
  let above := if mn ≤ u then n else u + n - mn
  let under := n - above
  if u + n ≤ mn then some ⟨n, 0, 0, 0⟩
  else if c.timed && decide (d.buf.reserveUsed + above ≤ 16 * d.f F.BUF_TIMED_RESERVE_CELLS) then some ⟨under, above, 0, 0⟩
  else if d.alphaOk q above && (!reduces || decide ((above : Int) ≤ d.buf.free)) then some ⟨under, 0, above, 0⟩
  else if 4 ≤ c.cls && d.xoff c.frame.ingress (c.cls - 4) && d.buf.headUsed + n ≤ d.f F.BUF_HEADROOM_SECTORS then some ⟨0, 0, 0, n⟩
  else none

/-- Take a charge on a queue; `reduces` when it reduces F (R93). -/
def Dev.takeCharge (d : Dev) (q : Nat) (x : Charge) (reduces : Bool) : Dev :=
  let d := d.setF F.BUF_QUSE_USED (d.used q + x.min_ + x.res + x.shared + x.head) q
  { d with buf := { d.buf with reserveUsed := d.buf.reserveUsed + x.res, headUsed := d.buf.headUsed + x.head,
                               shared := SMap.put d.buf.shared q (d.sharedOf q + x.shared) 0,
                               free := if reduces then d.buf.free - x.shared else d.buf.free } }

/-- Count a copy charged to the headroom at its ingress port (R319, R329). -/
def Dev.countHead (d : Dev) (c : Copy) (x : Charge) : Dev :=
  if x.head == 0 then d else d.bumpQ .PIPE_PFC_CNT (pipeOf c.frame.ingress) (localOf c.frame.ingress) 6

/-- Return a copy's charge; what it took from F joins it at the end of the cell time (R94). -/
def Dev.returnCharge (d : Dev) (c : Copy) : Dev :=
  let q := queueOf c.egress c.served
  let n := c.chMin + c.chRes + c.chShared + c.chHead
  if n == 0 then d else
  let d := d.setF F.BUF_QUSE_USED (d.used q - n) q
  { d with buf := { d.buf with reserveUsed := d.buf.reserveUsed - c.chRes, headUsed := d.buf.headUsed - c.chHead,
                               shared := SMap.put d.buf.shared q (d.sharedOf q - c.chShared) 0,
                               freed := if c.owner.isSome then d.buf.freed else d.buf.freed + c.chShared } }

/-! ### Owner lists (R100) -/

def Dev.setOwnerFree (d : Dev) : Dev := d.setF F.BUF_STATUS_OWNER_FREE (65536 - d.buf.chains.length)

/-- A pipe finishes a copy of a chain: the last owner frees it (R100). -/
def Dev.chainDone (d : Dev) (c : Copy) (o : Nat) : Dev :=
  let p := pipeOf c.egress
  match SMap.find? d.buf.chains o with
  | none => d.bump F.BUF_MC_FREE_ERR_COUNT
  | some ch =>
    match ch.pipes.find? fun x => x.1 == p with
    | none => d.bump F.BUF_MC_FREE_ERR_COUNT
    | some x =>
      let pipes := (ch.pipes.map fun y => if y.1 == p then (p, y.2 - 1) else y).filter fun y => y.2 != 0
      if x.2 ≤ 1 && pipes.isEmpty then
        let d := d.each ch.cells fun d p => d.freeCell p
        let d := { d with buf := { d.buf with chains := SMap.erase d.buf.chains o, freed := d.buf.freed + ch.taken,
                                              recentBanks := SMap.erase d.buf.recentBanks (2 ^ 20 + o) } }
        if ch.counted then (d.setOwnerFree).usageMove c (-(16 * (ch.cells.length : Int))) else d.setOwnerFree
      else { d with buf := { d.buf with chains := SMap.set d.buf.chains o { ch with pipes := pipes } } }

/-! ### Places a copy can be in -/

/-- Take an identifier out of every list of a map. -/
def dropFrom (m : SMap (List Nat)) (cid : Nat) : SMap (List Nat) :=
  (m.map fun p => (p.1, p.2.filter (· != cid))).filter fun p => !p.2.isEmpty

/-- Entries of a finish group now held, and its least slack (R170, R173, R188). -/
def Dev.syncGroup (d : Dev) (g : Nat) : Dev :=
  let mine := d.copyList.filter fun c => c.finishOf == some g
  let held := (mine.filter fun c => c.stage == .mergeWait || c.stage == .merge).length
  let sl := (mine.filter fun c => c.stage == .decided || c.stage == .mergeWait || c.stage == .merge).map (·.slack8)
  let least := match sl with
    | [] => 0xFFFFFFFF
    | a :: l => (l.foldl min a / 8).toNat
  let total := (d.copyList.filter fun c => c.finishOf.isSome && (c.stage == .mergeWait || c.stage == .merge)).length
  ((d.setF F.FIN_GRP_HELD_HELD held g).setF F.FIN_GRP_SLACK_MIN_SLACK least g).setF F.FIN_ENTRIES_FREE (65536 - total)

/-- Pending launches of a port (R192). -/
def Dev.syncCalendar (d : Dev) (e : Nat) : Dev :=
  if e < 1024 then d.setF F.STG_PORT_STAT_PENDING (SMap.get d.hold.calendars e []).length e else d

/-! ### Queues (R81, R305, R308) -/

def Dev.queue (d : Dev) (q : Nat) : List Nat := SMap.get d.buf.queues q []

/-- A queue's delivery lane (R306). -/
def Dev.lane (d : Dev) (q : Nat) : List Nat := SMap.get d.egr.lanes q []

/-- The copies of a queue that have not started, its head first: those in its delivery lane, then those of its list. -/
def Dev.waitingOf (d : Dev) (q : Nat) : List Copy :=
  let l := d.lane q
  (d.copiesOf (l ++ (d.queue q).filter fun x => !l.contains x)).filter fun c => !c.started

/-- A queue is empty when no copy of it waits on die or in its spill segment (R308; assumption 166, DEDUCED). -/
def Dev.queueEmpty (d : Dev) (q : Nat) : Bool := (d.waitingOf q).isEmpty && !d.on F.BUF_QUSE_SPILLED q

/-- A queue that empties has its deficit cleared (R308). -/
def Dev.emptied (d : Dev) (q : Nat) : Dev :=
  if d.queueEmpty q then { d with egr := { d.egr with deficit := SMap.erase d.egr.deficit q } } else d

/-- Spill pages whose lists no longer name a copy. -/
def pagesWithout (l : List SpillPage) (id : Nat) : List SpillPage := l.map fun p => { p with copies := p.copies.filter (· != id) }

def SpillSeg.without (s : SpillSeg) (id : Nat) : SpillSeg :=
  { s with openCopies := s.openCopies.filter (· != id), pages := pagesWithout s.pages id }

def Detached.without (s : Detached) (id : Nat) : Detached :=
  { s with openCopies := s.openCopies.filter (· != id), pages := pagesWithout s.pages id }

/-- Take a copy out of every queue, buffer, lane, FIFO, calendar and discard list. -/
def Dev.unlink (d : Dev) (c : Copy) : Dev :=
  let q := queueOf c.egress c.served
  let drop := fun (m : SMap (List Nat)) k => SMap.put m k ((SMap.get m k []).filter (· != c.id)) []
  let marks := (SMap.get d.time.marks q []).map fun m => { m with copies := m.copies.filter (· != c.id) }
  let d := { d with
    buf := { d.buf with queues := drop d.buf.queues q, due := d.buf.due.filter fun x => x.1 != c.id, overflow := drop d.buf.overflow q, discards := dropFrom d.buf.discards c.id,
                        spill := d.buf.spill.map fun (s : Nat × SpillSeg) => (s.1, s.2.without c.id),
                        detached := d.buf.detached.map fun (s : Detached) => s.without c.id },
    egr := { d.egr with lanes := drop d.egr.lanes q, onLine := d.egr.onLine.filter fun x => x.2 != c.id,
                        preempted := d.egr.preempted.filter fun x => x.2 != c.id },
    hold := { d.hold with fifos := dropFrom d.hold.fifos c.id, calendars := dropFrom d.hold.calendars c.id },
    adm := { d.adm with alignQ := d.adm.alignQ.filter (· != c.id), hurdleQ := d.adm.hurdleQ.filter (· != c.id) },
    time := { d.time with marks := SMap.put d.time.marks q (marks.filter fun m => !m.copies.isEmpty) [] } }
  let d := d.emptied q
  match c.kind with
  | .release _ => d.syncCalendar c.egress
  | _ => d

/-- Give back everything a copy holds and forget it. -/
def Dev.freeCopy (d : Dev) (c : Copy) : Dev :=
  let d := (d.unlink c).returnCharge c
  let d := d.dropCopy c.id
  let d := if d.copyList.any fun x => x.frame.id == c.frame.id then d else d.accepted c.frame
  let d := if d.buf.noChain.contains c.frame.id && !(d.copyList.any fun x => x.frame.id == c.frame.id) then
      { d with buf := { d.buf with noChain := d.buf.noChain.filter (· != c.frame.id) } } else d
  let d := match c.owner with
    | some o => d.chainDone c o
    | none =>
      let still := d.copyList.flatMap (·.cells)
      let d := d.each (c.cells.filter fun p => !still.contains p) fun d p => d.freeCell p
      (d.usageMove c (-((c.chMin + c.chRes + c.chShared + c.chHead : Nat) : Int))).closeTail (queueOf c.egress c.served)
  match c.finishOf with
  | some g => d.syncGroup g
  | none => d

/-- Discard a copy with a reason: its verdict is final and everything it holds is returned. -/
def Dev.discard (d : Dev) (c : Copy) (reason : Nat) (extra : Nat := 0) : Dev :=
  (d.outcome c (c.discardVerdict reason) reason extra).freeCopy c

/-! ### Verdicts that fall at the end of a cell time (R39) -/

/-- A copy is found AGED or FINISH_LATE: it leaves its place now, and its verdict falls at the end of the cell time, unless
its link is lost before (R39, assumption 118, DEDUCED). -/
def Dev.condemn (d : Dev) (c : Copy) (reason : Nat) : Dev :=
  let d := (d.unlink c).setCopy { c with stage := .due }
  { d with buf := { d.buf with due := d.buf.due ++ [(c.id, reason)] } }

/-- The verdict of a copy found AGED or FINISH_LATE, with its counter (R60, R104, R171). -/
def Dev.settle (d : Dev) (c : Copy) (reason : Nat) : Dev :=
  if reason == rLATE then
    match c.finishOf with
    | some g => (d.bumpQ .FIN_CNT g 2).discard c rLATE
    | none => d.discard c rLATE
  else if c.timed then d.discard c rAGED aOVERDUE
  else (d.bumpQ .BUF_PCNT c.egress 4).discard c rAGED

/-- The cell time ends: the verdicts due fall. -/
def Dev.settleDue (d : Dev) : Dev :=
  d.each d.buf.due fun d x =>
    match d.copy? x.1 with
    | some c => d.settle c x.2
    | none => d

/-- The cell time rolls over `k` times: verdicts due fall, frees join F, and the rotating pointers move (R39, R94, R85,
R171). -/
def Dev.rollCells (d : Dev) (k : Nat) : Dev :=
  if k == 0 then d else
  let d := { d.settleDue with buf := { d.settleDue.buf with due := [] } }
  let f : Int := d.buf.free + d.buf.freed
  { d with buf := { d.buf with free := f, freeStart := f, freed := 0, enqueued := [], bankBusy := [], steerPtr := (d.buf.steerPtr + k) % 256 },
           hold := { d.hold with mergePtr := (d.hold.mergePtr + k) % 64 } }

/-- Time passes: the cell time in progress ends before the clock moves past it, and `n` ticks go by (TIME_TICK). -/
def Dev.advance (d : Dev) (n : Nat) : Dev :=
  let t := (d.tick n).time
  let e := d.rollCells ((d.tick n).cell - d.cell)
  ({ e with time := { e.time with sec := t.sec, ns := t.ns, frac := t.frac, slewRem := t.slewRem, ticks := t.ticks, stretched := t.stretched } }).countUrgent.ringDrain

/-- SLEW_COMPLETE (R121): time passes until the slew has applied its whole amount. -/
def Dev.slewComplete (d : Dev) : Dev :=
  if d.time.slewRem == 0 || d.time.slewShare == 0 then d
  else d.advance (ceilDiv d.time.slewRem.natAbs d.time.slewShare)

/-! ### Tokens and slack returned (R55, R173) -/

def bucketKey (e c : Nat) : Nat := 4 * e + c

/-- Tokens of a reservation bucket in 1/64000 byte, refilled to now (R53). A class whose reservation no write has set
has β = 0 and no tokens. -/
def Dev.rsvTokens (d : Dev) (e c : Nat) : Int :=
  let cap := d.rsvBurst e c * 64000
  match SMap.find? d.adm.buckets (bucketKey e c) with
  | some b => (b.refill d.el8 (d.rsvRate e c) cap).tokens
  | none => 0

def Dev.setRsv (d : Dev) (e c : Nat) (t : Int) : Dev :=
  { d with adm := { d.adm with buckets := SMap.set d.adm.buckets (bucketKey e c) ⟨t, d.el8⟩ } }

/-- The slack an inserting copy took is given back (R173). -/
def Dev.giveSlack (d : Dev) (c : Copy) : Dev :=
  d.each c.slackTaken fun d k => d.updCopy k fun x => { x with slack8 := x.slack8 + c.slackD8 }

/-- An admitted copy that fails at the buffer write (R55): tokens, backlog and slack are returned. -/
def Dev.returnTokens (d : Dev) (c : Copy) : Dev :=
  if c.timed then
    let cap : Int := d.rsvBurst c.egress c.cls * 64000
    (d.setRsv c.egress c.cls (min cap (d.rsvTokens c.egress c.cls + c.wire * 64000))).giveSlack c
  else d

/-- Count a best-effort copy that failed BUFFER_QUOTA on its egress port (R118). -/
def Dev.countQuotaDrop (d : Dev) (c : Copy) : Dev := if c.timed || 1032 ≤ c.egress then d else d.bumpQ .BUF_PCNT c.egress 5

/-- The DECISION record at its buffer write of a copy that no Hurdle has decided (R507, R510). -/
def Dev.decidedAt (d : Dev) (c : Copy) (verdict reason : Nat) : Dev :=
  if c.timed || c.deferred || c.kind == .observation then d
  else d.traceDecision c verdict reason (d.used (queueOf c.egress c.served))

/-- BUFFER_QUOTA at the buffer write. An observation copy is counted at its ingress port instead (R246, R551). -/
def Dev.failQuota (d : Dev) (c : Copy) : Dev :=
  let c := { c with desc := none }
  match c.kind with
  | .observation => (d.bumpQ .PIPE_PORT_CNT (pipeOf c.frame.ingress) (localOf c.frame.ingress) 7).freeCopy c
  | _ =>
    let d := (d.returnTokens c).countQuotaDrop c
    (d.decidedAt c (c.discardVerdict rQUOTA) rQUOTA).discard c rQUOTA

/-! ### Enqueueing (R81, R109) -/

/-- The place of a copy among those enqueued in one cell time (R81): timed copies by their decisions; best-effort ones
by the cell time in which they left their pipelines, then by ingress pipe, rotated by one each cell time from a phase no
rule states (assumption 9, DESIGN CHOICE). -/
def Copy.linksBefore (a b : Copy) : Bool :=
  let turn := fun (c : Copy) => (pipeOf c.frame.ingress + 16 - c.leftCell % 16) % 16
  if a.timed then decide (a.order < b.order)
  else decide (a.leftCell < b.leftCell) || (a.leftCell == b.leftCell &&
    (decide (turn a < turn b) || (turn a == turn b && decide (a.id < b.id))))

/-- Put a copy into a list in the order of R81, ahead of the later ones of its own cell time alone. -/
def Dev.inOrder (d : Dev) (c : Copy) (l : List Nat) : List Nat :=
  let after := (l.reverse.takeWhile fun i => match d.copy? i with
    | some x => x.enqCell == c.enqCell && !x.selected && c.linksBefore x
    | none => false).length
  l.take (l.length - after) ++ c.id :: l.drop (l.length - after)

/-- Link a copy in its queue. -/
def Dev.link (d : Dev) (c : Copy) : Dev :=
  let q := queueOf c.egress c.served
  let d := { d with buf := { d.buf with queues := SMap.set d.buf.queues q (d.inOrder c (d.queue q)),
                                        enqueued := SMap.upd d.buf.enqueued q 0 (· + 1) } }
  d.updCopy c.id fun x => { x with stage := .queued, enqCell := c.enqCell }

/-- The last copy linked to a queue in this cell time goes back to the head of the enqueue buffer, where one more than 24
was linked (R81). -/
def Dev.pushBack (d : Dev) (q : Nat) : Dev :=
  if SMap.get d.buf.enqueued q 0 ≤ 24 then d else
  match (d.queue q).getLast? with
  | none => d
  | some i =>
    let d := { d with buf := { d.buf with queues := SMap.set d.buf.queues q ((d.queue q).filter (· != i)),
                                          overflow := SMap.set d.buf.overflow q (i :: SMap.get d.buf.overflow q []),
                                          enqueued := SMap.set d.buf.enqueued q 24 } }
    d.updCopy i fun x => { x with stage := .overflow }

/-- Enqueue a copy (R81; a best-effort copy for a link that is down is of a held queue, also where the link has never been up:
R118, assumption 163, DEDUCED): beyond 24 in one cell time it waits in the enqueue buffer. On a port whose link is down a
timed copy is refused at once, and a best-effort copy joins the held queue or, after expiry, is dropped (R109). -/
def Dev.enqueue (d : Dev) (c : Copy) : Dev :=
  let q := queueOf c.egress c.served
  if !d.linkUp c.egress && c.timed then d.discard c rLINK
  else if !d.linkUp c.egress && d.buf.holdExpired.contains c.egress then (d.bumpQ .BUF_PCNT c.egress 3).discard c rLINK
  else
    let c := { c with heldOver := c.heldOver || !d.linkUp c.egress, enqCell := d.cell }
    let d := d.setCopy c
    let waiting := SMap.get d.buf.overflow q []
    let first := (waiting.head?.bind d.copy?).map fun x => x.enqCell == c.enqCell && c.linksBefore x
    let overtakes := (((d.queue q).getLast?.bind d.copy?).map fun x => x.enqCell == c.enqCell && !x.selected && c.linksBefore x).getD false
    if first.getD true && (decide (SMap.get d.buf.enqueued q 0 < 24) || overtakes) then (d.link c).pushBack q
    else
      let d := { d with buf := { d.buf with overflow := SMap.set d.buf.overflow q (d.inOrder c waiting) } }
      d.updCopy c.id fun x => { x with stage := .overflow }

/-- Link a copy that SPD brings back, or let it wait behind those already linked in this cell time (R81, R103). -/
def Dev.linkOrWait (d : Dev) (c : Copy) : Dev :=
  let q := queueOf c.egress c.served
  let waiting := SMap.get d.buf.overflow q []
  if waiting.isEmpty && decide (SMap.get d.buf.enqueued q 0 < 24) then d.link c
  else { d with buf := { d.buf with overflow := SMap.set d.buf.overflow q (waiting ++ [c.id]) } }.updCopy c.id fun x => { x with stage := .overflow }

/-- Link up to 24 waiting copies of a queue (R81). -/
def Dev.linkOverflow (d : Dev) (q : Nat) : Dev :=
  let room := 24 - SMap.get d.buf.enqueued q 0
  let w := SMap.get d.buf.overflow q []
  let d := { d with buf := { d.buf with overflow := SMap.put d.buf.overflow q (w.drop room) [] } }
  d.each (d.copiesOf (w.take room)) fun d c => d.link c

/-! ### Descriptors and spill (R80, R101 to R103) -/

/-- Descriptors in use: those of copies, and those of records not yet numbered (R206). -/
def Dev.usedDesc (d : Dev) : List Nat := (d.copyList.filterMap (·.desc)) ++ d.ev.closeList.filterMap (·.desc)

def Dev.spillOf (d : Dev) (q : Nat) : SpillSeg := SMap.get d.buf.spill q SpillSeg.zero

def Dev.spilled (d : Dev) (q : Nat) : Bool := d.on F.BUF_QUSE_SPILLED q

/-- May a queue spill (R101)? -/
def Dev.maySpill (d : Dev) (q : Nat) : Bool := decide (4 ≤ q % 8) && d.on F.BUF_QCFG_SPILL_EN q && d.on F.BUF_CTRL_SPILL_EN

/-- Pages a port holds, its open pages and those of detached segments among them. -/
def Dev.portPages (d : Dev) (e : Nat) : Nat :=
  let gone := (d.buf.detached.filter fun s => s.queue / 8 == e).foldl (fun a s => a + s.pages.length) 0
  gone + (upto 4).foldl (fun a k => let s := d.spillOf (queueOf e (4 + k)); a + s.pages.length + b2n (!s.openCopies.isEmpty || !s.openData.isEmpty)) 0

/-- Tokens of SPD's write port in bits, refilled to now at 20 Tb/s (R339). -/
def Dev.spwTokens (d : Dev) : Int := min 20000000 (d.buf.spwTokens + 2500 * (d.el8 - d.buf.spwAt))
def Dev.sprTokens (d : Dev) : Int := min 20000000 (d.buf.sprTokens + 2500 * (d.el8 - d.buf.sprAt))

/-- A copy as it lies in a spill page: the spill header, which is bytes 3 to 17 of its descriptor and a byte the rule leaves
open, and its stored bytes (R101; assumption 23, DESIGN CHOICE). -/
def Copy.spillBytes (c : Copy) (free : Nat) : List Byte :=
  slice (c.descBytes 0) 3 15 ++ be 1 free ++ slice c.frame.bytes 0 c.frame.len

/-- Post a whole page through port SPW, granule by granule (R101, R335). -/
def Dev.postPage (d : Dev) (p : Nat) (bytes : List Byte) (account : Nat) : Dev :=
  d.each (upto 16) fun d g => d.postGranule ⟨p * 16 + g, (upto 256).zip (slice bytes (256 * g) 256), 2, account⟩

/-- Write the open page of a segment (R101): a page of P5 is taken for SPD, requester 16, and written through port SPW. Its
two header halves are alike; no rule places their fields, so their bytes are free values (R350; assumption 23, DESIGN
CHOICE). -/
def Dev.writePage (d : Dev) (q pick : Nat) : Option Dev :=
  if d.spwTokens < 32768 then none else
  match d.take 16 5 pick with
  | none => none
  | some (p, d) =>
    let s := d.spillOf q
    let r := d.draw
    let head := be 256 r.1
    let bytes := head ++ head ++ slice s.openData 0 3584
    let s := { s with pages := s.pages ++ [⟨p, s.openCopies, s.pos⟩], openCopies := [], openData := s.openData.drop 3584, pos := s.pos + 3584 }
    let d := { r.2 with buf := { r.2.buf with spill := SMap.set r.2.buf.spill q s, spwTokens := d.spwTokens - 32768, spwAt := d.el8 } }
    some ((d.postPage p bytes (d.portPartition (q / 8))).bumpQ .BUF_PCNT (q / 8) 6)

/-- Write full pages of a segment, at most `fuel`. -/
def Dev.writeFull (fuel : Nat) (d : Dev) (q pick : Nat) : Option Dev :=
  let s := d.spillOf q
  if s.openData.length < 3584 && s.openCopies.length < 30 then some d else
  match fuel with
  | 0 => some d
  | fuel + 1 =>
    match d.writePage q pick with
    | none => none
    | some d => Dev.writeFull fuel d q pick

/-- A copy's claim on a shared chain ends (R103). -/
def Dev.leaveChain (d : Dev) (c : Copy) : Dev :=
  match c.owner with
  | some o => (d.setCopy { c with owner := none, cells := [], firstSector := 0 }).chainDone c o
  | none => d

/-- The queue leaves the spilled state when its segment is empty (R103). -/
def Dev.leaveSpill (d : Dev) (q : Nat) : Dev :=
  let s := d.spillOf q
  if s.pages.isEmpty && s.openCopies.isEmpty then
    ({ d with buf := { d.buf with spill := SMap.erase d.buf.spill q } }.setF F.BUF_QUSE_SPILLED 0 q).emptied q
  else d

/-- A copy that no segment can take (R102); an observation copy is counted at its ingress port instead (R246). A queue whose
segment holds nothing is spilled no longer. -/
def Dev.spillDrop (d : Dev) (c : Copy) : Dev :=
  let d := match c.kind with
    | .observation => d.failQuota c
    | _ =>
      let c := { c with desc := none }
      ((d.bumpQ .BUF_PCNT c.egress 7).decidedAt c (c.discardVerdict rQUOTA) rQUOTA).discard c rQUOTA
  d.leaveSpill (queueOf c.egress c.served)

/-- Append a copy to its queue's segment, or drop it (R101, R102); after a hold has expired it is dropped with LINK_DOWN
(R109). -/
def Dev.spillAppend (d : Dev) (c : Copy) (pick : Nat) : Dev :=
  let q := queueOf c.egress c.served
  if !d.linkUp c.egress && d.buf.holdExpired.contains c.egress then
    ((d.bumpQ .BUF_PCNT c.egress 3).decidedAt c 0xFF 0).discard c rLINK else
  let c := { c with heldOver := c.heldOver || !d.linkUp c.egress, enqCell := d.cell }
  let d := d.setCopy c
  let s := d.spillOf q
  let opens := s.openCopies.isEmpty && s.openData.isEmpty
  let need := ceilDiv (s.openData.length + 16 + c.frame.len) 3584 - b2n (!opens)
  let quota := d.f F.BUF_PORT_CFG_SPILL_QUOTA c.egress * 1024
  if quota < d.portPages c.egress + need || d.f F.BUF_POOL_FREE_FREE 5 == 0 then d.spillDrop c
  else
    let r := d.draw
    let s' := { s with openCopies := d.inOrder c s.openCopies, openData := s.openData ++ c.spillBytes r.1 }
    match Dev.writeFull 6 { r.2 with buf := { d.buf with spill := SMap.set d.buf.spill q s' } } q pick with
    | none => d.spillDrop c
    | some d =>
      let d := (d.leaveChain c).decidedAt c 0xFF 0
      d.updCopy c.id fun x => { x with stage := .spilled, spillAt := s.pos + s.openData.length }

/-- SPILL_PAGE_WRITE: 1 µs after its first byte, an open page is written (R101). -/
def Dev.spillPageWrite (d : Dev) (q pick : Nat) : Dev :=
  let s := d.spillOf q
  if s.openCopies.isEmpty && s.openData.isEmpty then d else (d.writePage q pick).getD d

/-! ### The buffer write (R91, R84, R170, R551) -/

def sectorsOf (len : Nat) : Nat := ceilDiv len 16

/-- Is the copy one of a multicast frame? -/
def Copy.mc (c : Copy) : Bool :=
  match c.kind with
  | .multicast _ => true
  | .release _ => true
  | _ => false

/-- The best-effort MTU in force (R551): each change is used from the second cell time after its write. -/
def Dev.beMtu (d : Dev) (e : Nat) : Nat := F.ADM_BE_MTU_MTU.ext (d.slow (SMap.get d.adm.mtuOld e []) (d.get .ADM_BE_MTU e)).toNat

/-- Length on the line against the best-effort MTU (R551). -/
def Dev.overMtu (d : Dev) (c : Copy) : Bool :=
  !c.timed && decide (c.egress < 1024) && decide (d.beMtu c.egress < c.frame.len + d.tagLen c.egress)

/-- Does a finish-group copy find no merge entry (R170)? -/
def Dev.noEntry (d : Dev) (c : Copy) : Bool :=
  match c.finishOf with
  | some g => decide (d.f F.FIN_GRP_HELD_MAX_HELD g ≤ d.f F.FIN_GRP_HELD_HELD g) || d.f F.FIN_ENTRIES_FREE == 0
  | none => false

/-- The owner-list entry of a multicast frame: the one its copies share, or a new one with its cells (R84, R100). A copy
that a spilled queue has taken keeps no claim on it (R103). -/
def Dev.chainOf (d : Dev) (c : Copy) (pick : Nat) : Option (Dev × Nat) :=
  match d.copyList.findSome? fun x => if x.frame.id == c.frame.id && x.mc then x.owner else none with
  | some o => some (d, o)
  | none =>
    match nextFree (d.buf.chains.map (·.1)) 65536 pick with
    | none => none
    | some o =>
      let mine := d.copyList.filter fun x => x.frame.id == c.frame.id && x.mc && x.stage != .discard && x.stage != .spilled
      match Dev.chainCells (ceilDiv c.frame.len 256) d (pipeOf c.frame.ingress) (2 ^ 20 + o) pick (mine.any (·.timed)) none with
      | none => none
      | some (d, cells) =>
        let d := d.weighCells c.frame cells
        let pipes := ((upto 16).map fun p => (p, (mine.filter fun x => pipeOf x.egress == p).length)).filter fun x => x.2 != 0
        let d := { d with buf := { d.buf with chains := SMap.set d.buf.chains o ⟨pipes, 0, cells, false⟩ } }.setOwnerFree
        let d := d.each mine fun d x => d.updCopy x.id fun y => { y with owner := some o, cells := cells }
        some (d, o)

/-- Every copy of a frame whose chain finds no entry or no cell fails, those still before the Hurdle when they come here
(R100). -/
def Dev.failFrame (d : Dev) (c : Copy) : Dev :=
  let d := { d with buf := { d.buf with noChain := c.frame.id :: d.buf.noChain } }
  d.each (d.copyList.filter fun x => x.frame.id == c.frame.id && x.mc && x.stage == .decided) fun d x => d.failQuota x

/-- A multicast copy's part of its frame's chain, which its first copy asks for (R84, R100): without one, every copy of the frame
fails. -/
def Dev.onChain (d : Dev) (c : Copy) (pick : Nat) (k : Dev → Copy → Nat → Chain → Dev) : Dev :=
  if d.buf.noChain.contains c.frame.id then d.failQuota c else
  match d.chainOf c pick with
  | none => d.failFrame c
  | some (d, o) =>
    let ch := SMap.get d.buf.chains o Chain.zero
    k d { c with owner := some o, cells := ch.cells, firstSector := 0 } o ch

/-- Where a stored copy goes next: its merge wait, its calendar or its queue. -/
def Dev.stored (d : Dev) (c : Copy) : Dev :=
  match c.finishOf, c.releaseOf with
  | some g, _ =>
    let d := d.setCopy { c with stage := .mergeWait }
    let d := if c.inserting then d.bumpQ .FIN_CNT g 3 else d
    d.syncGroup g
  | none, some _ => if d.linkUp c.egress then d.setCopy { c with stage := .calendar } else d.discard c rLINK
  | none, none => d.enqueue c

/-- Charge and place a copy whose queue is not spilled. -/
def Dev.writeOnDie (d : Dev) (c : Copy) (pick : Nat) : Dev :=
  let q := queueOf c.egress c.served
  let spill := fun (d : Dev) (c : Copy) =>
    if d.maySpill q && !c.timed then (d.setF F.BUF_QUSE_SPILLED 1 q).spillAppend c pick else d.failQuota c
  match nextFree d.usedDesc 2097152 pick with
  | none => d.failQuota c
  | some desc =>
    let c := { c with desc := some desc }
    if c.mc then
      d.onChain c pick fun d c o ch =>
        let reduces := ch.taken == 0
        match d.chargeFor c q (16 * ch.cells.length) reduces with
        | none => spill (d.setCopy c) c
        | some x =>
          let cut := reduces && x.shared != 0
          let d := (d.takeCharge q x cut).countHead c x
          let d := { d with buf := { d.buf with chains := SMap.set d.buf.chains o { ch with taken := if cut then x.shared else ch.taken, counted := true } } }
          let d := if ch.counted then d else d.usageMove c (16 * (ch.cells.length : Int))
          let c := { c with chMin := x.min_, chRes := x.res, chShared := x.shared, chHead := x.head }
          ((d.setCopy c).decidedAt c 0xFF 0).stored c
    else
      let n := sectorsOf c.frame.len
      match d.chargeFor c q n true with
      | none => spill (d.setCopy c) c
      | some x =>
        match Dev.placeIn (n + 2) d q (pipeOf c.egress) n pick c.timed [] none with
        | none => d.failQuota c
        | some (d, cells, first) =>
          let d := (d.weighCells c.frame cells).takeCharge q x true
          let d := d.countHead c x
          let c := { c with cells := cells, firstSector := first, chMin := x.min_, chRes := x.res, chShared := x.shared, chHead := x.head }
          (((d.setCopy c).usageMove c n).decidedAt c 0xFF 0).stored c

/-- Is a queue empty at an enqueue (R105): nothing on its list, in its lane, its enqueue buffer or its spill segment? -/
def Dev.nothingAhead (d : Dev) (q : Nat) : Bool :=
  (d.queue q).isEmpty && d.queueEmpty q && (SMap.get d.buf.overflow q []).isEmpty

/-- Is the copy cut through (R50, R105)? Rates in Mb/s; an internal ingress port counts as faster than every port. -/
def Dev.cutThrough (d : Dev) (c : Copy) : Bool :=
  let rateOk := internal c.frame.ingress || decide (d.rate c.egress ≤ d.rate c.frame.ingress)
  let held := c.finishOf.isSome || c.releaseOf.isSome
  let split := c.frame.ptp.isSome && d.split c.egress && (c.frame.ptp.map fun x => decide (x.msgType < 4)).getD false
  rateOk && !held && !split &&
    (c.timed || (decide (c.egress < 1032) && d.on F.BUF_PORT_CFG_CT_EN c.egress && d.nothingAhead (queueOf c.egress c.served)))

/-- The live Heat after one (R256). -/
def Dev.nextHeat (d : Dev) (h : Nat) : Nat := (((d.heat.live.dropWhile (·.1 != h)).drop 1).head?.map (·.1)).getD h

/-- A copy of a Heat whose waiting copies are promoted takes the next live Heat for its egress stages, unless it is on its
way to recirculation (R256). -/
def Dev.promote (d : Dev) (cid : Nat) : Dev :=
  match d.copy? cid with
  | none => d
  | some c =>
    if d.heat.promoted.contains c.heat && c.egress != 1026 then
      (d.setCopy { c with heat := d.nextHeat c.heat }).bump F.ID_HEAT_PROMOTED_COUNT
    else d

/-- The open-record entry of a stamped copy that the buffer write accepted (R206). -/
def Dev.recordOpened (d : Dev) (cid : Nat) : Dev :=
  match (d.copy? cid).bind fun c => if c.record then c.desc else none with
  | some i => d.openRecord i
  | none => d

/-- The buffer write of a decided copy (BUFFER_WRITE). -/
def Dev.bufferWrite (d : Dev) (cid pick : Nat) : Dev :=
  match d.copy? cid with
  | none => d
  | some c =>
    if c.stage != .decided then d else
    let c := { c with ct := d.cutThrough c }
    let d := d.setCopy c
    if d.overMtu c then d.failQuota c
    else if d.noEntry c then
      match c.finishOf with
      | some g => (d.bumpQ .FIN_CNT g 6).failQuota c
      | none => d
    else
      let q := queueOf c.egress c.served
      let d := if d.spilled q && !c.timed then
          match nextFree d.usedDesc 2097152 pick with
          | some x =>
            let c := { c with desc := some x }
            if c.mc then d.onChain c pick fun d c _ _ => (d.setCopy c).spillAppend c pick else (d.setCopy c).spillAppend c pick
          | none => d.failQuota c
        else d.writeOnDie c pick
      (d.recordOpened cid).promote cid

end Sys2Proof.Machine
end

