-- ==== Sys2Proof/Machine/Hurdle.lean ====
section
/-! DEFINITION. The Hurdle (R43 to R62) with the admission of finish-group and release-group copies (R172, R173, R178
to R180, R184), and ingress alignment (R57). -/

namespace Sys2Proof.Machine

/-! ### Terms of the prediction (R54) -/

/-- The derate of a pipe as decisions see it: each write counts from the second cell time after it (R62). -/
def Dev.derate (d : Dev) (p : Nat) : Word := d.slow (SMap.get d.adm.derateOld p []) (d.get .ADM_PIPE_DERATE p)

def Dev.tighten (d : Dev) (p : Nat) : Nat := F.ADM_PIPE_DERATE_TIGHTEN_NS.ext (d.derate p).toNat
def Dev.derated (d : Dev) (p : Nat) : Bool := F.ADM_PIPE_DERATE_IN_FORCE.ext (d.derate p).toNat == 1
def Dev.shedAll (d : Dev) (p : Nat) : Bool := F.ADM_PIPE_DERATE_SHED.ext (d.derate p).toNat == 1

def Dev.margin8 (d : Dev) : Nat := d.f F.ADM_CTRL_MARGIN * 8

/-- fix(e) of R54, in ns. -/
def Dev.fix (d : Dev) (e : Nat) : Nat := 78 + d.tx e + d.tighten (pipeOf e)

def Dev.sumRate (d : Dev) (e c : Nat) : Nat := (upto c).foldl (fun a k => a + d.rsvRate e k) 0
def Dev.sumBurst (d : Dev) (e c : Nat) : Nat := (upto c).foldl (fun a k => a + d.rsvBurst e k) 0

/-- r of R54 in Mb/s. An internal port has no port rate, and its capacity never enters a prediction (R550): r is 0, and none is
made (assumption 158, DEDUCED). -/
def Dev.left (d : Dev) (e c : Nat) : Nat := if internal e then 0 else d.rate e - d.sumRate e c

/-- The wait behind best effort in bytes (R51). -/
def Dev.behind (d : Dev) (e : Nat) : Nat := if d.preemptActive e then 123 else d.beMtu e

/-- Arrival of a stored copy's frame: its tail at the buffer (R54, R550). -/
def Dev.arrive8 (d : Dev) (fr : Frame) : Nat :=
  if internal fr.ingress then fr.stamp8
  else fr.stamp8 + d.rx fr.ingress * 8 + line8 fr.rxLen (d.rate fr.ingress) + 240

/-! ### Finish groups (R172, R173) -/

/-- The held copies of a finish group: admitted and not yet released. -/
def Dev.heldOf (d : Dev) (g : Nat) : List Copy :=
  d.copyList.filter fun c => c.finishOf == some g && (c.stage == .decided || c.stage == .mergeWait || c.stage == .merge)

def wireSum (l : List Copy) : Nat := l.foldl (fun a c => a + c.wire) 0

/-- The wire time an inserting copy costs the copies behind it. -/
def Dev.insertDelay (d : Dev) (c : Copy) : Nat := line8 c.wire (d.left c.egress c.cls)

/-- The held copies whose key is greater than the copy's. -/
def Dev.heldAfter (d : Dev) (c : Copy) (g : Nat) : List Copy := (d.heldOf g).filter fun h => d.keyBefore (d.keyOf c) (d.keyOf h)

/-- Would the copy's insertion take more slack than the group's least (R173)? -/
def Dev.insertFails (d : Dev) (c : Copy) (g : Nat) : Bool :=
  !(d.heldAfter c g).isEmpty && (d.heldOf g).any fun h => decide (h.slack8 < d.insertDelay c)

/-- The window term w of R172 and R173, in 0.125 ns. -/
def Dev.window8 (d : Dev) (c : Copy) (g : Nat) : Nat :=
  if d.insertFails c g then 16777216 * 8
  else
    let before := wireSum ((d.heldOf g).filter fun h => d.keyBefore (d.keyOf h) (d.keyOf c))
    d.f F.FIN_GRP_WINDOW_W_NS g * 8 + 20 +
      line8 (before + d.sumBurst c.egress c.cls + d.staggerHeld c.egress + d.behind c.egress) (d.left c.egress c.cls)

/-! ### Release groups (R178, R179, R184) -/

/-- The launch time L of a frame in 0.125 ns; none when ABSOLUTE mode finds no valid field (R178). -/
def Dev.launchTime (d : Dev) (fr : Frame) (r : Nat) : Option Nat :=
  if d.f F.STG_GRP_CFG_MODE r == 0 then some (fr.stamp + d.f F.STG_GRP_DELAY_DELAY_NS r * 8)
  else
    let o := d.f F.STG_GRP_CFG_ABS_OFFSET r
    let ns := beAt fr.bytes (o + 6) 4
    if fr.len < o + 10 || 1000000000 ≤ ns then none else some ((beAt fr.bytes o 6 * 1000000000 + ns) * 8)

/-- The launch point P = L + TRIM(m) (R179). -/
def Dev.launchPoint (d : Dev) (fr : Frame) (r m : Nat) : Option Nat :=
  (d.launchTime fr r).map fun l => ((l : Int) + signed 16 (d.f F.STG_TRIM_TRIM m)).toNat

def Dev.calendar (d : Dev) (m : Nat) : List Copy := d.copiesOf (SMap.get d.hold.calendars m [])

/-- Occupancy of a launch: ceil8((len + 20) × 8 / rate) (R184). -/
def Dev.launchTime8 (d : Dev) (c : Copy) : Nat := line8 c.wire (d.rate c.egress)

/-- P' of a launch at P after its predecessors (R184). -/
def Dev.afterCollisions (d : Dev) (m p8 : Nat) : Nat :=
  match ((d.calendar m).filter fun c => decide (c.launchP8 ≤ p8)).getLast? with
  | some j => max p8 (j.launchQ8 + d.launchTime8 j)
  | none => p8

/-- Recompute P' along a calendar: a launch is moved later, never earlier (R184). -/
def Dev.moveLaunches (d : Dev) (prev : Option Copy) : List Copy → List Copy
  | [] => []
  | k :: rest =>
    let q := match prev with
      | some j => max k.launchQ8 (max k.launchP8 (j.launchQ8 + d.launchTime8 j))
      | none => k.launchQ8
    let k' := { k with launchQ8 := q, collided := k.collided || decide (k.launchP8 < q) }
    k' :: Dev.moveLaunches d (some k') rest

/-- Put an admitted release copy into its port's calendar, moving the launches that follow (R180, R184). -/
def Dev.joinCalendar (d : Dev) (c : Copy) : Dev :=
  let m := c.egress
  let before := (d.calendar m).filter fun x => decide (x.launchP8 ≤ c.launchP8)
  let after := (d.calendar m).filter fun x => decide (c.launchP8 < x.launchP8)
  let order := before ++ c :: after
  let moved : List Copy := Dev.moveLaunches d none order
  let n := (moved.filter fun (x : Copy) => x.collided && !((order.find? fun y => y.id == x.id).map (·.collided)).getD false).length
  let d := d.each moved fun d x => d.setCopy x
  let ids : List Nat := moved.map fun (x : Copy) => x.id
  let d := { d with hold := { d.hold with calendars := SMap.set d.hold.calendars m ids } }
  (if n == 0 then d else d.bump F.STG_PORT_STAT_COLLIDED m 0 0 n).syncCalendar m

/-! ### The decision (R54, R55, R58, R180) -/

/-- p of a copy that is not released at a launch point (R54); none when r is 0. -/
def Dev.predict (d : Dev) (c : Copy) (t8 : Nat) : Option Nat :=
  let e := c.egress
  let r := d.left e c.cls
  if r == 0 then none else
  let fix8 := d.fix e * 8
  let ahead := d.backlog e c.cls + d.sumBurst e c.cls + d.staggerHeld e
  let p := t8 + fix8 + line8 (ahead + d.behind e) r
  let p := if d.cutThrough c then p else max p (d.arrive8 c.frame + fix8)
  match c.finishOf with
  | some g => some (max p (c.frame.stamp + d.window8 c g + fix8))
  | none => some p

/-- Is the class closed for the copy (R45, R46, R168)? -/
def Dev.closedFor (d : Dev) (c : Copy) : Bool :=
  d.bound c.egress c.cls == 0 || !d.timedOk c.egress ||
  (upto 64).any fun g => d.on F.FIN_GRP_CFG_EN g && d.f F.FIN_GRP_CFG_PORT g == c.egress && d.f F.FIN_GRP_CFG_CLASS g == c.cls &&
    c.finishOf != some g

/-- Fails a release copy the HURDLE check for want of lead (R180)? -/
def Dev.tooSoon (d : Dev) (c : Copy) (t8 : Nat) : Bool :=
  decide (c.launchQ8 < t8 + (d.fix c.egress + d.f F.STG_CTRL_LEAD_NS) * 8)

def Dev.calFull (d : Dev) (c : Copy) : Bool := decide (64 ≤ (d.calendar c.egress).length)

/-- The copy with its launch points and prediction as decided at `t8`. -/
def Dev.prepared (d : Dev) (c : Copy) (t8 : Nat) : Copy :=
  if c.egress == 2047 then { c with bound := 0, pred8 := none } else
  let c := { c with bound := d.bound c.egress c.cls }
  match c.releaseOf with
  | some r =>
    match d.launchPoint c.frame r c.egress with
    | none => { c with pred8 := none }
    | some p =>
      let q := d.afterCollisions c.egress p
      { c with launchP8 := p, launchQ8 := q, collided := decide (p < q),
               pred8 := if d.left c.egress c.cls == 0 then none else some q }
  | none => { c with pred8 := d.predict c t8 }

/-- pass of R54. -/
def Dev.passes (d : Dev) (c : Copy) : Bool :=
  match c.pred8 with
  | some p => decide (p + d.margin8 ≤ c.frame.stamp8 + c.bound * 8)
  | none => false

/-- Does a prepared copy fail the third check (R55, R180)? -/
def Dev.failsHurdle (d : Dev) (c : Copy) (t8 : Nat) : Bool :=
  !d.passes c || d.closedFor c || (c.releaseOf.isSome && (d.tooSoon c t8 || d.calFull c))

/-- The check a prepared copy fails, in the order of R55; none when it is admitted. A blocked copy fails HURDLE (R552,
assumption 35, DEDUCED). -/
def Dev.check (d : Dev) (c : Copy) (t8 : Nat) : Option Nat :=
  let p := pipeOf c.egress
  if c.blocked then some rHURDLE
  else if d.derated p && (d.shedAll p || !d.passes c) then some rENV
  else if d.rsvTokens c.egress c.cls < c.wire * 64000 then some rRSV
  else if d.failsHurdle c t8 then some rHURDLE
  else none

/-- Count why a group copy failed the HURDLE check (R173, R178, R180). -/
def Dev.countGroupFail (d : Dev) (c : Copy) (t8 : Nat) : Dev :=
  if c.blocked then d else
  match c.finishOf, c.releaseOf with
  | some g, _ => if d.insertFails c g then d.bumpQ .FIN_CNT g 4 else d
  | none, some r =>
    if (d.launchTime c.frame r).isNone then d.bumpQ .STG_CNT r 6
    else if d.tooSoon c t8 then d.bumpQ .STG_CNT r 4
    else if d.calFull c then d.bumpQ .STG_CNT r 5
    else d
  | none, none => d

/-- ACTION = DEFER (R58): the copy goes on as best effort. -/
def Dev.defer (d : Dev) (c : Copy) (reason : Nat) : Dev :=
  let n := 4 * c.egress + c.cls
  let d := d.bumpQ .ADM_CNT n 1
  let d := match c.frame.session with
    | some s => d.updSession s fun x => { x with deferred := x.deferred + 1 }
    | none => d
  let d := match c.releaseOf with
    | some r => d.bumpQ .STG_CNT r 3
    | none => d
  let d := if d.on F.ADM_POLICY_DEFER_NOTICE n then
      d.notify c.frame 2 c.cls c.frame.heat c.destField 1 reason c.ann c.bound c.predNs 0xFFFFFFFFFFFFFFFF [n]
    else d
  let fr := { c.frame with meterDscp := some (d.f F.ADM_POLICY_DSCP n) }
  d.setCopy { c with deferred := true, served := 4 + d.f F.ADM_POLICY_DEFER_CLASS n, reason := reason, frame := fr, stage := .decided, leftCell := d.cell }

/-- Admission: tokens, backlog, slack and calendar (R55, R173, R180). -/
def Dev.admitCopy (d : Dev) (c : Copy) : Dev :=
  let d := d.setRsv c.egress c.cls (d.rsvTokens c.egress c.cls - c.wire * 64000)
  let c := { c with stage := .decided, counted := true, served := c.cls }
  match c.finishOf, c.releaseOf with
  | some g, _ =>
    let after := d.heldAfter c g
    let delay := d.insertDelay c
    let d := d.each after fun d h => d.updCopy h.id fun x => { x with slack8 := x.slack8 - delay }
    let slack : Int := (c.frame.stamp8 : Int) + c.bound * 8 - ((c.pred8.getD 0 : Nat) + (d.margin8 : Nat))
    (d.setCopy { c with slack8 := slack, inserting := !after.isEmpty, slackTaken := after.map (·.id), slackD8 := delay }).syncGroup g
  | none, some _ => (d.setCopy c).joinCalendar { c with collided := false }
  | none, none => d.setCopy c

/-- The guard of a release copy's launch, as it stands at the decision (R182, R185). -/
def Dev.guardOf (d : Dev) (c : Copy) : Nat :=
  match c.releaseOf with
  | some r => max (d.f F.STG_GRP_GUARD_GUARD_NS r * 8) (line8 143 (d.rate c.egress))
  | none => 0

/-- Decide one request (R54, R55, R58); decisions are numbered in their order (R81). -/
def Dev.decide1 (d : Dev) (c : Copy) : Dev :=
  let t8 := d.now8
  let c := { d.prepared c t8 with order := d.adm.decisions, guard8 := d.guardOf c }
  let d := { d with adm := { d.adm with decisions := d.adm.decisions + 1 } }
  let before := if (c.egress : Nat) < 1032 then d.backlog c.egress c.cls else 0
  match d.check c t8 with
  | none => (d.admitCopy c).traceDecision c 0xFF 0 before
  | some reason =>
    let d := if reason == rHURDLE then d.countGroupFail c t8 else d
    if !c.blocked && d.f F.ADM_POLICY_ACTION (4 * c.egress + c.cls) == 1 then (d.traceDecision c 1 reason before).defer c reason
    else ((d.setCopy c).traceDecision c 2 reason before).discard c reason

/-- The requests of a list that reach the Hurdle in one cell time without alignment, at most 24 of a pipe, and the rest
(R56). -/
def reaching : List Copy → (Nat → Nat) → List Copy × List Copy
  | [], _ => ([], [])
  | c :: l, n =>
    let p := pipeOf c.frame.ingress
    if n p < 24 then
      let r := reaching l fun q => if q == p then n q + 1 else n q
      (c :: r.1, r.2)
    else
      let r := reaching l n
      (r.1, c :: r.2)

/-- One cell time of the Hurdle (R56): up to 1,024 requests, carried ones first, then in stamp and tie order. -/
def Dev.hurdleBatch (d : Dev) : Dev :=
  let carried := d.copiesOf (d.adm.hurdleQ.take d.adm.carried)
  let here := d.copiesOf (d.adm.hurdleQ.drop d.adm.carried)
  let r : List Copy × List Copy := if d.on F.ADM_CTRL_ALIGN_EN then (here, []) else reaching here fun _ => 0
  let fresh := sortBy (fun a b => d.keyBefore (d.keyOf a) (d.keyOf b)) r.1
  let order := carried ++ fresh
  let later := (order.drop 1024).map (·.id)
  let wait : List Nat := r.2.map fun (c : Copy) => c.id
  let d := { d with adm := { d.adm with hurdleQ := later ++ wait, carried := later.length } }
  d.each (order.take 1024) fun d c => d.decide1 c

/-- A request reaches the Hurdle. -/
def Dev.toHurdle (d : Dev) (c : Copy) : Dev :=
  { d.setCopy { c with stage := .hurdle } with adm := { d.adm with hurdleQ := d.adm.hurdleQ ++ [c.id] } }

/-- When a frame's request reaches the alignment point, in 0.125 ns: RX and the ingress pipeline at its pipe's clock after the
stamp, where the frame's path to here took less (R49, R57, R480). -/
def Dev.reach8 (d : Dev) (fr : Frame) : Nat :=
  max d.now8 (fr.stamp8 + (if internal fr.ingress then 0 else d.rx fr.ingress * 8) + d.pipe8 70 (pipeOf fr.ingress))

/-- A request leaves its ingress pipeline: held for alignment, or released at once when late (R57). -/
def Dev.request (d : Dev) (c : Copy) : Dev :=
  if d.on F.ADM_CTRL_ALIGN_EN then
    let due := c.frame.stamp8 + d.f F.ADM_ALIGN_ALIGN_NS * 8
    if due < d.reach8 c.frame then (d.bump F.ADM_ALIGN_LATE_COUNT).toHurdle c
    else { d.setCopy { c with stage := .align } with adm := { d.adm with alignQ := d.adm.alignQ ++ [c.id] } }
  else d.toHurdle c

/-- ALIGN_RELEASE: a pipe releases up to 64 held requests that are due, in order of local stamp (R57). -/
def Dev.alignRelease (d : Dev) (p : Nat) : Dev :=
  let lead := d.f F.ADM_ALIGN_ALIGN_NS * 8
  let due := (d.copiesOf d.adm.alignQ).filter fun c => pipeOf c.frame.ingress == p && decide (c.frame.stamp8 + lead ≤ d.now8)
  let go := (sortBy (fun (a b : Copy) => decide (a.frame.stamp8 < b.frame.stamp8)) due).take 64
  let ids := go.map (·.id)
  let d := { d with adm := { d.adm with alignQ := d.adm.alignQ.filter fun x => !ids.contains x } }
  d.each go fun d c => d.toHurdle c

end Sys2Proof.Machine
end

