-- ==== Sys2Proof/Machine/Egress.lean ====
section
/-! DEFINITION. Read matching (R87), merge and launch (R169 to R185), egress selection and the transmit arbiter (R304 to
R321), cut-through tails and link loss (R105 to R109). -/

namespace Sys2Proof.Machine

/-! ### Departure -/

/-- The departure a copy of port e would have if it started now from its queue head (R60). -/
def Dev.headDeparture (d : Dev) (e : Nat) : Nat := d.now8 + d.pipe8 58 (pipeOf e) + d.tx e * 8

/-- Is a departure past S + B? -/
def Copy.pastBound (c : Copy) (t8 : Nat) : Bool := decide (c.frame.stamp8 + c.bound * 8 < t8)

/-- A timed copy past its bound is AGED; its verdict falls at the cell time's end (R39, R60). -/
def Dev.discardAged (d : Dev) (c : Copy) : Dev := d.condemn c rAGED

/-- TIMED_HEAD_CHECK (R60): the head of each timed queue, its oldest copy not yet selected (R306). A selected copy is checked
when its turn comes to start (assumption 34, DEDUCED). -/
def Dev.timedHeadCheck (d : Dev) : Dev :=
  d.each (d.buf.queues.filter fun q => decide (q.1 % 8 < 4)) fun d q =>
    match (d.copiesOf q.2).find? fun c => !c.selected with
    | some c => if c.pastBound (d.headDeparture c.egress) then d.discardAged c else d
    | none => d

/-! ### Matching (R87, R88) -/

/-- May a copy at this stage want cells: selected, or on the line while its later cells arrive (R105)? -/
def Stage.reads : Stage → Bool
  | .lane | .line | .preempted | .calendar => true
  | _ => false

/-- Cells a selected copy still wants read: those of open tails are read from the assembler (R83). -/
def Dev.wanted (d : Dev) (c : Copy) : List Nat :=
  if c.selected && c.stage.reads then c.cells.filter fun p => !c.cellsRead.contains p && !(d.buf.tails.any fun t => t.2.ptr == p) else []

/-- Is a copy's data in the egress pipe's delivery lane? A cut-through copy needs its first cell only (R88). -/
def Dev.dataReady (d : Dev) (c : Copy) : Bool :=
  c.selected && (if c.ct then !((d.wanted c).contains (c.cells.headD 0)) else (d.wanted c).isEmpty)

/-- A queue's head is removed once its last byte has been read (R81). -/
def Dev.dequeue (d : Dev) (q : Nat) : Dev :=
  let rest := (d.queue q).dropWhile fun i => match d.copy? i with
    | some c => c.selected && (d.wanted c).isEmpty
    | none => true
  { d with buf := { d.buf with queues := SMap.put d.buf.queues q rest [] } }

/-- A selected copy's bytes in open tails are read from the assembler at its selection (R83; assumption 166, DEDUCED). -/
def Dev.readTails (d : Dev) (c : Copy) : Copy :=
  { c with cellsRead := c.cellsRead ++ c.cells.filter fun p => !c.cellsRead.contains p && d.buf.tails.any fun t => t.2.ptr == p }

/-- A request: pipe, cell, timed, and the cell time first made. -/
structure Req where
  pipe : Nat
  cell : Nat
  timed : Bool
  since : Nat
  deriving DecidableEq, Repr

def reqKey (p cell : Nat) : Nat := p * 2 ^ 20 + cell

/-- The requests the pipes present: one for each pipe and cell, at most 16 for a pipe, timed ones first, then oldest: no rule
says which 16 (assumption 160, DESIGN CHOICE). -/
def Dev.requests (d : Dev) : List Req :=
  let all := (d.copyList.filter (·.selected)).flatMap fun c =>
    (d.wanted c).map fun p => (⟨pipeOf c.egress, p, c.timed, SMap.get d.buf.requests (reqKey (pipeOf c.egress) p) d.cell⟩ : Req)
  let merged := all.foldl (fun (l : List Req) r =>
    if l.any fun x => x.pipe == r.pipe && x.cell == r.cell then
      l.map fun x => if x.pipe == r.pipe && x.cell == r.cell then { x with timed := x.timed || r.timed } else x
    else l ++ [r]) []
  let order := sortBy (fun a b => (a.timed && !b.timed) || (a.timed == b.timed && decide (a.since < b.since))) merged
  (upto 16).flatMap fun p => (order.filter fun r => r.pipe == p).take 16

/-- Matching in progress: claims made, grants accepted in iteration 1, and each pipe's accepts. -/
structure Match where
  claims : List Claim
  first : List (Nat × Nat)
  deriving DecidableEq, Repr

def Match.accepts (m : Match) (p : Nat) : Nat := (m.claims.filter fun c => c.pipes.contains p).length

/-- The cells a bank grants from its requests (R87): timed oldest first, then from its pipe pointer upwards. Timed requests of
one age go in the order of their pipes, and those of one pipe in the order of its copies (assumption 119, DESIGN CHOICE). -/
def bankGrants (reqs : List Req) (ptr room : Nat) : List Nat :=
  let timed := sortBy (fun a b => decide (a.since < b.since)) (reqs.filter (·.timed))
  let be := sortBy (fun a b => decide ((a.pipe + 16 - ptr) % 16 < (b.pipe + 16 - ptr) % 16)) (reqs.filter fun r => !r.timed)
  (((timed ++ be).map (·.cell)).eraseDups).take room

/-- One request, grant and accept iteration; `one` marks the first. A pipe accepts timed grants in the order it presented them,
and a grant of a cell already claimed joins that claim (assumption 160, DESIGN CHOICE). -/
def Dev.iterate (d : Dev) (reqs : List Req) (one : Bool) (m : Match) : Match :=
  let open_ := reqs.filter fun r => !(m.claims.any fun c => c.ptr == r.cell && c.pipes.contains r.pipe)
  let banks := (open_.map fun r => r.cell / 4096).eraseDups
  let grants := banks.flatMap fun b =>
    let room := 2 - (m.claims.filter fun c => c.bank == b).length
    (bankGrants (open_.filter fun r => r.cell / 4096 == b) (SMap.get d.buf.bankPtr b 0) room)
  let accepted := (upto 16).flatMap fun p =>
    let mine := open_.filter fun r => r.pipe == p && grants.contains r.cell
    let ptr := SMap.get d.buf.pipePtr p 0
    let order := (mine.filter (·.timed)) ++
      sortBy (fun a b => decide ((a.cell / 4096 + 256 - ptr) % 256 < (b.cell / 4096 + 256 - ptr) % 256)) (mine.filter fun r => !r.timed)
    (order.take (16 - m.accepts p)).map fun r => (p, r.cell)
  let claims := accepted.foldl (fun (l : List Claim) a =>
    if l.any fun c => c.ptr == a.2 then l.map fun c => if c.ptr == a.2 then { c with pipes := c.pipes ++ [a.1] } else c
    else l ++ [⟨a.2 / 4096, a.2, [a.1]⟩]) m.claims
  ⟨claims, if one then accepted else m.first⟩

/-- READ_MATCHING: three iterations, then the pointers move by what iteration 1 accepted (R87). -/
def Dev.readMatching (d : Dev) : Dev :=
  let reqs := d.requests
  let m1 := d.iterate reqs true ⟨[], []⟩
  let m3 := d.iterate reqs false (d.iterate reqs false m1)
  let banks := (m1.first.map fun a => a.2 / 4096).eraseDups
  let bankPtr := banks.foldl (fun (t : SMap Nat) b =>
    let ps := (m1.first.filter fun a => a.2 / 4096 == b).map (·.1)
    SMap.put t b ((ps.foldl min 16 + 1) % 16) 0) d.buf.bankPtr
  let pipePtr := (upto 16).foldl (fun (t : SMap Nat) p =>
    match m1.first.find? fun a => a.1 == p with
    | some a => SMap.put t p ((a.2 / 4096 + 1) % 256) 0
    | none => t) d.buf.pipePtr
  let left := reqs.filter fun r => !(m3.claims.any fun c => c.ptr == r.cell && c.pipes.contains r.pipe)
  { d with buf := { d.buf with claims := m3.claims, claimsFor := d.cell + 1, bankPtr := bankPtr, pipePtr := pipePtr,
                               requests := left.foldl (fun (t : SMap Nat) r => SMap.set t (reqKey r.pipe r.cell) r.since) [] } }

/-! ### Corrupt tails (R79, R105 to R107) -/

/-- A started copy ends with inverted FCS (R106). -/
def Dev.stomp (d : Dev) (c : Copy) : Dev :=
  ((d.emit (.stomp c.egress c.id)).bumpQ .BUF_PCNT c.egress 0).discard c rTAIL aSTOMPED

/-- A copy takes CORRUPT_TAIL: stomped when its head has left, discarded otherwise. -/
def Dev.corruptTail (d : Dev) (c : Copy) : Dev :=
  if c.stage == .due then d else if c.started then d.stomp c else d.discard c rTAIL

/-- BANK_READ (R88): a claimed cell is read for its pipes; ecc 1 is a corrected error, 2 an uncorrectable one, which reaches
every copy that has not yet had the cell (R79). -/
def Dev.bankRead (d : Dev) (bank ptr ecc : Nat) : Dev :=
  match d.buf.claims.find? fun c => c.bank == bank && c.ptr == ptr with
  | none => d
  | some cl =>
    let d := { d with buf := { d.buf with claims := d.buf.claims.filter fun c => c.ptr != ptr } }.takeBank bank
    let needers := (d.copyList.filter fun c => c.needs ptr && c.stage != .discard).map (·.id)
    let users := d.copyList.filter fun c => c.selected && cl.pipes.contains (pipeOf c.egress) && (d.wanted c).contains ptr
    let d := d.each users fun d c => d.updCopy c.id fun x => { x with cellsRead := x.cellsRead ++ [ptr] }
    let d := d.each users fun d c => d.dequeue (queueOf c.egress c.served)
    if ecc == 1 then d.bump F.BUF_ECC_CORR
    else if ecc == 2 then
      let d := d.bump F.BUF_ECC_UNCORR
      d.each (d.copiesOf needers) fun d c => d.corruptTail c
    else d

def Dev.frameCopies (d : Dev) (fid : Nat) : List Copy := d.copyList.filter fun c => c.frame.id == fid && c.stage != .discard

/-- A bad frame in its ingress port's FCS error counter and, where its fragments did not fit together, in RX_FRAG_ERR (R106,
R107, R371). -/
def Dev.countBad (d : Dev) (e : Nat) (frag : Bool) : Dev :=
  if 1024 ≤ e then d else (d.bumpQ .PORT_CNT e 0).when_ frag fun d => d.bumpQ .PORT_CNT e 4

/-- A frame's tail is judged: its ingress port finds it bad no more. -/
def Dev.judged (d : Dev) (fid : Nat) : Dev := { d with buf := { d.buf with rx := SMap.erase d.buf.rx fid } }

/-- BAD_TAIL (R106): the ingress port finds a frame bad after a first byte has left, be its copies still held or ended. -/
def Dev.badTail (d : Dev) (fid : Nat) (frag : Bool) : Dev :=
  match (SMap.find? d.buf.rx fid).filter (·.started) with
  | none => d
  | some x =>
    let d := d.judged fid
    let d := d.each (d.copyList.filter fun c => c.frame.id == fid) fun d c => d.updCopy c.id fun y => { y with badTail := true }
    let d := (d.when_ (decide (x.ingress < 1024)) fun d => d.bumpQ .BUF_PCNT x.ingress 1).countBad x.ingress frag
    d.each (d.frameCopies fid) fun d c => d.corruptTail c

/-- The records of a frame that is not accepted are cancelled, as far as they have no number: those of its copies, and those of
copies refused before (R107, R198; assumption 164, DEDUCED). -/
def Dev.cancelRecords (d : Dev) (fid : Nat) (l : List Copy) : Dev :=
  let d := d.each (l.filter (·.record)) fun d c => d.subOpen c.frame.partition 1
  let d := d.each (d.ev.closeList.filter fun x => x.frame == fid) fun d x => d.subOpen x.partition 1
  { d with ev := { d.ev with closeList := d.ev.closeList.filter fun x => x.frame != fid } }

/-- The end of the trace of a frame that is not accepted (R107, R509). -/
def Dev.notAccepted (d : Dev) (fr : Frame) (cls : Nat) : Dev :=
  let d := { d with buf := { d.buf with entering := SMap.erase d.buf.entering fr.id } }
  if d.traced fr then
    (d.ringWrite (traceRecord 3 fr cls 0xFF 0 fr.ann 0x07FF 0xFFFFFFFF 0xFFFFFFFF (short d.now8))).mapDrop fr
  else d

/-- FRAME_NOT_ACCEPTED (R107): found bad before any byte has left; no verdict, and its records are cancelled. A frame that
waits for its HBM lookup leaves its pipeline. -/
def Dev.frameNotAccepted (d : Dev) (fid : Nat) (frag : Bool) : Dev :=
  match (SMap.find? d.buf.rx fid).filter fun x => !x.started with
  | none => d
  | some x =>
    let l := d.frameCopies fid
    let w := d.waiting.find? fun w => w.frame.id == fid
    let d := (((d.judged fid).countBad x.ingress frag).cancelRecords fid l)
    let d := { d with waiting := d.waiting.filter fun w => w.frame.id != fid }
    match l.find? fun c => c.kind != .observation, w with
    | some c, _ => (d.notAccepted c.frame c.cls).each l fun d x => d.freeCopy x
    | none, some w =>
      let cls := w.acts.cls.getD (4 + d.f F.PIPE_PORT_DEFAULT_DEF_CLASS (pipeOf w.frame.ingress) (localOf w.frame.ingress))
      ((d.traceIngress w.frame cls 0xFF 0 0x07FF 0 0 w.acts.hits).notAccepted w.frame cls).each l fun d x => d.freeCopy x
    | none, none => d.each l fun d x => d.freeCopy x

/-! ### Merge (R169 to R174) -/

def fifoKey (g p : Nat) : Nat := g * 16 + p

def Dev.fifo (d : Dev) (g p : Nat) : List Nat := SMap.get d.hold.fifos (fifoKey g p) []

/-- Place a tagged copy in key order, past at most 32 entries; the second result tells of an overflow (R169). -/
def Dev.sortIn (d : Dev) (c : Copy) (l : List Nat) : List Nat × Bool :=
  let after := (l.reverse.takeWhile fun i => match d.copy? i with
    | some h => d.keyBefore (d.keyOf c) (d.keyOf h)
    | none => false).length
  let k := min after 32
  (l.take (l.length - k) ++ c.id :: l.drop (l.length - k), decide (32 < after))

/-- MERGE_FIFO_ENTRY (R169, R175, R176). -/
def Dev.mergeFifoEntry (d : Dev) (cid : Nat) : Dev :=
  match d.copy? cid with
  | none => d
  | some c =>
    match c.finishOf with
    | none => d
    | some g =>
      if c.stage != .mergeWait then d
      else if !d.linkUp c.egress then (d.bumpQ .FIN_CNT g 7).discard c rLINK
      else
        let i := c.frame.ingress
        let lag := upNs (d.now8 - c.frame.stamp)
        let d := if i < 1024 then d.setF F.FIN_LAG_MAX_LAG (max (d.f F.FIN_LAG_MAX_LAG i) lag) i else d
        let l := d.fifo g (pipeOf i)
        let r := if c.frame.tagged then d.sortIn c l else (l ++ [c.id], false)
        let d := { d with hold := { d.hold with fifos := SMap.set d.hold.fifos (fifoKey g (pipeOf i)) r.1 } }
        let d := if r.2 then d.bumpQ .FIN_CNT g 5 else d
        (d.updCopy cid fun x => { x with stage := .merge }).syncGroup g

/-- The head of least key among a group's FIFOs. -/
def Dev.leastHead (d : Dev) (g : Nat) : Option Copy :=
  (d.copiesOf ((upto 16).filterMap fun p => (d.fifo g p).head?)).foldl (fun (b : Option Copy) c =>
    match b with
    | none => some c
    | some x => if d.keyBefore (d.keyOf c) (d.keyOf x) then some c else b) none

/-- Record g.last (R171, R188). -/
def Dev.setLast (d : Dev) (g : Nat) (c : Copy) : Dev :=
  let k := d.keyOf c
  let d := { d with hold := { d.hold with last := SMap.set d.hold.last g k } }
  (d.setF F.FIN_GRP_LAST_NS_LAST_NS (short k.edge8) g).set .FIN_GRP_LAST_TIE
    (word (k.edge8 % 8 * 2 ^ 29 + tieOf k.id29 d.seed.1 d.seed.2)) g

/-- The merge of one group in one cell time (R171): at most `n` copies, linked in the order in which they are released. The second result is how many were taken. -/
def Dev.mergeGroup (n : Nat) (d : Dev) (g : Nat) : Dev × Nat :=
  match n with
  | 0 => (d, 0)
  | n + 1 =>
    match d.leastHead g with
    | none => (d, 0)
    | some h =>
      let late := match SMap.find? d.hold.last g with
        | some k => d.keyBefore (d.keyOf h) k
        | none => false
      if !late && d.cellStart8 < h.frame.stamp + d.windowNs g * 8 then (d, 0)
      else
        let d := { d with hold := { d.hold with fifos := dropFrom d.hold.fifos h.id } }
        let d :=
          if late && !d.on F.FIN_GRP_CFG_LATE_ACTION g then (d.condemn h rLATE).syncGroup g
          else
            let h := { h with ann := if late then h.ann ||| aLATE else h.ann, stage := .queued, order := d.adm.decisions }
            let d := if late then d.bumpQ .FIN_CNT g 1 else (d.bumpQ .FIN_CNT g 0).setLast g h
            ((d.setCopy h).enqueue h).syncGroup g
        let r := Dev.mergeGroup n d g
        (r.1, r.2 + 1)

/-- MERGE_RELEASE (R171): enabled groups in rotating order, 4 copies a group and 64 in all. -/
def Dev.mergeRelease (d : Dev) : Dev :=
  if !d.on F.FIN_CTRL_EN then d else
  let order := (upto 64).map fun i => (d.hold.mergePtr + i) % 64
  (order.foldl (fun (a : Dev × Nat) g =>
    if a.1.on F.FIN_GRP_CFG_EN g && a.2 < 64 then
      let r := Dev.mergeGroup (min 4 (64 - a.2)) a.1 g
      (r.1, a.2 + r.2)
    else a) (d, 0)).1

/-! ### Selection (R306) -/

/-- Is the selected and unsent wire length of a queue below the port rate for `ns`? -/
def Dev.laneRoom (d : Dev) (q ns : Nat) : Bool :=
  decide (wireSum ((d.copiesOf (d.lane q)).filter fun c => c.depart8.isNone) * 8000 < d.rate (q / 8) * ns)

def Dev.selectCopy (d : Dev) (c : Copy) : Dev :=
  let q := queueOf c.egress c.served
  let d := d.setCopy (d.readTails { c with selected := true, stage := .lane, useAtSel := some (d.used q) })
  { d with egr := { d.egr with lanes := SMap.set d.egr.lanes q (d.lane q ++ [c.id]) } }.dequeue q

/-- Is a best-effort copy older than its limit (R104)? -/
def Dev.aged (d : Dev) (c : Copy) : Bool :=
  let limit := d.f F.BUF_AGE_LIMIT_US (4 * c.egress + (c.served - 4))
  limit != 0 && decide (limit * 1000 < shortDiff (short (d.timeFor c d.now8)) (short c.frame.stamp8))

/-- A best-effort copy past its age limit is AGED; its verdict falls at the cell time's end (R39, R104). -/
def Dev.discardAgedBe (d : Dev) (c : Copy) : Dev := d.condemn c rAGED

/-- The ECN decision of R321 for a draw r; the open page of a segment is one of its pages (assumption 17, DEDUCED). -/
def Dev.ecnMark (d : Dev) (e c r : Nat) : Bool :=
  let p := pipeOf e
  let l := lqOf e c
  let q := queueOf e c
  if !d.on F.PIPE_ECN_CFG_EN p l then false else
  let s := d.spillOf q
  let depth := ceilDiv (d.used q) 16 + 16 * (s.pages.length + b2n (!s.openCopies.isEmpty || !s.openData.isEmpty))
  let lo := d.f F.PIPE_ECN_THR_MIN p l
  let hi := d.f F.PIPE_ECN_THR_MAX p l
  if depth < lo then false
  else if hi ≤ depth then true
  else decide (r % 256 < d.f F.PIPE_ECN_CFG_PMAX p l * (depth - lo) / (hi - lo))

/-- Selection of a best-effort copy: its age, then its ECN decision (R306, R321). -/
def Dev.selectBest (d : Dev) (c : Copy) (r : Nat) : Dev :=
  let p := pipeOf c.egress
  let l := lqOf c.egress c.served
  if d.aged c then d.discardAgedBe c
  else if d.ecnMark c.egress c.served r then
    match ecnOf c.frame.bytes with
    | some 3 => (d.bumpQ .PIPE_QCNT p l 2).selectCopy c
    | some 1 => (d.bumpQ .PIPE_QCNT p l 2).selectCopy { c with ce := true }
    | some 2 => (d.bumpQ .PIPE_QCNT p l 2).selectCopy { c with ce := true }
    | _ => if d.on F.PIPE_ECN_CFG_DROP_NOT_ECT p l then (d.bumpQ .PIPE_QCNT p l 3).discard c rQUOTA else d.selectCopy c
  else d.selectCopy c

/-- QUEUE_SELECT: the oldest unselected copy of a queue (R306). -/
def Dev.queueSelect (d : Dev) (q r : Nat) : Dev :=
  if !d.linkUp (q / 8) then d else
  match (d.copiesOf (d.queue q)).find? fun c => !c.selected with
  | none => d
  | some c =>
    if q % 8 < 4 then if d.laneRoom q 160 then d.selectCopy c else d
    else if d.laneRoom q 128 then d.selectBest c r else d

/-- Check the head of a best-effort queue, which may stand in its lane, and each next head while aged (R104, R305). -/
def Dev.agePass (fuel : Nat) (d : Dev) (q : Nat) : Dev :=
  match fuel with
  | 0 => d
  | fuel + 1 =>
    match (d.waitingOf q).head? with
    | none => d
    | some c => if d.aged c then Dev.agePass fuel (d.discardAgedBe c) q else d

/-- The first copy of a segment whose queue's on-die part is empty. -/
def Dev.ageSpilled (d : Dev) (q : Nat) : Dev :=
  if !(d.waitingOf q).isEmpty then d else
  let s := d.spillOf q
  match d.copiesOf ((s.pages.flatMap (·.copies) ++ s.openCopies).take 1) with
  | [c] => if d.aged c then d.setCopy { c with agedOut := true } else d
  | _ => d

/-- AGEING_PASS (R104). -/
def Dev.ageingPass (d : Dev) : Dev :=
  let qs := ((d.buf.queues.map (·.1)) ++ (d.egr.lanes.map (·.1))).eraseDups.filter fun q => decide (4 ≤ q % 8)
  let d := d.each qs fun d q => Dev.agePass (d.waitingOf q).length d q
  d.each (d.buf.spill.map (·.1)) fun d q => d.ageSpilled q

/-! ### Pacers (R309 to R311); tokens in 1/64000000 byte -/

def pacerUnit : Nat := 64000000

/-- Tokens a Pacer gains in 0.125 ns. -/
def pacerRate (w : Nat) : Nat :=
  if F.PIPE_QPACER_RATE_SCALE.ext w == 1 then F.PIPE_QPACER_RATE_RATE.ext w else F.PIPE_QPACER_RATE_RATE.ext w * 1000

def Dev.qPacer (d : Dev) (p l : Nat) : Bucket :=
  let cap := d.f F.PIPE_QPACER_BURST_BURST p l * pacerUnit
  (SMap.get d.egr.pacers (p * 1024 + l) ⟨cap, d.el8⟩).refill d.el8 (pacerRate (d.get .PIPE_QPACER_RATE p l).toNat) cap

def Dev.pPacer (d : Dev) (p n : Nat) : Bucket :=
  let cap := d.f F.PIPE_PPACER_BURST_BURST p n * pacerUnit
  (SMap.get d.egr.portPacers (p * 128 + n) ⟨cap, d.el8⟩).refill d.el8 (pacerRate (d.get .PIPE_PPACER_RATE p n).toNat) cap

def Dev.qPaced (d : Dev) (p l : Nat) : Bool := d.f F.PIPE_QPACER_RATE_RATE p l != 0
def Dev.pPaced (d : Dev) (p n : Nat) : Bool := d.f F.PIPE_PPACER_RATE_RATE p n != 0

/-- May the Pacers of a best-effort queue let a frame start (R305)? -/
def Dev.pacersOpen (d : Dev) (e c : Nat) : Bool :=
  let p := pipeOf e
  (!d.qPaced p (lqOf e c) || decide (0 ≤ (d.qPacer p (lqOf e c)).tokens)) &&
  (!d.pPaced p (localOf e) || decide (0 ≤ (d.pPacer p (localOf e)).tokens))

/-- Charge a start: the port Pacer's bucket never falls below −BURST (R309, R310). -/
def Dev.chargePacers (d : Dev) (e c wire : Nat) (best : Bool) : Dev :=
  let p := pipeOf e
  let d := if best && d.qPaced p (lqOf e c) then
      let b := d.qPacer p (lqOf e c)
      { d with egr := { d.egr with pacers := SMap.set d.egr.pacers (p * 1024 + lqOf e c) { b with tokens := b.tokens - wire * pacerUnit } } }
    else d
  if d.pPaced p (localOf e) then
    let b := d.pPacer p (localOf e)
    let floor : Int := -(d.f F.PIPE_PPACER_BURST_BURST p (localOf e) * pacerUnit : Nat)
    let t := b.tokens - wire * pacerUnit
    { d with egr := { d.egr with portPacers := SMap.set d.egr.portPacers (p * 128 + localOf e) { b with tokens := max floor t } } }
  else d

/-! ### Transmission (R307, R308, R145, R204) -/

/-- Is a best-effort class paused: later than 20 ns after its PFC frame (R316)? -/
def Dev.paused (d : Dev) (e c : Nat) : Bool :=
  match SMap.find? d.egr.pauses (8 * e + c) with
  | some t => decide (SMap.get d.egr.pausedAt (8 * e + c) 0 + 160 < d.el8) && decide (d.el8 < t)
  | none => false

/-- The first copy of a queue's lane whose data is ready and that has not started. -/
def Dev.laneHead (d : Dev) (q : Nat) : Option Copy :=
  match (d.copiesOf (d.lane q)).find? fun c => !c.started with
  | some c => if d.dataReady c then some c else none
  | none => none

/-- May a best-effort queue start a frame (R305)? -/
def Dev.beEligible (d : Dev) (e c : Nat) : Bool :=
  (d.laneHead (queueOf e c)).isSome && d.pacersOpen e c && !d.paused e c

/-- The fits-before rule for a frame of `len` bytes (R182). -/
def Dev.fits (d : Dev) (e len : Nat) : Bool :=
  (d.calendar e).all fun k => decide (d.now8 + d.tx e * 8 + line8 (len + 28) (d.rate e) ≤ k.launchQ8)

/-- When the tail of a frame has reached its ingress MAC, and its length is known. -/
def Dev.tailAt (d : Dev) (fr : Frame) : Nat :=
  if internal fr.ingress then fr.stamp8 else fr.stamp8 + d.rx fr.ingress * 8 + line8 fr.rxLen (d.rate fr.ingress)

/-- Length of a copy for R182: a cut-through best-effort copy counts as an MTU-length frame while its length is not known. -/
def Dev.fitLength (d : Dev) (c : Copy) : Nat :=
  if c.ct && !c.timed && decide (d.now8 < d.tailAt c.frame) then d.beMtu c.egress else c.frame.len + d.tagLen c.egress

/-- Is a launch within its guard on a port (R182)? -/
def Dev.launchNear (d : Dev) (e : Nat) : Bool :=
  (d.calendar e).any fun k => decide (k.launchQ8 ≤ d.now8 + d.tx e * 8 + k.guard8)

/-- Is preemption active for frames that start in a cell time, one after that in which it became ACTIVE (R370)? -/
def Dev.preemptsFrom (d : Dev) (e cell : Nat) : Bool := d.preemptActive e && decide (SMap.get d.ports.activeCell e 0 < cell)

/-- May a copy start now beside the pending launches (R182)? Inside a launch's guard a preemptable frame would be preempted
at once, and starts only where it fits (assumption 61, DEDUCED). -/
def Dev.mayStart (d : Dev) (c : Copy) : Bool :=
  (!c.timed && d.preemptsFrom c.egress d.cell && !d.launchNear c.egress) || d.fits c.egress (d.fitLength c)

/-- The ready timed copy of the highest class. -/
def Dev.timedReady (d : Dev) (e : Nat) : Option Copy := (upto 4).findSome? fun c => d.laneHead (queueOf e c)

/-- The version 0x01 stamp tag of a copy (R202, R204): HOLDOVER is that of the stamp under R23. -/
def Dev.stampTag (d : Dev) (c : Copy) : List Byte :=
  let t := c.frame.stamp
  let dev := if c.frame.tagged then c.frame.edgeDev else d.devNum
  let held := if c.frame.tagged then c.frame.edgeHold else bit c.ann 4
  be 2 (d.f F.EV_TAG_CFG_ETYPE) ++ be 1 1 ++ be 1 20 ++
    be 3 (b2n held * 2 ^ 23 + b2n (bit c.ann 3) * 2 ^ 22 + dev) ++ be 1 0 ++ be 6 (secOf t) ++ be 4 (nsOf t) ++ be 2 (frac16 t)

/-- The FCS over changed bytes: a frame that no stage changed keeps its own. -/
def withFcs (old new : List Byte) (len : Nat) : List Byte :=
  if new == old then slice old 0 len
  else let body := slice new 0 (len - 4); body ++ le 4 (crc32 body)

/-- TTL or hop-limit decrement (R248). -/
def decTtl (bs : List Byte) : List Byte :=
  let h := ipOffset bs
  if ipVersion bs == 4 then let w := beAt bs (h + 8) 2; if w < 256 then bs else ipv4Patch bs (h + 8) (w - 256)
  else if ipVersion bs == 6 then patchAt bs (h + 7) (be 1 (beAt bs (h + 7) 1 - 1))
  else bs

/-- An egress action on a frame's bytes and length (R248); one on a VLAN tag leaves an untagged frame as it is. -/
def EgressAct.on (x : List Byte × Nat) (a : EgressAct) : List Byte × Nat :=
  match a with
  | .mac dst addr => (patchAt x.1 (if dst then 0 else 6) (slice addr 0 6), x.2)
  | .vlanSet tci => if etherOffset x.1 == 12 then x else (patchAt x.1 14 (be 2 tci), x.2)
  | .vlanPush tpid tci => (slice x.1 0 12 ++ be 2 tpid ++ be 2 tci ++ x.1.drop 12, x.2 + 4)
  | .vlanPop => if etherOffset x.1 == 12 then x else (x.1.take 12 ++ x.1.drop 16, x.2 - 4)
  | .ttl => (decTtl x.1, x.2)
  | .dscp v => (setDscp x.1 v, x.2)
  | .stamp _ _ | .count _ => x

/-- A copy's bytes and length behind the egress stages. -/
def Dev.staged (d : Dev) (c : Copy) : List Byte × Nat := (d.egressActs c).foldl EgressAct.on (c.frame.bytes, c.frame.len)

/-- A DSCP remark, where there is one. -/
def remarked (bs : List Byte) (dscp : Option Nat) : List Byte :=
  match dscp with
  | some x => setDscp bs x
  | none => bs

/-- A copy's bytes after the egress stages (R248) and the deparser's DSCP remark, of a meter or of DEFERRED (R58, R314). -/
def Dev.editedBytes (d : Dev) (c : Copy) : List Byte :=
  remarked (d.staged c).1 c.frame.meterDscp

/-- Length of a copy after the edits of the egress stages. -/
def Dev.sentLen (d : Dev) (c : Copy) : Nat := (d.staged c).2

/-- A stamp in 0.125 ns as IVL messages carry it: seconds, nanoseconds and fraction. -/
def stampBytes (t8 : Nat) : List Byte := be 6 (secOf t8) ++ be 4 (nsOf t8) ++ be 2 (frac16 t8)

/-- A message of logical port `k` departs at `t8`: a TT_REQ opens its exchange with T1, and a TT_RESP gets T3, STEPPED if
device time stepped since it was made, and its CRC (R396, R397). -/
def Dev.ivlDepart (d : Dev) (k steps t8 : Nat) (bs : List Byte) : Dev × List Byte :=
  if beAt bs 1 1 == 1 && beAt bs 2 1 == 1 then
    let id := beAt bs 16 2
    ({ d with ivl := { d.ivl with exchanges := SMap.set d.ivl.exchanges (k * 65536 + id) ⟨id, t8, d.ivl.steps⟩ } }, bs)
  else if beAt bs 1 1 == 1 && beAt bs 2 1 == 2 then
    let x := patchAt (patchAt (bs.take 52) 36 (stampBytes t8)) 18 (be 1 (beAt bs 18 1 ||| b2n (d.ivl.steps != steps) * 4))
    (d, x ++ crc32Field x)
  else (d, bs)

/-- The same for a frame that carries a message of the Ivgon link, with the stamp of R134 (R390). -/
def Dev.ivlFrameDepart (d : Dev) (c : Copy) (d8 : Nat) (bs : List Byte) : Dev × List Byte :=
  match c.frame.ivl with
  | none => (d, bs)
  | some (k, steps) =>
    let r := d.ivlDepart k steps (d.txTrimmed c.egress d8) (slice bs 14 (20 + beAt bs 24 2))
    (r.1, patchAt bs 14 r.2)

/-- A copy's bytes as sent, and what sending them does to the time base (R145, R204, R248, R314, R321, R390). -/
def Dev.sendBytes (d : Dev) (c : Copy) (d8 : Nat) : Dev × List Byte :=
  let b1 := d.editedBytes c
  let b2 := if c.ce then setCe b1 else b1
  let r := d.ptpDepart c.frame ((d.sentLen c : Int) - c.frame.len) c.egress d8 b2
  let r := r.1.ivlFrameDepart c d8 r.2
  let tag := if d.txTag c.egress then d.stampTag c else []
  let b3 := if tag.isEmpty then r.2 else slice r.2 0 12 ++ tag ++ r.2.drop 12
  (r.1, c.frame.trapHdr ++ withFcs c.frame.bytes b3 (d.sentLen c + tag.length))

/-- The first bit of a copy leaves its port at `d8` (R307, R36, R147). -/
def Dev.startCopy (d : Dev) (c : Copy) (d8 : Nat) (extra : Nat) : Dev :=
  let e := c.egress
  let noPre := if c.timed && !d.preemptActive e then aNOPREEMPT else 0
  let c := { c with started := true, counted := false, stage := .line, ann := c.ann ||| noPre ||| extra, depart8 := some (d.timeFor c d8), startCell := d.cell,
                    fragAt := d.el8 }
  let d := ((d.setCopy c).accepted c.frame).weigh (64 + pipeOf e) 1 (d.portPartition e) 1
  let rx := match SMap.find? d.buf.rx c.frame.id with
    | some x => SMap.set d.buf.rx c.frame.id { x with started := true }
    | none => d.buf.rx
  let d := { d with buf := { d.buf with rx := rx }, egr := { d.egr with onLine := SMap.set d.egr.onLine e c.id } }
  let d := d.emptied (queueOf e c.served)
  let d := d.chargePacers e c.served c.wire (!c.timed)
  let d := (d.bumpQ .PIPE_QCNT (pipeOf e) (lqOf e c.served) 0).bumpQ .PIPE_QCNT (pipeOf e) (lqOf e c.served) 1 c.wire
  let d := (d.pcEvent 3 e (some c.served) (fun _ => true)).pcEvent 4 e (some c.served) (fun _ => true) c.wire
  let r := d.sendBytes c d8
  ((r.1.txStamps c d8).egressCounts c).emit (.frame e r.2)

/-- Start the next queued PFC frame of a port (R318). -/
def Dev.startPfc (d : Dev) (e : Nat) : Dev :=
  let fs := SMap.get d.egr.pfcPending e []
  let l := (fs.head?.map (·.2)).getD []
  let d := { d with egr := { d.egr with pfcPending := SMap.put d.egr.pfcPending e (fs.drop 1) [] } }
  let p := pipeOf e
  let n := localOf e
  let d := if l.any fun x => x.2 != 0 then d.bumpQ .PIPE_PFC_CNT p n 4 else d
  let d := if l.any fun x => x.2 == 0 then d.bumpQ .PIPE_PFC_CNT p n 5 else d
  (d.chargePacers e 0 84 false).emit (.pfc e l)

/-- One choice of deficit round robin (R308): the device and the copy to start. -/
def Dev.dwrr (fuel : Nat) (d : Dev) (e : Nat) : Dev × Option Copy :=
  match fuel with
  | 0 => (d, none)
  | fuel + 1 =>
    let k := SMap.get d.egr.dwrr e 0
    let q := queueOf e (4 + k)
    let next := fun (d : Dev) =>
      let k' := (k + 1) % 4
      { d with egr := { d.egr with dwrr := SMap.set d.egr.dwrr e k', spent := d.egr.spent.filter (· != queueOf e (4 + k')) } }
    if d.queueEmpty q then
      Dev.dwrr fuel (next { d with egr := { d.egr with deficit := SMap.put d.egr.deficit q 0 0 } }) e
    else if !d.beEligible e (4 + k) then Dev.dwrr fuel (next d) e
    else
      match d.laneHead q with
      | none => Dev.dwrr fuel (next d) e
      | some c =>
        let def0 := SMap.get d.egr.deficit q 0
        let isFresh := !d.egr.spent.contains q
        let deficit := if isFresh then def0 + d.f F.PIPE_QSCHED_QUANTUM (pipeOf e) (lqOf e (4 + k)) else def0
        let d := { d with egr := { d.egr with deficit := SMap.put d.egr.deficit q deficit 0, spent := q :: d.egr.spent.filter (· != q) } }
        if c.wire ≤ deficit then
          if d.mayStart c then ({ d with egr := { d.egr with deficit := SMap.put d.egr.deficit q (deficit - c.wire) 0 } }, some c)
          else (d, none)
        else Dev.dwrr fuel (next d) e

/-- The ready timed copy of the highest class whose head has passed R60, those that fail it being AGED; at most `fuel` heads
are looked at. The departure is that of a copy whose data waits at the MAC (assumption 120, DEDUCED). -/
def Dev.timedNext (fuel : Nat) (d : Dev) (e : Nat) : Dev × Option Copy :=
  match fuel with
  | 0 => (d, none)
  | fuel + 1 =>
    match d.timedReady e with
    | none => (d, none)
    | some c => if c.pastBound (d.now8 + d.tx e * 8) then Dev.timedNext fuel (d.discardAged c) e else (d, some c)

/-- Is a PFC frame of the port pending, and does it fit before every launch (R182, R307, R318)? -/
def Dev.pfcReady (d : Dev) (e : Nat) : Bool := (SMap.find? d.egr.pfcPending e).isSome && d.fits e 64

/-- The preempted remainder of a frame goes on. -/
def Dev.resume (d : Dev) (e cid : Nat) : Dev :=
  { d with egr := { d.egr with onLine := SMap.set d.egr.onLine e cid, preempted := SMap.erase d.egr.preempted e } }.updCopy cid
    fun c => { c with stage := .line, fragAt := d.el8 }

/-- What follows a ready timed copy that is not there or does not fit: a PFC frame, then a best-effort frame chosen by
R308, which no preempted remainder may stand before. -/
def Dev.startRest (d : Dev) (e : Nat) : Dev :=
  if d.pfcReady e then d.startPfc e
  else if (SMap.find? d.egr.preempted e).isSome then d
  else
    let r := Dev.dwrr 4 d e
    match r.2 with
    | some c => r.1.startCopy c (r.1.now8 + r.1.tx e * 8) 0
    | none => r.1

/-- TRANSMIT_START: a frame may start on a port (R307). A ready timed copy that does not fit before a launch waits, and holds
back a remainder and the lower timed classes (assumption 61, DEDUCED). -/
def Dev.transmitStart (d : Dev) (e : Nat) : Dev :=
  if !d.linkUp e || !d.pipeOn (pipeOf e) || (SMap.find? d.egr.onLine e).isSome || (e < 1024 && d.on F.PORT_STATUS_LPI_TX e) ||
      d.el8 < SMap.get d.ports.awake e 0 then d else
  let t := Dev.timedNext d.buf.copies.length d e
  let d := t.1
  match t.2 with
  | some c => if d.mayStart c then d.startCopy c (d.now8 + d.tx e * 8) 0 else d.startRest e
  | none =>
    match SMap.find? d.egr.preempted e with
    | some cid => if d.launchNear e then d.startRest e else d.resume e cid
    | none => d.startRest e

/-- Frame bytes that have left in the fragment on the line, behind its 8 bytes of preamble. -/
def Dev.fragBytes (d : Dev) (c : Copy) : Nat := (d.el8 - c.fragAt) * d.rate c.egress / 64000 - 8

/-- Is the frame on the line at a point that IEEE 802.3br allows (R307): a fragment of 64 bytes, 4 of them its mCRC, with 64
bytes remaining (assumption 167, DEDUCED)? -/
def Dev.atPoint (d : Dev) (c : Copy) : Bool := decide (60 ≤ d.fragBytes c) && decide (c.sent + d.fragBytes c + 64 + 20 ≤ c.wire)

/-- May a best-effort frame on the line be preempted: preemption was active for it when it started (R370), and it stands at a
point for it? -/
def Dev.preemptable (d : Dev) (c : Copy) : Bool := !c.timed && d.preemptsFrom c.egress c.startCell && d.atPoint c

/-- PREEMPT_FRAME: a timed copy, a PFC frame or a launch preempts the best-effort frame on the line (R307, R182). A PFC
frame that preempts starts at that point. -/
def Dev.preemptFrame (d : Dev) (e : Nat) : Dev :=
  match (SMap.find? d.egr.onLine e).bind d.copy? with
  | none => d
  | some c =>
    let pfc := d.pfcReady e
    if d.preemptable c && ((d.timedReady e).isSome || pfc || d.launchNear e) then
      let first := pfc && (d.timedReady e).isNone && !d.launchNear e
      let d := { d with egr := { d.egr with onLine := SMap.erase d.egr.onLine e, preempted := SMap.set d.egr.preempted e c.id } }
      let d := (d.setCopy { c with stage := .preempted, sent := c.sent + d.fragBytes c }).bumpQ .PIPE_PFC_CNT (pipeOf e) (localOf e) 7
      if first then d.startPfc e else d
    else d

/-- COPY_DEPARTURE: the last bit leaves the egress MAC (R36). -/
def Dev.copyDeparture (d : Dev) (cid : Nat) : Dev :=
  match d.copy? cid with
  | none => d
  | some c =>
    if c.stage != .line then d else
    let d := if c.egress == 1026 then d.mapOwe c.frame 2 else d
    let d := d.outcome c (if c.deferred then 1 else 0) 0 0
    let d := (if c.heldOver && !c.timed && c.egress < 1032 then d.bumpQ .BUF_PCNT c.egress 2 else d).judged c.frame.id
    let again := { c.frame with bytes := d.editedBytes c, len := d.sentLen c }
    let d := if c.egress == 1026 then { d with buf := { d.buf with recirc := d.buf.recirc ++ [again] } } else d
    d.freeCopy c

/-! ### Launches (R181, R182, R185, R193) -/

/-- LAUNCH_ELIGIBLE (R181): from P' − fix(m) − LEAD_NS on, with fix of that moment, the copy becomes eligible for read
matching. -/
def Dev.launchEligible (d : Dev) (cid : Nat) : Dev :=
  d.updCopy cid fun c =>
    if c.stage == .calendar && c.releaseOf.isSome && c.launchQ8 ≤ d.now8 + (d.fix c.egress + d.f F.STG_CTRL_LEAD_NS) * 8 then
      { c with eligible := true, selected := true, useAtSel := some (d.used (queueOf c.egress c.served)) }
    else c

/-- LAUNCH (R181): the first bit crosses the ball at P', or at once when the copy has slipped. -/
def Dev.launch (d : Dev) (cid : Nat) : Dev :=
  match d.copy? cid with
  | none => d
  | some c =>
    match c.releaseOf with
    | none => d
    | some r =>
      if c.stage != .calendar || !c.eligible || !d.dataReady c || (SMap.find? d.egr.onLine c.egress).isSome then d else
      let soonest := d.now8 + d.tx c.egress * 8
      let slipped := decide (c.launchQ8 < soonest)
      let d8 := max c.launchQ8 soonest
      if c.pastBound d8 then d.discardAged c
      else
        let late := decide (c.launchP8 < c.launchQ8)
        let d := d.bumpQ .STG_CNT r (if late then 1 else 0)
        let d := if slipped then (d.bumpQ .STG_CNT r 7).bump F.STG_PORT_STAT_SLIPPED c.egress else d
        let c := { c with slipped := slipped }
        let d := { d with hold := { d.hold with calendars := dropFrom d.hold.calendars c.id } }.syncCalendar c.egress
        d.startCopy c d8 (if late then aLATE else 0)

/-! ### Received PFC and PAUSE (R316, R317) -/

def Dev.partnerEth (d : Dev) (e : Nat) : Dev := d.logViolation 7 mNone false false e 0

def Dev.setPaused (d : Dev) (e k : Nat) (b : Bool) : Dev :=
  let p := pipeOf e
  let n := localOf e
  let x := d.f F.PIPE_PFC_STATE_PAUSED p n
  d.setF F.PIPE_PFC_STATE_PAUSED (if b then x ||| 2 ^ k else x &&& (15 - 2 ^ k)) p n

/-- When the pause that a new PFC frame prolongs or begins was received: a later frame only replaces the time left of a pause
that runs (R316). -/
def Dev.pausedSince (d : Dev) (e c : Nat) : Nat :=
  match SMap.find? d.egr.pauses (8 * e + c) with
  | some t => if d.el8 < t then SMap.get d.egr.pausedAt (8 * e + c) d.el8 else d.el8
  | none => d.el8

/-- Pause or resume one priority's class (R316). -/
def Dev.pausePriority (d : Dev) (e prio time : Nat) : Dev :=
  let c := bits (d.f F.PIPE_PFC_CFG_RX_MAP (pipeOf e) (localOf e)) (3 * prio + 2) (3 * prio)
  if c < 4 then
    if time == 0 then d else (d.partnerEth e).bumpQ .PIPE_PFC_CNT (pipeOf e) (localOf e) 1
  else if time == 0 then
    { d with egr := { d.egr with pauses := SMap.erase d.egr.pauses (8 * e + c), pausedAt := SMap.erase d.egr.pausedAt (8 * e + c) } }.setPaused e (c - 4) false
  else
    { d with egr := { d.egr with pauses := SMap.set d.egr.pauses (8 * e + c) (d.el8 + line8 (64 * time) (d.rate e)),
                                 pausedAt := SMap.set d.egr.pausedAt (8 * e + c) (d.pausedSince e c) } }.setPaused e (c - 4) true

/-- PFC_FRAME_RECEIVE (R316, R317). -/
def Dev.pfcReceive (d : Dev) (e enables : Nat) (times : List Nat) : Dev :=
  if e ≥ 1024 then d
  else if !d.on F.PIPE_PFC_CFG_EN_RX (pipeOf e) (localOf e) then d.bumpQ .PIPE_PFC_CNT (pipeOf e) (localOf e) 2
  else
    let d := d.bumpQ .PIPE_PFC_CNT (pipeOf e) (localOf e) 0
    d.each ((upto 8).filter fun p => bit enables p) fun d p => d.pausePriority e p (times.getD p 0 % 65536)

/-- PAUSE_RX (R317): never acted on. -/
def Dev.pauseRx (d : Dev) (e : Nat) : Dev :=
  if e < 1024 then (d.partnerEth e).bumpQ .PIPE_PFC_CNT (pipeOf e) (localOf e) 3 else d

/-- PAUSE_EXPIRY: the pause of best-effort class k of port e runs out. -/
def Dev.pauseExpiry (d : Dev) (e k : Nat) : Dev :=
  if (SMap.find? d.egr.pauses (8 * e + 4 + k)).isSome && k < 4 then
    { d with egr := { d.egr with pauses := SMap.erase d.egr.pauses (8 * e + 4 + k), pausedAt := SMap.erase d.egr.pausedAt (8 * e + 4 + k) } }.setPaused e k false
  else d

/-- PFC_REFRESH: usage of (i, k) is still at or above XON (R318). -/
def Dev.pfcRefresh (d : Dev) (i k : Nat) : Dev :=
  if k < 4 && d.pfcTx i && d.xoff i k && d.f F.PIPE_PFC_THR_XON_SECTORS (pipeOf i) (4 * localOf i + k) ≤ d.usageOf i k then
    d.queuePfc i k (d.pfcQuanta i)
  else d

/-! ### Link loss (R108, R109, R176, R185, R320) -/

/-- Copies whose verdict is given and whose descriptors a discard walk will free (R81). -/
def Dev.toDiscard (d : Dev) (c : Copy) (reason : Nat) : Dev :=
  let d := (d.outcome c (c.discardVerdict reason) reason 0).unlink c
  let d := d.setCopy { c with stage := .discard, counted := false, record := false }
  let p := pipeOf c.egress
  { d with buf := { d.buf with discards := SMap.set d.buf.discards p (SMap.get d.buf.discards p [] ++ [c.id]) } }

/-- DISCARD_WALK: up to 16 descriptors of a pipe's discard lists (R81). -/
def Dev.discardWalk (d : Dev) (p : Nat) : Dev :=
  let l := SMap.get d.buf.discards p []
  let d := d.each (d.copiesOf (l.take 16)) fun d c => d.freeCopy c
  { d with buf := { d.buf with discards := SMap.put d.buf.discards p ((SMap.get d.buf.discards p []).filter fun x => !(l.take 16).contains x) [] } }

/-- Copies of a queue found AGED in this cell time, which take LINK_DOWN instead (R39, R109). -/
def Dev.dueOf (d : Dev) (q : Nat) : List Nat :=
  ((d.copiesOf (d.buf.due.map (·.1))).filter fun c => queueOf c.egress c.served == q && c.finishOf.isNone).map (·.id)

/-- Every copy of a queue that has not started: waiting on its list or in its lane, waiting to be linked, or found AGED. -/
def Dev.allOf (d : Dev) (q : Nat) : List Nat := (d.waitingOf q).map (·.id) ++ SMap.get d.buf.overflow q [] ++ d.dueOf q

/-- Detach a queue: every copy of it takes LINK_DOWN. -/
def Dev.detach (d : Dev) (q : Nat) : Dev := d.each (d.copiesOf (d.allOf q)) fun d c => d.toDiscard c rLINK

/-- SPD reads `n` bytes at an offset of a spill page through port SPR; what the bucket lacks it owes (R339, assumption 136,
DEDUCED). -/
def Dev.readPage (d : Dev) (q page o n : Nat) : Dev :=
  let d := { d with buf := { d.buf with sprTokens := d.sprTokens - 8 * n, sprAt := d.el8 } }
  d.askRead 3 (page * 4096 + o) n (d.portPartition (q / 8))

/-- A segment breaks at a page: the copies from there to its tail are lost. EVX closes those of stamped copies as REFUSED (R351). -/
def Dev.breakAt (d : Dev) (pages : List SpillPage) (openCopies : List Nat) : Dev :=
  let all := d.copiesOf (pages.flatMap (·.copies) ++ openCopies)
  let lost := (all.filter fun c => !c.stamped).length
  let d := d.setQ .HBM_SPILL_LOST (d.q .HBM_SPILL_LOST + lost)
  let d := d.each all fun d c => if c.stamped then (d.outcome c 2 rTAIL 0).freeCopy c else d.discard c rTAIL
  let d := { d with buf := { d.buf with reclaimPending := d.buf.reclaimPending ++ pages.map (fun (x : SpillPage) => x.page) } }
  (d.setF F.HBM_ERR_STAT_SEG_BREAK 1).setF F.HBM_STATUS_RECLAIM_BUSY 1

/-- A queue's segment is its own no more, and the queue leaves the spilled state. -/
def Dev.dropSpill (d : Dev) (q : Nat) : Dev :=
  if d.spilled q then ({ d with buf := { d.buf with spill := SMap.erase d.buf.spill q } }.setF F.BUF_QUSE_SPILLED 0 q).emptied q else d

/-- The segment breaks at its oldest page (R351). -/
def Dev.segBreak (d : Dev) (q : Nat) : Dev :=
  let s := d.spillOf q
  (d.breakAt s.pages s.openCopies).dropSpill q

/-- Copies of a detached best-effort queue take LINK_DOWN (R108). -/
def Dev.holdDiscard (d : Dev) (e : Nat) (ids : List Nat) : Dev :=
  d.each (d.copiesOf ids) fun d c => (d.bumpQ .BUF_PCNT e 3).toDiscard c rLINK

/-- SPD walks a detached segment: it reads the header of the oldest page, and behind the last page the copies of the open one go
(R108, R350; assumption 169, DEDUCED). -/
def Dev.walkDetached (d : Dev) (x : Detached) : Dev :=
  match x.pages with
  | [] => d.holdDiscard (x.queue / 8) x.openCopies
  | p :: _ => { d with buf := { d.buf with detached := d.buf.detached ++ [x] } }.readPage x.queue p.page 0 256

/-- The detached segment that waits for a granule of its oldest page's header. -/
def Dev.detachAt (d : Dev) (granule : Nat) : Option Detached :=
  d.buf.detached.find? fun x => match x.pages with
    | p :: _ => granule == p.page * 16 + b2n x.first.isSome
    | [] => false

/-- A header half comes back (R350): with a bad word in the first, SPD reads the second; with both bad, the segment breaks there
(R351). A bad half beside one that serves is logged as such (R353). -/
def Dev.headerRead (d : Dev) (x : Detached) (found : List Nat) : Dev :=
  let d := { d with buf := { d.buf with detached := d.buf.detached.erase x } }
  match x.pages with
  | [] => d
  | p :: rest =>
    let log := fun (d : Dev) (kind h : Nat) (ws : List Nat) => d.each ws fun d w => d.hbmError kind (p.page * 4096 + 256 * h + 8 * w) 3
    if found.isEmpty then
      let d := ((log d 2 0 (x.first.getD [])).holdDiscard (x.queue / 8) p.copies).unhold 5 p.page
      d.walkDetached { x with pages := rest, first := none }
    else match x.first with
      | none =>
        let d := { d with buf := { d.buf with detached := d.buf.detached ++ [{ x with first := some found }] } }
        d.readPage x.queue p.page 256 256
      | some l => (log (log d 1 0 l) 1 1 found).breakAt x.pages x.openCopies

/-- Best-effort copies detached at hold expiry, and their spill segments (R108). -/
def Dev.detachBest (d : Dev) (e : Nat) : Dev :=
  d.each ((upto 4).map fun k => queueOf e (4 + k)) fun d q =>
    let s := d.spillOf q
    ((d.holdDiscard e (d.allOf q)).dropSpill q).walkDetached ⟨q, s.pages, s.openCopies, none⟩

/-- Is a finish-group copy counted in LINK_DOWN_HELD (R190): one that the group still holds, or found FINISH_LATE at its release? -/
def Dev.heldAtGroup (d : Dev) (c : Copy) : Bool := c.stage != .due || d.buf.due.contains (c.id, rLATE)

/-- Held finish-group copies of a destination are refused (R176), and those that its queue found AGED in this cell time (R109). -/
def Dev.refuseHeld (d : Dev) (e : Nat) : Dev :=
  d.each (d.copyList.filter fun c => c.egress == e && c.finishOf.isSome && (c.stage == .mergeWait || c.stage == .merge || c.stage == .due)) fun d c =>
    match c.finishOf with
    | some g => (d.when_ (d.heldAtGroup c) fun d => d.bumpQ .FIN_CNT g 7).discard c rLINK
    | none => d

/-- Does the copy stand in its queue, in whatever part of it? -/
def Copy.onQueue (c : Copy) : Bool := c.stage == .queued || c.stage == .overflow || c.stage == .spilled || c.stage == .lane

/-- Everything a link loss does to the frames of a port (R108, R176, R185, R320). -/
def Dev.linkLost (d : Dev) (e : Nat) : Dev :=
  let d := d.each (d.copyList.filter fun c => c.egress == e && (c.stage == .line || c.stage == .preempted)) fun d c => d.discard c rLINK
  let d := d.each (upto 4) fun d c => d.detach (queueOf e c)
  let d := d.refuseHeld e
  let d := d.each (d.copyList.filter fun c => c.egress == e && c.releaseOf.isSome && c.stage == .calendar) fun d c => d.toDiscard c rLINK
  let d := d.each (d.copyList.filter fun c => c.egress == e && !c.timed && c.onQueue) fun d c => d.updCopy c.id fun x => { x with heldOver := true }
  let d := d.each (upto 4) fun d k =>
    let d := { d with egr := { d.egr with pauses := SMap.erase d.egr.pauses (8 * e + 4 + k), pausedAt := SMap.erase d.egr.pausedAt (8 * e + 4 + k) } }.setPaused e k false
    d.setXoff e k false
  let d := { d with egr := { d.egr with pfcPending := SMap.erase d.egr.pfcPending e } }
  if d.f F.BUF_PORT_CFG_LINK_HOLD e == 0 then
    { d with buf := { d.buf with holdExpired := e :: d.buf.holdExpired.filter (· != e) } }.detachBest e
  else { d with buf := { d.buf with hold := SMap.set d.buf.hold e d.time.ticks, holdExpired := d.buf.holdExpired.filter (· != e) } }

/-- LINK_HOLD_EXPIRY (R108). -/
def Dev.linkHoldExpiry (d : Dev) (e : Nat) : Dev :=
  if (SMap.find? d.buf.hold e).isSome && !d.linkUp e then
    { d with buf := { d.buf with hold := SMap.erase d.buf.hold e, holdExpired := e :: d.buf.holdExpired.filter (· != e) } }.detachBest e
  else d

/-- The link returns (R108, R320): the hold stops, and XOFF is sent again where usage is at or above it. -/
def Dev.linkReturned (d : Dev) (e : Nat) : Dev :=
  let d := { d with buf := { d.buf with hold := SMap.erase d.buf.hold e, holdExpired := d.buf.holdExpired.filter (· != e) } }
  d.each (upto 4) fun d k => d.pfcCheck e k

/-! ### Refill (R103, R350, R351) -/

/-- RECLAIM_PASS (R351): through port SCR, SPD follows the headers of the live segments, marks their pages in the reclaim
bitmap (for the pages that requester 16 holds, eight to a byte as in the free bitmaps), and frees those not marked. -/
def Dev.reclaimPass (d : Dev) : Dev :=
  let live := (d.buf.spill.flatMap fun s => s.2.pages.map (·.page)) ++ d.buf.detached.flatMap fun s => s.pages.map (·.page)
  let held := d.buf.holders.filterMap fun p => if p.1 / 2 ^ 26 == 5 && p.2 == 16 then some (p.1 % 2 ^ 26) else none
  let mine := held.filter fun p => !live.contains p
  let d := d.each live fun d p => d.askRead 7 (p * 4096) 256
  let d := d.each (held.map (· / 8)).eraseDups fun d b => d.hbmPost 7 (controlBase + 1001 * 2 ^ 20 + b) [bitmapByte live (8 * b)]
  let d := d.each mine fun d p => d.unhold 5 p
  { d with buf := { d.buf with reclaimPending := [] } }.setF F.HBM_STATUS_RECLAIM_BUSY 0

/-- Bring one copy back on die under steps 1 and 3 of R91; none when it does not fit. -/
def Dev.refillCopy (d : Dev) (c : Copy) (pick : Nat) : Option Dev :=
  let q := queueOf c.egress c.served
  if c.agedOut || d.aged c then some (d.discardAgedBe c)
  else
    let n := sectorsOf c.frame.len
    match d.chargeFor c q n true with
    | none => none
    | some x =>
      match Dev.placeIn (n + 2) d q 16 n pick false [] none with
      | none => none
      | some (d, cells, first) =>
        let c := { c with cells := cells, firstSector := first, chMin := x.min_, chRes := x.res, chShared := x.shared, chHead := x.head, enqCell := d.cell }
        let d := (d.weighCells c.frame cells).countHead c x
        some ((((d.takeCharge q x true).setCopy c).usageMove c n).linkOrWait c)

/-- Does word `w` of a page hold bytes of a copy that starts in it? Words from 512 on are those of the pages behind it, in
which a copy continues (R350). -/
def Copy.inWord (c : Copy) (pg : SpillPage) (w : Nat) : Bool :=
  let x := pg.base + w / 512 * 3584 + (w % 512 * 8 - 512)
  decide (64 ≤ w % 512) && decide (x < c.spillAt + 16 + c.frame.len) && decide (c.spillAt < x + 8)

/-- The uncorrectable words a refill's read of its pages finds: counted, and logged (R347, R350, R353). -/
def Dev.refillErrors (d : Dev) (pages : List Nat) (bad : List Nat) : Dev :=
  let half := fun h => bad.any fun w => w / 32 == h
  let addr := fun w => pages.getD (w / 512) 0 * 4096 + w % 512 * 8
  (d.badFound (bad.map fun w => addr w / 8)).each bad fun d w =>
    d.hbmError (if w < 64 && half (0 : Nat) != half 1 then 2 else 1) (addr w) 3

/-- The words known to be uncorrectable that a refill of a segment's oldest page reads: those of the page, and those of the pages
behind it in which one of its copies continues (R350). -/
def Dev.knownIn (d : Dev) (s : SpillSeg) (pg : SpillPage) : List Nat :=
  (s.pages.take 6).zipIdx.flatMap fun x => d.hbm.bad.filterMap fun (w : Nat) =>
    let k := 512 * x.2 + w % 512
    if w / 512 == x.1.page && (x.2 == 0 || (d.copiesOf pg.copies).any fun c => c.inWord pg k) then some k else none

/-- SPILL_REFILL (R103): the oldest page of a queue's segment comes back on die. `bad` names the uncorrectable words its read
finds, from 0 in the header: with one bad half the other serves, with both the segment breaks, and a copy with a bad word is
a corrupt tail (R350, R351). -/
def Dev.spillRefill (d : Dev) (q : Nat) (bad : List Nat) (pick : Nat) : Dev :=
  let s := d.spillOf q
  match s.pages with
  | [] => d.leaveSpill q
  | pg :: rest =>
    let bad := (bad ++ d.knownIn s pg).eraseDups
    let half := fun h => bad.any fun w => w / 32 == h
    if d.f F.BUF_CTRL_REFILL_CELLS * 16 ≤ d.used q || d.sprTokens < 32768 then d
    else if half 0 && half 1 then ((d.readPage q pg.page 0 512).refillErrors [pg.page] (bad.filter (· < 64))).segBreak q
    else
      let d0 := (d.readPage q pg.page 0 4096).refillErrors (s.pages.map fun (x : SpillPage) => x.page) bad
      let bad := ((d0.copiesOf pg.copies).filter fun c => bad.any fun w => c.inWord pg w).map (·.id)
      let d1 := d0.each (d0.copiesOf bad) fun d c => d.discard c rTAIL
      let r := (d1.copiesOf (pg.copies.filter fun x => !bad.contains x)).foldl (fun (a : Option Dev) c => a.bind fun d => d.refillCopy c pick) (some d1)
      match r with
      | none => d
      | some d =>
        let d := { d with buf := { d.buf with spill := SMap.set d.buf.spill q { d.spillOf q with pages := rest } } }
        (d.unhold 5 pg.page).leaveSpill q

end Sys2Proof.Machine
end

