-- ==== Sys2Proof/Machine/Heats.lean ====
section
/-! DEFINITION. Heats (R252 to R259): visibility of versioned entries, the operations of R255 and the transitions that
happen by themselves. -/

namespace Sys2Proof.Machine

/-! ### Visibility (R253, R254) -/

def Dev.oldestHeat (d : Dev) : Nat := (d.heat.live.head?.map (·.1)).getD 0
def Dev.currentHeat (d : Dev) : Nat := (d.heat.live.getLast?.map (·.1)).getD 0
def Dev.stagedHeat (d : Dev) : Nat := d.f F.ID_HEAT_STATE_STAGED
def Dev.staging (d : Dev) : Bool := d.on F.ID_HEAT_STATE_STAGING

/-- pos(h) of R253. -/
def Dev.pos (d : Dev) (h : Nat) : Nat := (h + 16 - d.oldestHeat) % 16

/-- Is an entry with these marks visible to a frame of Heat `h` (R253)? A mark of a retired Heat counts as its cleanup
will leave it. -/
def Dev.visible (d : Dev) (add del : Option Nat) (h : Nat) : Bool :=
  (match add with
    | none => true
    | some a => d.heat.cleaning.contains a || decide (d.pos a ≤ d.pos h)) &&
  (match del with
    | none => true
    | some x => !d.heat.cleaning.contains x && decide (d.pos h < d.pos x))

/-- The Heat of a frame with local ingress stamp `s8` (R254). -/
def Dev.heatOf (d : Dev) (s8 : Nat) : Nat :=
  match d.heat.live.reverse.find? fun x => match x.2 with
    | none => true
    | some t => decide (t ≤ s8) with
  | some x => x.1
  | none => d.oldestHeat

/-! ### Marks of raw entries (R273) -/

/-- Marks of a control field: ADD and DEL where they are valid. -/
def ctlAdd (c : Nat) : Option Nat := if bit c 9 then some (bits c 8 5) else none
def ctlDel (c : Nat) : Option Nat := if bit c 4 then some (bits c 3 0) else none

/-- Clear ADD_V or DEL_V with its Heat. -/
def noAdd (c : Nat) : Nat := c - bits c 9 5 * 32
def noDel (c : Nat) : Nat := c - bits c 4 0

/-- Even parity over a number of bits: the bit that makes the count even (R273). -/
def parityOf (w n : Nat) : Nat := ((upto n).foldl (fun a i => a + b2n (bit w i)) 0) % 2

/-- The control field of an entry of `w` bits. -/
def ctlOf (w e : Nat) : Nat := bits e (w - 1) (w - 16)

/-- Put a control field into an entry, with its parity. -/
def withCtl (w e c : Nat) : Nat :=
  let x := e % 2 ^ (w - 16) + (c % 2 ^ 15) * 2 ^ (w - 16)
  x + parityOf x (w - 1) * 2 ^ (w - 1)

/-- A TCAM entry with a control field, and the parity of its key, mask and result word (R273, R278). -/
def TcamEnt.withCtl (x : TcamEnt) (c : Nat) : TcamEnt :=
  let r := x.res % 2 ^ 16 + c % 2 ^ 15 * 2 ^ 16
  { x with res := r + parityOf (x.key + x.mask * 2 ^ 512 + r * 2 ^ 1024) 1055 * 2 ^ 31 }

def TcamEnt.ctl (x : TcamEnt) : Nat := bits x.res 31 16

def ctlValid (c : Nat) : Bool := bit c 14
def ctlLearned (c : Nat) : Bool := bit c 13

/-- What the cleanup of retired Heats leaves of a control field: nothing, or the field without its ADD mark (R256). -/
def cleanedCtl (hs : List Nat) (c : Nat) : Option Nat :=
  match ctlDel c with
  | some x => if hs.contains x then none else some (match ctlAdd c with
      | some a => if hs.contains a then noAdd c else c
      | none => c)
  | none => some (match ctlAdd c with
      | some a => if hs.contains a then noAdd c else c
      | none => c)

/-- What an abort leaves of a control field: nothing for an addition, else the field without its DEL mark (R255). -/
def abortedCtl (hs : List Nat) (c : Nat) : Option Nat :=
  match ctlAdd c with
  | some a => if hs.contains a then none else some (match ctlDel c with
      | some x => if hs.contains x then noDel c else c
      | none => c)
  | none => some (match ctlDel c with
      | some x => if hs.contains x then noDel c else c
      | none => c)

/-- The same for marks held apart. -/
def cleanedMarks (hs : List Nat) (m : Option Nat × Option Nat) : Option (Option Nat × Option Nat) :=
  match m.2 with
  | some x => if hs.contains x then none else some (m.1.filter (fun a => !hs.contains a), m.2)
  | none => some (m.1.filter (fun a => !hs.contains a), none)

def abortedMarks (hs : List Nat) (m : Option Nat × Option Nat) : Option (Option Nat × Option Nat) :=
  match m.1 with
  | some a => if hs.contains a then none else some (m.1, m.2.filter (fun x => !hs.contains x))
  | none => some (none, m.2.filter (fun x => !hs.contains x))

/-- Entry widths of the tables held as raw entries (R274, R275, R279). -/
def widthOf (t : Nat) : Nat := if t == 0 then 128 else if t == 1 || t == 2 then 256 else 512

/-! ### Cleanup -/

/-- Occupancy of a table changes by a signed count. -/
def Dev.moveOcc (d : Dev) (t : Nat) (n : Int) : Dev := d.setF F.TBL_OCC_USED (((d.f F.TBL_OCC_USED t : Nat) + n).toNat) t
def Dev.moveCam (d : Dev) (t : Nat) (n : Int) : Dev := d.setF F.TBL_CAM_CAM_USED (((d.f F.TBL_CAM_CAM_USED t : Nat) + n).toNat) t

def lpmUnits (fam : Nat) : Nat := if fam == 6 then 2 else 1

/-- A shadow block of an LPM prefix returns to its pool (R276, assumption 24, DESIGN CHOICE). -/
def Dev.freeShadow (d : Dev) (key : Nat) : Dev := if key == 0 then d else d.unhold (key / 2 ^ 26) (key % 2 ^ 26)

/-- The entries of a table that are in use. -/
def inUse (w : Nat) (m : SMap Nat) : Nat := (m.filter fun p => ctlValid (ctlOf w p.2)).length

def tcamInUse (m : SMap TcamEnt) : Nat := (m.filter fun p => ctlValid (TcamEnt.ctl p.2)).length

/-- Rewrite every versioned entry by what a cleanup leaves of its marks (R255, R256). -/
def Dev.sweepMarks (d : Dev) (ctl : Nat → Option Nat) (marks : Option Nat × Option Nat → Option (Option Nat × Option Nat)) : Dev :=
  let em := d.tbl.em.filterMap fun p =>
    let t := p.1 / 2 ^ 40
    let w := widthOf t
    if t == 6 then some p else (ctl (ctlOf w p.2)).map fun c => (p.1, withCtl w p.2 c)
  let goneEm := d.tbl.em.filter fun p => ctlValid (ctlOf (widthOf (p.1 / 2 ^ 40)) p.2) && !(em.any fun x => x.1 == p.1)
  let action := d.tbl.action.filterMap fun p => (ctl (ctlOf 512 p.2)).map fun c => (p.1, withCtl 512 p.2 c)
  let tcam := d.tbl.tcam.filterMap fun p => (ctl (TcamEnt.ctl p.2)).map fun c => (p.1, TcamEnt.withCtl p.2 c)
  let lpm := d.tbl.lpm.filterMap fun x => (marks (x.add, x.del)).map fun m => { x with add := m.1, del := m.2 }
  let goneLpm := d.tbl.lpm.filter fun x => (marks (x.add, x.del)).isNone
  let trans := d.parse.trans.map fun p => (p.1, p.2.filterMap fun x => (marks (x.add, x.del)).map fun m => { x with add := m.1, del := m.2 })
  let nA := inUse 512 d.tbl.action - inUse 512 action
  let nT := tcamInUse d.tbl.tcam - tcamInUse tcam
  let d := { d with tbl := { d.tbl with em := em, action := action, tcam := tcam, lpm := lpm }, parse := { d.parse with trans := trans } }
  let d := d.each goneEm fun d p =>
    let d := d.moveOcc (p.1 / 2 ^ 40) (-1)
    if p.1 % 2 ^ 40 < 2 ^ 31 then d else d.moveCam (p.1 / 2 ^ 40) (-1)
  let d := (d.moveOcc 4 (-(nA : Int))).moveOcc 5 (-(nT : Int))
  d.each goneLpm fun d x => (d.moveOcc 3 (-(lpmUnits x.fam : Int))).freeShadow x.block

/-! ### Operations (R255) -/

def Dev.heatStatus (d : Dev) (n : Nat) : Dev := d.setF F.ID_HEAT_CTRL_STATUS n

/-- OPEN. -/
def Dev.heatOpen (d : Dev) : Dev :=
  if d.staging || d.heat.pendingAt.isSome || 15 ≤ d.heat.live.length || !d.heat.cleaning.isEmpty || !d.heat.aborted.isEmpty then d.heatStatus 2
  else ((d.setF F.ID_HEAT_STATE_STAGING 1).setF F.ID_HEAT_STATE_STAGED ((d.currentHeat + 1) % 16)).heatStatus 1

/-- No Heat is STAGING or PENDING: STAGED then reads 0, as after reset (assumption 37, DEDUCED). -/
def Dev.noStaged (d : Dev) : Dev :=
  ((d.setF F.ID_HEAT_STATE_STAGING 0).setF F.ID_HEAT_STATE_PENDING 0).setF F.ID_HEAT_STATE_STAGED 0

/-- A STAGING Heat becomes PENDING with a commit time. -/
def Dev.heatPending (d : Dev) (t8 : Nat) : Dev :=
  { (((d.setF F.ID_HEAT_STATE_STAGING 0).setF F.ID_HEAT_STATE_PENDING 1).heatStatus 1) with heat := { d.heat with pendingAt := some t8 } }

/-- COMMIT_NOW. -/
def Dev.commitNow (d : Dev) : Dev := if d.staging then d.heatPending (d.now8 + 8000) else d.heatStatus 3

/-- COMMIT_AT. -/
def Dev.commitAt (d : Dev) : Dev :=
  let t := d.regTime .ID_HEAT_AT_NS .ID_HEAT_AT_SEC_LO .ID_HEAT_AT_SEC_HI
  if !d.staging then d.heatStatus 3
  else if 1000000000 ≤ d.f F.ID_HEAT_AT_NS_NS then d.heatStatus 6
  else if t < d.now8 + 8000 then d.heatStatus 4
  else d.heatPending t

/-- ABORT: too late in the cell time that contains the commit time. -/
def Dev.heatAbort (d : Dev) : Dev :=
  let go := fun (d : Dev) =>
    let h := { d.heat with pendingAt := none, aborted := d.stagedHeat :: d.heat.aborted }
    { d.noStaged.heatStatus 1 with heat := h }
  if d.staging then go d
  else match d.heat.pendingAt with
    | none => d.heatStatus 3
    | some t => if t / 20 ≤ d.now8 / 20 then d.heatStatus 5 else go d

/-- A write of ID_HEAT_CTRL with an OP (R266). -/
def Dev.heatOp (d : Dev) (op : Nat) : Dev :=
  if op == 1 then d.heatOpen else if op == 2 then d.commitNow else if op == 3 then d.commitAt else if op == 4 then d.heatAbort else d

/-! ### Transitions by themselves (R255, R256) -/

def Dev.syncHeat (d : Dev) : Dev :=
  ((d.setF F.ID_HEAT_STATE_DRAINING (d.heat.live.length - 1)).setF F.ID_HEAT_STATE_OLDEST d.oldestHeat).setF F.ID_HEAT_STATE_CURRENT d.currentHeat

/-- ABORT_CLEANUP_DONE. -/
def Dev.abortCleanup (d : Dev) : Dev :=
  let hs := d.heat.aborted
  let d := d.sweepMarks (abortedCtl hs) (abortedMarks hs)
  { d with heat := { d.heat with aborted := [] } }

/-- HEAT_COMMIT: the PENDING Heat becomes CURRENT. -/
def Dev.heatCommit (d : Dev) : Dev :=
  match d.heat.pendingAt with
  | none => d
  | some t =>
    let old := d.currentHeat
    let n := d.stagedHeat
    let d := { d with heat := { d.heat with live := d.heat.live ++ [(n, some t)], pendingAt := none, drainAt := SMap.set d.heat.drainAt old d.time.ticks } }
    d.noStaged.syncHeat.onInterval fun i => { i with heatChanged := true }

/-- Is a copy or frame of a Heat in flight anywhere (R256)? -/
def Dev.heatInFlight (d : Dev) (h : Nat) : Bool :=
  (d.copyList.any fun c => c.heat == h) || (d.waiting.any fun w => w.frame.heat == h) || d.buf.recirc.any fun fr => fr.heat == h

/-- HEAT_RETIRE: OLDEST advances. -/
def Dev.heatRetire (d : Dev) : Dev :=
  match d.heat.live with
  | x :: y :: rest =>
    if d.heatInFlight x.1 then d
    else
      let h := { d.heat with live := y :: rest, drainAt := SMap.erase d.heat.drainAt x.1, cleaning := d.heat.cleaning ++ [x.1],
                             promoted := d.heat.promoted.filter (· != x.1) }
      { d with heat := h }.syncHeat
  | _ => d

/-- HEAT_CLEANUP_DONE. -/
def Dev.heatCleanup (d : Dev) : Dev :=
  let hs := d.heat.cleaning
  let d := d.sweepMarks (cleanedCtl hs) (cleanedMarks hs)
  { d with heat := { d.heat with cleaning := [] } }

/-- Does a copy wait in a queue, hold or spill segment? One that waits for recirculation is never promoted (R22, R256). -/
def Copy.waits (c : Copy) : Bool :=
  c.egress != 1026 && match c.stage with
    | .mergeWait | .merge | .calendar | .queued | .overflow | .spilled | .lane => true
    | _ => false

/-- HEAT_PROMOTION: DRAIN_MAX_US after it began draining, the oldest DRAINING Heat's waiting copies are promoted. -/
def Dev.heatPromotion (d : Dev) : Dev :=
  match d.heat.live with
  | x :: _ :: _ =>
    match SMap.find? d.heat.drainAt x.1 with
    | none => d
    | some t =>
      if d.time.ticks < t + d.f F.ID_HEAT_CFG_DRAIN_MAX_US * 800 || d.heat.promoted.contains x.1 then d
      else
        let d := { d with heat := { d.heat with promoted := x.1 :: d.heat.promoted } }
        d.each (d.copyList.filter fun c => c.heat == x.1 && c.waits) fun d c => d.promote c.id
  | _ => d

end Sys2Proof.Machine
end

