-- ==== Sys2Proof/Machine/Tables.lean ====
section
/-! DEFINITION. Forwarding tables (R267 to R303): keys, placement and lookup, learning, ageing, the table engine, its DMA
and corrupt entries. -/

namespace Sys2Proof.Machine

/-! ### Exact-match entries (R268 to R274, R279) -/

/-- INDEX of a CAM entry (R289). -/
def camBase : Nat := 2 ^ 31

def emKey (t idx : Nat) : Nat := t * 2 ^ 40 + idx

/-- Bucket counts (R267). -/
def bucketsOf (t : Nat) : Nat := if t == 0 || t == 1 then 131072 else if t == 2 then 16384 else 67108864

/-- Is `t` an exact-match table? -/
def isEm (t : Nat) : Bool := t == 0 || t == 1 || t == 2 || t == 6

/-- The key bytes of a raw entry (R268). -/
def entryKey (t e : Nat) : List Byte :=
  if t == 0 then be 1 (bits e 65 60) ++ be 2 (bits e 59 48) ++ be 6 (bits e 47 0)
  else if t == 1 then be 18 (bits e 143 0)
  else if t == 2 then be 21 (bits e 167 0)
  else be 1 (bits e 53 48) ++ be 1 (bits e 45 40) ++ le 32 (bits e 319 64)

/-- Is a raw entry in use? -/
def entryValid (t e : Nat) : Bool := if t == 6 then bit e 63 else ctlValid (ctlOf (widthOf t) e)

/-- The bucket of a key (R269). -/
def Dev.bucketOf (d : Dev) (t : Nat) (key : List Byte) : Nat := crc32c (be 4 (d.f F.TBL_SEED_SEED t) ++ key) % bucketsOf t

/-- The raw entry at an INDEX (R289); 0 where none is stored. Of HBM, what the table engine's port reads, or another's. -/
def Dev.entry (d : Dev) (mem : Mem) (t idx : Nat) (port : Nat := 4) : Nat :=
  if t == 6 && idx < camBase then ofLe (d.hbmRead mem port (tableBase + idx * 64) 64)
  else if t == 4 then SMap.get d.tbl.action idx 0
  else SMap.get d.tbl.em (emKey t idx) 0

/-- The learned count of the port of a learned L2 entry moves (R302). -/
def Dev.moveLearned (d : Dev) (t e : Nat) (up : Bool) : Dev :=
  let c := ctlOf 128 e
  if t == 0 && ctlValid c && ctlLearned c && bits e 111 101 < 1024 then
    let p := bits e 111 101
    let n := d.f F.TBL_PORT_LEARNED_COUNT p
    d.setF F.TBL_PORT_LEARNED_COUNT (if up then n + 1 else n - 1) p
  else d

/-- The table engine writes an HBM entry through port TEN (R259): a new one as bytes 8 to 63, then the control word; one that is
deleted by its control word alone. -/
def Dev.putHbmEntry (d : Dev) (idx e : Nat) : Dev :=
  let a := tableBase + idx * 64
  let who := ((entryKey 6 e).headD 0).toNat
  let d := if !entryValid 6 e then d else d.hbmPost 4 (a + 8) (le 56 (e / 2 ^ 64)) who
  d.hbmPost 4 a (le 8 (e % 2 ^ 64)) who

/-- Write a raw entry at an INDEX, with the occupancy and learned counts that follow from it (R302). -/
def Dev.setEntry (d : Dev) (mem : Mem) (t idx e : Nat) : Dev :=
  let old := d.entry mem t idx
  let n : Int := (b2n (entryValid t e) : Int) - b2n (entryValid t old)
  let d := d.moveOcc t n
  let d := if camBase ≤ idx && isEm t then d.moveCam t n else d
  let d := (d.moveLearned t old false).moveLearned t e true
  if t == 6 && idx < camBase then d.putHbmEntry idx e
  else if t == 4 then { d with tbl := { d.tbl with action := SMap.put d.tbl.action idx e 0 } }
  else { d with tbl := { d.tbl with em := SMap.put d.tbl.em (emKey t idx) e 0 } }

/-- Indices a key may be found at: the four ways of its bucket, then the CAM entries in use (R271). -/
def Dev.slots (d : Dev) (t : Nat) (key : List Byte) : List Nat :=
  let b := d.bucketOf t key
  (upto 4).map (4 * b + ·) ++ d.tbl.em.filterMap fun p =>
    if p.1 / 2 ^ 40 == t && camBase ≤ p.1 % 2 ^ 40 then some (p.1 % 2 ^ 40) else none

/-- Marks of a raw entry; learned entries and HBM entries have none (R252). -/
def marksOf (t e : Nat) : Option Nat × Option Nat :=
  if t == 6 then (none, none)
  else let c := ctlOf (widthOf t) e; if ctlLearned c then (none, none) else (ctlAdd c, ctlDel c)

/-- Are the data at an INDEX in words of HBM known to be uncorrectable (R271)? -/
def Dev.entryBad (d : Dev) (t idx : Nat) : Bool := t == 6 && decide (idx < camBase) && d.knownBad (tableBase + 64 * idx) 64

/-- Every valid entry of a key, in the order in which ways win (R271, R272). -/
def Dev.entriesOf (d : Dev) (mem : Mem) (t : Nat) (key : List Byte) (port : Nat := 4) : List (Nat × Nat) :=
  ((d.slots t key).map fun i => (i, d.entry mem t i port)).filter fun x => entryValid t x.2 && entryKey t x.2 == key && !d.entryBad t x.1

/-- GEN of an HBM entry (R279). -/
def genOf (e : Nat) : Nat := bits e 62 61

/-- A lookup as a frame of Heat `h` (R259, R271, R272). -/
def Dev.findKey (d : Dev) (mem : Mem) (t : Nat) (key : List Byte) (h : Nat) (port : Nat := 4) : Option (Nat × Nat) :=
  let l := (d.entriesOf mem t key port).filter fun x => let m := marksOf t x.2; d.visible m.1 m.2 h
  match l with
  | [] => none
  | [x] => some x
  | x :: y :: _ => if t == 6 && genOf y.2 == (genOf x.2 + 1) % 4 then some y else some x

/-- Count a lookup (R303). -/
def Dev.countLookup (d : Dev) (t : Nat) (hit : Bool) : Dev := d.bumpQ .TBL_CNT t (if hit then 0 else 1)

/-! ### Placement (R270) -/

/-- Is a bucket or CAM entry locked by the DMA of a master other than `m` (R289, R292)? -/
def Dev.lockedFor (d : Dev) (m : Option Nat) (t idx : Nat) : Bool :=
  match d.tbl.dma with
  | none => false
  | some x => x.locked && (match m with
      | some m => x.m != m
      | none => true) && x.buckets.contains (emKey t (if idx < camBase then idx / 4 else idx))

/-- The lowest free way of a key's bucket, else the lowest free CAM entry. -/
def Dev.place (d : Dev) (mem : Mem) (t : Nat) (key : List Byte) : Option Nat :=
  let b := d.bucketOf t key
  match (upto 4).find? fun w => !entryValid t (d.entry mem t (4 * b + w)) with
  | some w => some (4 * b + w)
  | none =>
    let used := d.tbl.em.filterMap fun p =>
      if p.1 / 2 ^ 40 == t && camBase ≤ p.1 % 2 ^ 40 && entryValid t p.2 then some (p.1 % 2 ^ 40 - camBase) else none
    match nextFree used 4096 0 with
    | some i => if used.length < 4096 then some (camBase + i) else none
    | none => none

/-! ### LPM (R276, R277) -/

/-- Do the first `n` bits of two addresses of a family agree? -/
def prefixEq (fam n : Nat) (a b : List Byte) : Bool :=
  let w := if fam == 6 then 128 else 32
  n ≤ w && (ofBe a % 2 ^ w) / 2 ^ (w - n) == (ofBe b % 2 ^ w) / 2 ^ (w - n)

/-- The longest matching prefix visible to a Heat; a node that waits to be rebuilt makes the lookup a miss (R294). -/
def Dev.lpmFind (d : Dev) (part fam : Nat) (addr : List Byte) (h : Nat) : Option LpmEnt :=
  let l := d.tbl.lpm.filter fun x => x.partition == part && x.fam == fam && prefixEq fam x.len x.addr addr && d.visible x.add x.del h
  if l.any (·.bad) then none
  else l.foldl (fun (r : Option LpmEnt) x => match r with
      | some y => if y.len < x.len then some x else r
      | none => some x) none

/-! ### TCAM (R278) -/

/-- The lowest-numbered matching entry of a range of a pipe's TCAM. -/
def Dev.tcamFind (d : Dev) (p lo hi key h : Nat) : Option (Nat × TcamEnt) :=
  (List.find? (fun (x : Nat × TcamEnt) =>
    let i := x.1 % 4096
    let c := TcamEnt.ctl x.2
    x.1 / 4096 == p && decide (lo ≤ i) && decide (i ≤ hi) && ctlValid c && (x.2.key &&& x.2.mask) == (key &&& x.2.mask) &&
      d.visible (ctlAdd c) (ctlDel c) h) d.tbl.tcam).map fun x => (x.1 % 4096, x.2)

/-! ### Corrupt entries (R294) -/

/-- A raw entry with VALID = 0 (R259, R294). -/
def invalid (t e : Nat) : Nat :=
  if t == 6 then (if bit e 63 then e - 2 ^ 63 else e)
  else let c := ctlOf (widthOf t) e; withCtl (widthOf t) e (c - b2n (bit c 14) * 2 ^ 14)

/-- A TCAM entry in use. -/
def Dev.tcamAt (d : Dev) (p idx : Nat) : Option TcamEnt := (SMap.find? d.tbl.tcam (p * 4096 + idx)).filter fun x => ctlValid x.ctl

def Dev.setTcam (d : Dev) (p idx : Nat) (x : TcamEnt) : Dev := { d with tbl := { d.tbl with tcam := SMap.set d.tbl.tcam (p * 4096 + idx) x } }

/-- CORRUPT_ENTRY: an entry found corrupt is invalidated, logged and counted. -/
def Dev.corruptEntry (d : Dev) (mem : Mem) (t str pipe idx found : Nat) : Dev :=
  if str == 2 then
    if d.tbl.lpm.any fun x => x.node == idx && !x.bad then
      let d := { d with tbl := { d.tbl with lpm := d.tbl.lpm.map fun (x : LpmEnt) => if x.node == idx then { x with bad := true } else x } }
      d.tblError 3 2 found true 0 idx
    else d
  else if str == 3 then
    match d.tcamAt pipe idx with
    | some x => ((d.setTcam pipe idx (x.withCtl (x.ctl - 2 ^ 14))).moveOcc 5 (-1)).tblError 5 3 found true pipe idx
    | none => d
  else
    let e := d.entry mem t idx
    if (isEm t || t == 4) && entryValid t e then
      let static := !(t == 0 && ctlLearned (ctlOf 128 e))
      (d.setEntry mem t idx (invalid t e)).tblError t str found static 0 idx
    else d

/-- LPM_REBUILD_DONE: the engine has read the shadow through port TEN. -/
def Dev.lpmRebuilt (d : Dev) (node : Nat) : Dev :=
  let d := match d.tbl.lpm.find? fun (x : LpmEnt) => x.node == node && x.block != 0 with
    | some x => d.askRead 4 (d.poolAddr (x.block / 2 ^ 26) (x.block % 2 ^ 26)) 32
    | none => d
  { d with tbl := { d.tbl with lpm := d.tbl.lpm.map fun (x : LpmEnt) => if x.node == node then { x with bad := false } else x } }

/-- TCAM_SCRUB: the scrubber finds an entry's parity bad. -/
def Dev.tcamScrub (d : Dev) (mem : Mem) (p idx : Nat) (bad : Bool) : Dev := if bad then d.corruptEntry mem 5 3 p idx 3 else d

/-! ### Learning (R281 to R285) -/

def learnDrop (d : Dev) : Dev := d.bumpQ .TBL_CNT 0 6

/-- A learn event enters the learn queue (R282). -/
def Dev.learnEvent (d : Dev) (key : List Byte) (fr : Frame) : Dev :=
  if 8192 ≤ d.tbl.learnQ.length then learnDrop d
  else
    let tie := tieOf (d.identOf fr) d.seed.1 d.seed.2
    { d with tbl := { d.tbl with learnQ := d.tbl.learnQ ++ [⟨key, fr.ingress, fr.stamp8, tie, d.cell⟩] } }

def Dev.track? (d : Dev) (key : List Byte) : Option Track := d.tbl.tracker.find? fun x => x.key == key

def ticksPerS : Nat := 800000000

/-- Is a tracker entry still needed (R284)? A pinned key's entry stays until its hold ends. -/
def Dev.trackLive (d : Dev) (x : Track) : Bool :=
  x.pinnedAt.isSome || decide (d.time.ticks < x.commit + d.f F.TBL_LEARN_CFG_MOVE_DAMP_US * 800) ||
    x.moves.any fun t => decide (d.time.ticks < t + ticksPerS)

/-- Keep a key in the tracker, or count that it is full. -/
def Dev.setTrack (d : Dev) (x : Track) : Dev :=
  let rest := d.tbl.tracker.filter fun y => y.key != x.key
  if rest.length < 4096 then { d with tbl := { d.tbl with tracker := rest ++ [x] } }
  else { (d.bump F.TBL_TRACKER_FULL_COUNT) with tbl := { d.tbl with untracked := x.key :: d.tbl.untracked } }

/-- Was the key's last commit made without tracking? The event at hand is the next for it (R284). -/
def Dev.takeUntracked (d : Dev) (key : List Byte) : Dev × Bool :=
  ({ d with tbl := { d.tbl with untracked := d.tbl.untracked.filter (· != key) } }, d.tbl.untracked.contains key)

/-- Is a port at its limit of learned entries? -/
def Dev.atLimit (d : Dev) (p : Nat) : Bool :=
  d.f F.TBL_PORT_LEARN_LIMIT p != 0 && decide (d.f F.TBL_PORT_LEARN_LIMIT p ≤ d.f F.TBL_PORT_LEARNED_COUNT p)

/-- An event discarded at a port's limit, with at most one LIMIT notice a second (R283). -/
def Dev.limitDrop (d : Dev) (x : LearnEv) : Dev :=
  let d := learnDrop d
  let quiet := match SMap.find? d.tbl.limitAt x.port with
    | some t => decide (d.time.ticks < t + ticksPerS)
    | none => false
  if quiet then d
  else ({ d with tbl := { d.tbl with limitAt := SMap.set d.tbl.limitAt x.port d.time.ticks } }).tblNotice 5 false
    (beAt x.key 0 1) x.port 0x7FF (beAt x.key 3 6) (beAt x.key 1 2) (short x.stamp8)

def moveNotice (d : Dev) (typ : Nat) (damped : Bool) (x : LearnEv) (old : Nat) : Dev :=
  d.tblNotice typ damped (beAt x.key 0 1) x.port old (beAt x.key 3 6) (beAt x.key 1 2) (short x.stamp8)

/-- A station move (R283, R285) of the learned entry `e` at `idx`; an uncounted one does not count toward a flap (R284). -/
def Dev.stationMove (d : Dev) (mem : Mem) (x : LearnEv) (idx e : Nat) (uncounted : Bool) : Dev :=
  let now := d.time.ticks
  let old := bits e 111 101
  let tr := d.track? x.key
  let recent := (tr.map fun y => y.moves.filter fun t => decide (now < t + ticksPerS)).getD []
  if bit (ctlOf 128 e) 10 then learnDrop d
  else if d.atLimit x.port then d.limitDrop x
  else if 3 ≤ recent.length && d.f F.TBL_FLAP_CFG_FLAP_HOLD_S != 0 then
    let d := d.setEntry mem 0 idx (withCtl 128 e (ctlOf 128 e ||| 2 ^ 10))
    let d := d.setTrack ⟨x.key, (tr.map (·.commit)).getD now, recent ++ [now], some now⟩
    moveNotice (d.bumpQ .TBL_CNT 0 4) 2 false x old
  else
    let damped := match tr with
      | some y => decide (now < y.commit + d.f F.TBL_LEARN_CFG_MOVE_DAMP_US * 800)
      | none => false
    let d := moveNotice (d.bumpQ .TBL_CNT 0 3) 1 damped x old
    if damped then d.setTrack ⟨x.key, (tr.map (·.commit)).getD now, recent ++ [now], none⟩
    else (d.setEntry mem 0 idx (withCtl 128 (e - old * 2 ^ 101 + x.port * 2 ^ 101) (ctlOf 128 e))).setTrack
        ⟨x.key, now, if uncounted then recent else recent ++ [now], none⟩

/-- Commit one learn event (R283). -/
def Dev.commitLearn (d : Dev) (mem : Mem) (x : LearnEv) : Dev :=
  let u := d.takeUntracked x.key
  let d := u.1
  match (d.entriesOf mem 0 x.key).find? fun y => ctlLearned (ctlOf 128 y.2) || (ctlDel (ctlOf 128 y.2)).isNone with
  | some (idx, e) =>
    let c := ctlOf 128 e
    if !ctlLearned c then d.setEntry mem 0 idx (withCtl 128 e (c ||| 2 ^ 12))
    else if bits e 111 101 == x.port then
      if bit c 10 then learnDrop d else d.setEntry mem 0 idx (withCtl 128 e (c ||| 2 ^ 12))
    else d.stationMove mem x idx e u.2
  | none =>
    if d.atLimit x.port then d.limitDrop x
    else match d.place mem 0 x.key with
      | none => learnDrop d
      | some idx =>
        let e := withCtl 128 (x.port * 2 ^ 101 + beAt x.key 0 1 * 2 ^ 60 + beAt x.key 1 2 * 2 ^ 48 + beAt x.key 3 6) (2 ^ 14 + 2 ^ 13 + 2 ^ 12)
        ((d.setEntry mem 0 idx e).bumpQ .TBL_CNT 0 2).setTrack ⟨x.key, d.time.ticks, [], none⟩

/-- Is the bucket of an event's key locked, or a CAM entry that holds it or would take it (R292, R293)? -/
def Dev.learnLocked (d : Dev) (mem : Mem) (x : LearnEv) : Bool :=
  d.lockedFor none 0 (4 * d.bucketOf 0 x.key) || ((d.entriesOf mem 0 x.key).any fun y => d.lockedFor none 0 y.1) ||
    ((d.place mem 0 x.key).map (d.lockedFor none 0)).getD false

/-- Order of the learn arbiter (R282). -/
def learnBefore (a b : LearnEv) : Bool :=
  decide (a.cell < b.cell) || (a.cell == b.cell && (stampLt a.stamp8 b.stamp8 ||
    (!stampLt b.stamp8 a.stamp8 && decide (a.tie < b.tie))))

/-- LEARN_COMMIT: up to four events of a cell time. -/
def Dev.learnCommit (d : Dev) (mem : Mem) : Dev :=
  let q := sortBy learnBefore d.tbl.learnQ
  let d := { d with tbl := { d.tbl with learnQ := q.drop 4 } }
  d.each (q.take 4) fun d x =>
    if d.learnLocked mem x then
      if d.tbl.deferredQ.length < 512 then { d with tbl := { d.tbl with deferredQ := d.tbl.deferredQ ++ [x] } } else learnDrop d
    else d.commitLearn mem x

/-- The deferred learns are committed in arrival order when a lock ends (R293). -/
def Dev.commitDeferred (d : Dev) (mem : Mem) : Dev :=
  let q := d.tbl.deferredQ
  let d := { d with tbl := { d.tbl with deferredQ := [] } }
  d.each q fun d x => d.commitLearn mem x

/-- UNPIN: the holds that have run FLAP_HOLD_S seconds end (R285). -/
def Dev.unpin (d : Dev) (mem : Mem) : Dev :=
  let due := d.tbl.tracker.filter fun x => match x.pinnedAt with
    | some t => decide (t + d.f F.TBL_FLAP_CFG_FLAP_HOLD_S * ticksPerS ≤ d.time.ticks)
    | none => false
  d.each due fun d x =>
    let d := { d with tbl := { d.tbl with tracker := d.tbl.tracker.map fun (y : Track) => if y.key == x.key then { y with moves := [], pinnedAt := none } else y } }
    match (d.entriesOf mem 0 x.key).find? fun y => bit (ctlOf 128 y.2) 10 with
    | some (idx, e) =>
      let d := d.setEntry mem 0 idx (withCtl 128 e (ctlOf 128 e - 2 ^ 10))
      d.tblNotice 3 false (beAt x.key 0 1) 0x7FF (bits e 111 101) (beAt x.key 3 6) (beAt x.key 1 2) (short d.now8)
    | none => d

/-- TRACKER_EXPIRY (R284). -/
def Dev.trackerExpiry (d : Dev) : Dev := { d with tbl := { d.tbl with tracker := d.tbl.tracker.filter d.trackLive } }

/-! ### Ageing (R287, R288) -/

/-- SWEEPER_VISIT at an entry of the L2 or host route table, with a hit serialised behind it or not. -/
def Dev.sweeperVisit (d : Dev) (mem : Mem) (t idx : Nat) (hit : Bool) : Dev :=
  let e := d.entry mem t idx
  let w := widthOf t
  let c := ctlOf w e
  if !(t == 0 || t == 1) || !entryValid t e || !d.on F.TBL_CTRL_SWEEP_EN || d.f F.TBL_AGE_CFG_PERIOD_MS == 0 || d.lockedFor none t idx then d
  else
    let h := 2 ^ 12 * b2n hit
    let base := c - b2n (bit c 12) * 2 ^ 12 - b2n (bit c 11) * 2 ^ 11
    if bit c 12 then d.setEntry mem t idx (withCtl w e (base + h))
    else if !bit c 11 then d.setEntry mem t idx (withCtl w e (base + 2 ^ 11 + h))
    else if t == 0 && ctlLearned c && !bit c 10 then
      if hit then d.setEntry mem t idx (withCtl w e (base + h))
      else
        let d := (d.setEntry mem t idx 0).bumpQ .TBL_CNT 0 5
        if d.on F.TBL_CTRL_AGE_NOTICE_EN then
          let k := entryKey 0 e
          d.tblNotice 4 false (beAt k 0 1) 0x7FF (bits e 111 101) (beAt k 3 6) (beAt k 1 2) (short d.now8)
        else d
    else if hit then d.setEntry mem t idx (withCtl w e (base + 2 ^ 11 + h))
    else d

/-! ### The table engine (R259, R289) -/

/-- Statuses of R298. -/
def stOK : Nat := 1
def stFULL : Nat := 2
def stDUP : Nat := 3
def stNOTFOUND : Nat := 4
def stNOHEAT : Nat := 5
def stBAD : Nat := 6
def stLOCKED : Nat := 7

/-- The answer of a command: status, result index and entry image. -/
structure Answer where
  status : Nat
  result : Nat
  data : List Nat
  deriving DecidableEq, Repr

def Answer.err (n : Nat) : Answer := ⟨n, 0, []⟩
def Answer.ok (i : Nat) : Answer := ⟨stOK, i, []⟩

/-- The Heat a change is marked with: the image marks none, software the staging Heat; none when it may not write. -/
def Dev.stageMark (d : Dev) : Option (Option Nat) :=
  if d.boot.applying then some none else if d.staging then some (some d.stagedHeat) else none

/-- Control field of a new static entry. -/
def newCtl (mark : Option Nat) : Nat := 2 ^ 14 + (match mark with
  | some h => 2 ^ 9 + h * 32
  | none => 0)

/-- Control field with a DEL mark. -/
def delCtl (c : Nat) (mark : Option Nat) : Nat := match mark with
  | some h => c - bits c 4 0 + 16 + h
  | none => c

/-- Is an action entry malformed (R275)? Its Port field names a port only while SET_PORT is 1 (R3; assumption 156, DEDUCED). -/
def Dev.badAction (d : Dev) (e : Nat) : Bool :=
  let n := b2n (bit e 486) + b2n (bit e 487) + b2n (bit e 488) + b2n (bit e 489)
  decide (1 < n) || (bit e 490 && bit e 491) || (bit e 486 && !d.usablePort (bits e 485 475))

/-- ADD in an exact-match table. Without a Heat STAGING a versioned one answers NO_HEAT before any other check (R253,
assumption 130, DEDUCED). -/
def Dev.emAdd (d : Dev) (mem : Mem) (m t e : Nat) : Dev × Answer :=
  let key := entryKey t e
  if t != 6 && d.stageMark.isNone then (d, .err stNOHEAT)
  else if t == 0 && !d.usablePort (bits e 111 101) then (d, .err stBAD)
  else if t == 6 && d.badAction (bits e 411 320 * 2 ^ 404) then (d, .err stBAD)
  else if d.lockedFor (some m) t (4 * d.bucketOf t key) then (d, .err stLOCKED)
  else if (d.entriesOf mem t key).any fun x => (marksOf t x.2).2.isNone then (d, .err stDUP)
  else match d.place mem t key with
    | none => (d, .err stFULL)
    | some idx =>
      if d.lockedFor (some m) t idx then (d, .err stLOCKED)
      else if t == 6 then (d.setEntry mem t idx (e - bits e 63 61 * 2 ^ 61 + 2 ^ 63), .ok idx)
      else match d.stageMark with
        | none => (d, .err stNOHEAT)
        | some mark => (d.setEntry mem t idx (withCtl (widthOf t) e (newCtl mark)), .ok idx)

/-- DELETE in an exact-match table: a learned entry or an entry the staging Heat adds goes at once, another static entry
is marked. -/
def Dev.emDelete (d : Dev) (mem : Mem) (m t e : Nat) : Dev × Answer :=
  let key := entryKey t e
  if d.lockedFor (some m) t (4 * d.bucketOf t key) then (d, .err stLOCKED) else
  match (d.entriesOf mem t key).find? fun x => (marksOf t x.2).2.isNone with
  | none => if t != 6 && d.stageMark.isNone then (d, .err stNOHEAT) else (d, .err stNOTFOUND)
  | some (idx, x) =>
    if d.lockedFor (some m) t idx then (d, .err stLOCKED)
    else if t == 6 then (d.setEntry mem t idx (invalid 6 x), .ok idx)
    else
      let c := ctlOf (widthOf t) x
      if ctlLearned c then (d.setEntry mem t idx 0, .ok idx)
      else match d.stageMark with
        | none => (d, .err stNOHEAT)
        | some mark =>
          if mark.isNone || ctlAdd c == mark then (d.setEntry mem t idx 0, .ok idx)
          else (d.setEntry mem t idx (withCtl (widthOf t) x (delCtl c mark)), .ok idx)

/-- REPLACE (R259). -/
def Dev.emReplace (d : Dev) (mem : Mem) (e : Nat) : Dev × Answer :=
  let key := entryKey 6 e
  if d.badAction (bits e 411 320 * 2 ^ 404) then (d, .err stBAD) else
  match (d.entriesOf mem 6 key).head? with
  | none => (d, .err stNOTFOUND)
  | some (idx, x) =>
    let new := e - bits e 63 61 * 2 ^ 61 + 2 ^ 63 + (genOf x + 1) % 4 * 2 ^ 61
    let b := d.bucketOf 6 key
    match (upto 4).find? fun w => !entryValid 6 (d.entry mem 6 (4 * b + w)) with
    | some w => ((d.setEntry mem 6 (4 * b + w) new).setEntry mem 6 idx (invalid 6 x), .ok (4 * b + w))
    | none =>
      let d := d.setEntry mem 6 idx (invalid 6 x)
      ({ d.setEntry mem 6 idx new with tbl := { (d.setEntry mem 6 idx new).tbl with breaks := d.tbl.breaks + 1 } }, .ok idx)

/-- Units held by prefixes visible to any live Heat (R276). -/
def Dev.lpmLiveUnits (d : Dev) : Nat :=
  (d.tbl.lpm.filter fun x => d.heat.live.any fun h => d.visible x.add x.del h.1).foldl (fun a x => a + lpmUnits x.fam) 0

/-- ADD and DELETE of an LPM prefix (R276, R277). The node, the shadow's block and the
bytes written to it through port TEN are free values (assumption 24, DESIGN CHOICE). -/
def Dev.lpmCmd (d : Dev) (op e : Nat) : Dev × Answer :=
  let key := be 18 (bits e 143 0)
  let part := beAt key 0 1
  let fam := beAt key 1 1
  let addr := slice key 2 16
  let len := bits e 151 144
  let same := fun (x : LpmEnt) => x.partition == part && x.fam == fam && x.len == len && prefixEq fam len x.addr addr && x.del.isNone
  match d.stageMark with
    | none => (d, .err stNOHEAT)
    | some mark =>
      if !((fam == 4 && len ≤ 32) || (fam == 6 && len ≤ 128)) then (d, .err stBAD) else
      if op == 1 then
        if d.tbl.lpm.any same then (d, .err stDUP)
        else if 2097152 ≤ d.lpmLiveUnits then (d, .err stFULL)
        else
          let r := d.draw
          let r2 := r.2.draw
          let pool := r2.1 % 5
          let shadow := if pool == 0 then none else r2.2.take 24 pool (r2.1 / 5)
          let d := match shadow with
            | some x =>
              let free := x.2.draw
              free.2.hbmPost 4 (free.2.poolAddr pool x.1) (be 32 free.1)
            | none => r2.2
          let block := match shadow with
            | some x => poolKey pool x.1
            | none => 0
          let ent : LpmEnt := ⟨part, fam, addr, len, bits e 167 152, mark, none, r.1, false, block⟩
          (({ d with tbl := { d.tbl with lpm := d.tbl.lpm ++ [ent] } }).moveOcc 3 (lpmUnits fam), .ok (r.1 % 2 ^ 32))
      else match d.tbl.lpm.find? same with
        | none => (d, .err stNOTFOUND)
        | some x =>
          if mark.isNone || x.add == mark then
            ((({ d with tbl := { d.tbl with lpm := d.tbl.lpm.filter fun (y : LpmEnt) => !same y } }).moveOcc 3 (-(lpmUnits fam : Int))).freeShadow x.block, .ok (x.node % 2 ^ 32))
          else ({ d with tbl := { d.tbl with lpm := d.tbl.lpm.map fun (y : LpmEnt) => if same y then { y with del := mark } else y } }, .ok (x.node % 2 ^ 32))

/-- Pipes of a mask. -/
def pipesOf (mask : Nat) : List Nat := (upto 16).filter fun p => bit mask p

/-- ADD and DELETE of a TCAM entry in each pipe of a mask (R278). The image is key, mask and result word. -/
def Dev.tcamCmd (d : Dev) (op idx mask e : Nat) : Dev × Answer :=
  let ps := pipesOf mask
  let cur := fun p => d.tcamAt p idx
  match d.stageMark with
    | none => (d, .err stNOHEAT)
    | some mark =>
      if 4096 ≤ idx || ps.isEmpty then (d, .err stBAD) else
      if op == 1 then
        if ps.any fun p => (cur p).isSome then
          (d, .err (if ps.any fun p => ((cur p).map fun x => (ctlDel x.ctl).isNone).getD false then stDUP else stFULL))
        else
          let ent := (TcamEnt.mk (bits e 511 0) (bits e 1023 512) (bits e 1055 1024)).withCtl (newCtl mark)
          (d.each ps fun d p => (d.setTcam p idx ent).moveOcc 5 1, .ok idx)
      else if ps.all fun p => (cur p).isNone then (d, .err stNOTFOUND)
      else
        (d.each ps fun d p => match cur p with
          | none => d
          | some x =>
            if mark.isNone || ctlAdd x.ctl == mark then
              ({ d with tbl := { d.tbl with tcam := SMap.erase d.tbl.tcam (p * 4096 + idx) } }).moveOcc 5 (-1)
            else d.setTcam p idx (x.withCtl (delCtl x.ctl mark)),
         .ok idx)

/-- ADD and DELETE of an action entry (R275). -/
def Dev.actionCmd (d : Dev) (mem : Mem) (op idx e : Nat) : Dev × Answer :=
  let old := d.entry mem 4 idx
  let c := ctlOf 512 old
  match d.stageMark with
    | none => (d, .err stNOHEAT)
    | some mark =>
      if idx == 0 || 65536 ≤ idx then (d, .err stBAD) else
      if op == 1 then
        if d.badAction e then (d, .err stBAD)
        else if ctlValid c then (d, .err (if (ctlDel c).isNone then stDUP else stFULL))
        else (d.setEntry mem 4 idx (withCtl 512 e (newCtl mark)), .ok idx)
      else if !ctlValid c then (d, .err stNOTFOUND)
      else if mark.isNone || ctlAdd c == mark then (d.setEntry mem 4 idx 0, .ok idx)
      else (d.setEntry mem 4 idx (withCtl 512 old (delCtl c mark)), .ok idx)

/-- The raw words of an entry image of `w` bits. -/
def wordsOf (e w : Nat) : List Nat := (upto (w / 32)).map fun i => bits e (32 * i + 31) (32 * i)

/-- READ (R289). -/
def Dev.tblRead (d : Dev) (mem : Mem) (m t idx mask : Nat) : Answer :=
  if isEm t && d.lockedFor (some m) t idx then .err stLOCKED
  else if isEm t then
    if idx < 4 * bucketsOf t || (camBase ≤ idx && idx < camBase + 4096) then ⟨stOK, idx, wordsOf (d.entry mem t idx) (widthOf t)⟩ else .err stNOTFOUND
  else if t == 4 then if idx < 65536 then ⟨stOK, idx, wordsOf (d.entry mem 4 idx) 512⟩ else .err stNOTFOUND
  else if t == 5 then
    match pipesOf mask with
    | p :: _ =>
      if idx < 4096 then
        let x := SMap.get d.tbl.tcam (p * 4096 + idx) ⟨0, 0, 0⟩
        ⟨stOK, idx, wordsOf (x.key + x.mask * 2 ^ 512 + x.res * 2 ^ 1024) 1056⟩
      else .err stNOTFOUND
    | [] => .err stNOTFOUND
  else .err stNOTFOUND

/-- SEARCH: a lookup as a frame of Heat CURRENT (R289). A bucket of HBM with an uncorrectable word is a miss (R294). -/
def Dev.tblSearch (d : Dev) (mem : Mem) (m t mask e : Nat) : Answer :=
  let h := d.currentHeat
  if isEm t && d.lockedFor (some m) t (4 * d.bucketOf t (entryKey t e)) then .err stLOCKED
  else if t == 6 && d.knownBad (tableBase + 256 * d.bucketOf 6 (entryKey 6 e)) 256 then .err stNOTFOUND
  else if isEm t then
    match d.findKey mem t (entryKey t e) h with
    | some (i, x) => if d.lockedFor (some m) t i then .err stLOCKED else ⟨stOK, i, wordsOf x (widthOf t)⟩
    | none => .err stNOTFOUND
  else if t == 3 then
    let key := be 18 (bits e 143 0)
    match d.lpmFind (beAt key 0 1) (beAt key 1 1) (slice key 2 16) h with
    | some x => ⟨stOK, x.node % 2 ^ 32, wordsOf (ofBe (be 1 x.partition ++ be 1 x.fam ++ x.addr) + x.len * 2 ^ 144 + x.action * 2 ^ 152) 192⟩
    | none => .err stNOTFOUND
  else if t == 5 then
    match (pipesOf mask).head?.bind fun p => d.tcamFind p 0 4095 (bits e 511 0) h with
    | some (i, x) => ⟨stOK, i, wordsOf (x.key + x.mask * 2 ^ 512 + x.res * 2 ^ 1024) 1056⟩
    | none => .err stNOTFOUND
  else .err stBAD

/-- FLUSH_PORT: every learned L2 entry of a port (R289). -/
def Dev.flushPort (d : Dev) (mem : Mem) (m t port : Nat) : Dev × Answer :=
  let l := d.tbl.em.filter fun p => p.1 / 2 ^ 40 == 0 && entryValid 0 p.2 && ctlLearned (ctlOf 128 p.2) && bits p.2 111 101 == port
  if t != 0 || 1032 ≤ port then (d, .err stBAD)
  else if l.any fun p => d.lockedFor (some m) 0 (p.1 % 2 ^ 40) then (d, .err stLOCKED)
  else (d.each l fun d p => d.setEntry mem 0 (p.1 % 2 ^ 40) 0, .ok port)

/-- What the engine reads of HBM for a command, through port TEN (R335): the bucket of the key, or the entry at an INDEX. -/
def Dev.engineReads (d : Dev) (op t idx e : Nat) : Dev :=
  if t != 6 then d
  else if op == 4 then if idx < 4 * bucketsOf 6 then d.askRead 4 (tableBase + 64 * idx) 64 else d
  else if op == 1 || op == 2 || op == 3 || op == 5 then d.askRead 4 (tableBase + 256 * d.bucketOf 6 (entryKey 6 e)) 256
  else d

/-- One command of the engine (R289): `e` is the entry image as one number. -/
def Dev.engine (d : Dev) (mem : Mem) (m op t idx mask e : Nat) : Dev × Answer :=
  let d := d.engineReads op t idx e
  if 7 ≤ t then (d, .err stBAD)
  else if op == 4 then (d, d.tblRead mem m t idx mask)
  else if op == 5 then (d, d.tblSearch mem m t mask e)
  else if op == 6 then d.flushPort mem m t idx
  else if op == 3 then if t == 6 then d.emReplace mem e else (d, .err stBAD)
  else if op == 1 || op == 2 then
    if isEm t then if op == 1 then d.emAdd mem m t e else d.emDelete mem m t e
    else if t == 3 then d.lpmCmd op e
    else if t == 5 then d.tcamCmd op idx mask e
    else d.actionCmd mem op idx e
  else (d, .err 0)

/-- The image in a master's TBL_CMD_DATA, word i in bits 32i+31:32i. -/
def Dev.cmdImage (d : Dev) (m : Nat) : Nat := (upto 36).foldl (fun a i => a + (d.get .TBL_CMD_DATA i 0 0 m).toNat * 2 ^ (32 * i)) 0

/-- The image of a host-engine command: HBM entries of 64 bytes and TCAM images in the order of R291. -/
def Dev.tblCommand (d : Dev) (mem : Mem) (m op : Nat) : Dev :=
  if op == 0 || op == 7 then d else
  let t := d.f F.TBL_CMD_TABLE 0 0 0 m
  let r := d.engine mem m op t (d.f F.TBL_CMD_INDEX_INDEX 0 0 0 m) (d.f F.TBL_CMD_PIPE_MASK 0 0 0 m) (d.cmdImage m)
  let d := (r.1.setF F.TBL_CMD_STATUS_STATUS r.2.status 0 0 0 m).setF F.TBL_CMD_STATUS_BUSY 0 0 0 0 m
  let d := d.setF F.TBL_CMD_RESULT_RESULT r.2.result 0 0 0 m
  d.each (upto r.2.data.length) fun d i => d.set .TBL_CMD_DATA (word (r.2.data.getD i 0)) i 0 0 m

/-! ### Table DMA (R291, R292) -/

/-- Does the starter hold every block, or own every bank, of a descriptor list? -/
def Dev.dmaOwned (d : Dev) (m off n : Nat) (spd : Bool) : Bool :=
  let last := off + n * 160 - 1
  if spd then (upto (last / 524288 - off / 524288 + 1)).all fun i =>
      let b := off / 524288 + i
      decide (b < 32) && d.f F.SPD_BANK_CFG_OWNER b == m
  else (upto (last / 128 - off / 128 + 1)).all fun i =>
      let a := controlBase + (off / 128 + i) * 128
      d.buf.holders.any fun p =>
        let k := p.1 / 2 ^ 26
        let x := d.poolAddr k (p.1 % 2 ^ 26)
        decide (1 ≤ k) && decide (k ≤ 4) && some p.2 == requesterOf m && decide (x ≤ a) && decide (a < x + poolBlock k)

/-- The bytes of a descriptor list. -/
def Dev.dmaBytes (d : Dev) (mem : Mem) (off n : Nat) (spd : Bool) : List Byte :=
  if spd then mem.spdRead off n else d.hbmRead mem 5 (controlBase + off) n

/-- Does descriptor `i` of the list lie in words of HBM known to be uncorrectable (R349)? -/
def Dev.dmaBad1 (d : Dev) (x : Dma) (i : Nat) : Bool := !x.spd && d.knownBad (controlBase + x.off + 160 * i) 160

def Dev.dmaBad (d : Dev) (x : Dma) : Bool := (upto x.n).any (d.dmaBad1 x)

/-- A DMA reads its list through port CTL (R335), or from the scratchpad. -/
def Dev.askList (d : Dev) (x : Dma) : Dev :=
  if x.spd then d.spdReach x.m x.off (160 * x.n) else d.askRead 5 (controlBase + x.off) (160 * x.n)

/-- Run the descriptors in order; the answers are in the same order. -/
def Dev.runDescs (d : Dev) (mem : Mem) (m : Nat) : List (List Byte) → Dev × List (Nat × Nat)
  | [] => (d, [])
  | x :: rest =>
    let r := d.engine mem m (beAt x 0 1) (beAt x 1 1) (ofLe (slice x 4 4)) (ofLe (slice x 2 2)) (ofLe (slice x 8 144))
    let s := Dev.runDescs r.1 mem m rest
    (s.1, (r.2.status, r.2.result) :: s.2)

/-- Descriptors of 160 bytes. -/
def descsOf (bs : List Byte) (n : Nat) : List (List Byte) := (upto n).map fun i => slice bs (160 * i) 160

def Dev.dmaStatus (d : Dev) (n : Nat) : Dev := (d.setF F.TBL_DMA_CTRL_STATUS n).setF F.TBL_DMA_CTRL_BUSY 0

/-- The bucket or CAM entry an index belongs to. -/
def lockKey (t idx : Nat) : Nat := emKey t (if idx < camBase then idx / 4 else idx)

/-- Entry keys of tables 0 to 2 whose images differ between two devices. -/
def changedKeys (a b : Dev) : List Nat :=
  let ks := (a.tbl.em ++ b.tbl.em).map (·.1)
  (ks.filter fun k => decide (k < emKey 3 0) && SMap.get a.tbl.em k 0 != SMap.get b.tbl.em k 0).eraseDups

/-- May the starter reach its descriptor list (R291)? -/
def Dev.dmaMay (d : Dev) (x : Dma) : Bool := d.dmaOwned x.m x.off x.n x.spd

/-- The DMA that GO starts for a master: its list is the one the registers give at GO, whatever they hold later (assumption 147,
DESIGN CHOICE). -/
def Dev.dmaOf (d : Dev) (m : Nat) : Dma :=
  ⟨m, d.on F.TBL_DMA_CTRL_LOCK, d.on F.TBL_DMA_SRC_SPACE, d.f F.TBL_DMA_SRC_OFFSET, d.f F.TBL_DMA_COUNT_COUNT, [], [], []⟩

/-- A DMA ends with a status before it has applied anything. -/
def Dev.dmaStop (d : Dev) (st : Nat) : Dev := { d.dmaStatus st with tbl := { d.tbl with dma := none } }

/-- A DMA that reaches for a list its starter does not hold or own: it ends with NOT_OWNER, and the violation freezes the
starter (R27, R300, R417; the log names TBL_DMA_CTRL, assumption 131, DEDUCED). -/
def Dev.dmaViolation (d : Dev) (m : Nat) : Dev :=
  let r := d.freeze m
  let d := r.1.logViolation 1 m r.2 false (Reg.off .TBL_DMA_CTRL) 0
  d.dmaStop 12

/-- What stops a DMA at its list, if anything: a starter frozen since GO, whose requests all complete with an error (R28); a list
its starter does not hold or own (R300); a bank of it that is not ON, which is logged (R435). It ends with NOT_OWNER, and no rule
gives the first and the last a status of their own (assumption 147, DESIGN CHOICE). -/
def Dev.dmaStopped (d : Dev) (x : Dma) (write : Bool) : Option Dev :=
  if d.frozen x.m then some (d.dmaStop 12)
  else if !d.dmaMay x then some (d.dmaViolation x.m)
  else if x.spd then (d.spdOff x.off (160 * x.n)).map fun a => (d.logNotOn x.m write a).dmaStop 12
  else none

/-- TBL_DMA_GO. The list is read (R335), and what its reads find uncorrectable is known when the DMA ends. A locked DMA is
staged against a copy of the tables; an unlocked one runs at TBL_DMA_DONE. -/
def Dev.dmaGo (d : Dev) (mem : Mem) (m : Nat) : Dev :=
  let x := d.dmaOf m
  match d.dmaStopped x false with
  | some d => d
  | none =>
    let d := ((d.setF F.TBL_DMA_CTRL_BUSY 1).setF F.TBL_DMA_CTRL_DONE 0).askList x
    if !x.locked then { d with tbl := { d.tbl with dma := some x } }
    else
      let ds := descsOf (d.dmaBytes mem x.off (160 * x.n) x.spd) x.n
      if ds.any fun x => 3 ≤ beAt x 1 1 then d.dmaStatus 11
      else
        let r := d.runDescs mem m ds
        let ks := changedKeys d r.1
        let buckets := (ks.map fun k => lockKey (k / 2 ^ 40) (k % 2 ^ 40)).eraseDups
        if 1024 < buckets.length then d.dmaStatus 9
        else { d with tbl := { d.tbl with dma := some { x with staged := ks.map fun k => (k, SMap.get r.1.tbl.em k 0), buckets := buckets, results := r.2 } } }

/-- How a DMA whose list holds an uncorrectable word ends: with status ECC, whose number no rule gives (R298, R349;
assumption 137, DESIGN CHOICE). -/
def Dev.dmaEcc (d : Dev) : Dev := let r := d.draw; r.2.dmaStop (r.1 % 16)

/-- Write each descriptor's status and result back to its list. -/
def writeBack (mem : Mem) (d : Dev) (x : Dma) (results : List (Nat × Nat)) : Mem × Dev :=
  let put := fun (y : Mem × Dev) (i : Nat) =>
    let r := results.getD i (0, 0)
    let bs := be 1 r.1 ++ List.replicate 3 0 ++ le 4 r.2
    let a := x.off + 160 * i + 152
    if x.spd then (y.1.spdWrite a bs, y.2.spdReach x.m a 8) else (y.1, y.2.hbmPost 5 (controlBase + a) bs)
  (upto results.length).foldl put (mem, d)

/-- The end of a DMA whose descriptors have all run. -/
def dmaEnd (mem : Mem) (d : Dev) (x : Dma) (results : List (Nat × Nat)) : Mem × Dev :=
  let st := ((results.find? fun r => r.1 != stOK).map (·.1)).getD stOK
  let d := { ((d.dmaStatus st).setF F.TBL_DMA_CTRL_DONE results.length) with tbl := { d.tbl with dma := none } }
  writeBack mem d x results

/-- TBL_DMA_INSTALL: the staged images replace the live ones, which keep HIT, STALE and PINNED; then the deferred learns. With
an uncorrectable word in its list, nothing of it is applied (R349). -/
def dmaInstall (mem : Mem) (d : Dev) : Mem × Dev :=
  match d.tbl.dma with
  | none => (mem, d)
  | some x =>
    if !x.locked then (mem, d)
    else match d.dmaStopped x true with
    | some d => (mem, d.commitDeferred mem)
    | none =>
    if d.dmaBad x then (mem, d.dmaEcc.commitDeferred mem) else
    let d := d.each x.staged fun d p =>
      let t := p.1 / 2 ^ 40
      let w := widthOf t
      let live := SMap.get d.tbl.em p.1 0
      let new := if p.2 != 0 && entryValid t live && entryKey t live == entryKey t p.2 then
          withCtl w p.2 (ctlOf w p.2 - bits (ctlOf w p.2) 12 10 * 2 ^ 10 + bits (ctlOf w live) 12 10 * 2 ^ 10)
        else p.2
      d.setEntry mem t (p.1 % 2 ^ 40) new
    let r := dmaEnd mem d x x.results
    (r.1, r.2.commitDeferred r.1)

/-- TBL_DMA_DONE: an unlocked DMA ends its last descriptor, or the one before the descriptor in which its read finds an
uncorrectable word (R349). -/
def dmaDone (mem : Mem) (d : Dev) : Mem × Dev :=
  match d.tbl.dma with
  | none => (mem, d)
  | some x =>
    if x.locked then (mem, d)
    else match d.dmaStopped x true with
    | some d => (mem, d)
    | none =>
    let k := ((upto x.n).find? fun i => d.dmaBad1 x i).getD x.n
    let r := d.runDescs mem x.m (descsOf (d.dmaBytes mem x.off (160 * x.n) x.spd) k)
    if k == x.n then dmaEnd mem r.1 x r.2
    else writeBack mem (r.1.dmaEcc.setF F.TBL_DMA_CTRL_DONE k) x r.2

/-- TIMEOUT of a locked DMA (R292): nothing of it is applied. -/
def Dev.dmaTimeout (d : Dev) (mem : Mem) : Dev :=
  match d.tbl.dma with
  | none => d
  | some x =>
    if !x.locked then d else
    ({ (d.dmaStatus 10) with tbl := { d.tbl with dma := none } }).commitDeferred mem

end Sys2Proof.Machine
end

