-- ==== Sys2Proof/Machine/Parse.lean ====
section
/-! DEFINITION. Parse engines (R232 to R240): the microword interpreter, the parse graph, and patch loads. -/

namespace Sys2Proof.Machine

/-! ### Parse failures (R264) -/

def pTRUNCATED : Nat := 0
def pLIMIT : Nat := 1
def pILLEGAL : Nat := 2
def pFAIL : Nat := 3
def pNOTRANS : Nat := 4
def pPARITY : Nat := 5

/-- The result of a parse: what it passes on, or the failure. -/
inductive Parsed where
  | ok (x : ParseResult)
  | fail (j : Nat)
  deriving DecidableEq, Repr

/-- What a running parse holds (R233): address, header pointer, node register and its result so far. -/
structure Run where
  addr : Nat
  hp : Nat
  node : Nat
  found : ParseResult
  deriving DecidableEq, Repr

/-- The result a parse begins with. -/
def ParseResult.empty : ParseResult := ⟨[], none, List.replicate 256 0, 0, []⟩

/-- A slow-path reason is raised; 0 raises none. -/
def ParseResult.raise (x : ParseResult) (reason : Nat) : ParseResult :=
  if reason == 0 then x else { x with reasons := x.reasons ++ [reason] }

/-- The bytes the stages build their keys from: the result vector and the header-valid map (R233). -/
def ParseResult.bytes (x : ParseResult) : List Byte := x.vector ++ be 32 x.headers

/-- A key as Psitos laid it out, over what the parse passed on. -/
def ParseResult.key (x : ParseResult) (k : List KeyByte) : List Byte :=
  k.map fun b => match b with
    | .lit b => b
    | .field i => x.bytes.getD i 0

/-- A microword address under R234: the next address, redirected by an enabled match register (R237). -/
def Dev.redirect (d : Dev) (p addr : Nat) : Nat :=
  if addr < 0x4000 then
    match (upto 32).find? fun i => d.on F.PIPE_PATCH_MATCH_EN p i && d.f F.PIPE_PATCH_MATCH_ROM_ADDR p i == addr with
    | some i => 0x4000 + d.f F.PIPE_PATCH_MATCH_PATCH_OFF p i
    | none => addr
  else addr

/-- The microword at an address: a failure outside both regions (R234), or with a parity error in patch RAM (R240). -/
def Dev.fetch (d : Dev) (p : Nat) (bad : List Nat) (addr : Nat) : Nat ⊕ Nat :=
  if addr < 0x4000 then .inr (Config.rom addr % 2 ^ 192)
  else if 0x4200 ≤ addr then .inl pILLEGAL
  else if bad.contains (addr - 0x4000) then .inl pPARITY
  else .inr (d.patchWord p (512 * d.f F.PIPE_UCODE_PATCH_HALF p + (addr - 0x4000)))

/-- Does a read of `n` bytes at `o` reach beyond the frame or byte 1,023 (R233)? -/
def beyond (len o n : Nat) : Bool := decide (min len 1024 < o + n)

/-- An extract of a microword: its offset, length and destination. -/
def extractBad (len : Nat) (r : Run) (off n dst : Nat) : Option Nat :=
  if n == 0 then none
  else if beyond len (r.hp + off) n then some pTRUNCATED
  else if 32 < n || 255 < 2 * dst + n - 1 then some pILLEGAL
  else none

/-- COND of a microword (R235). -/
def Dev.cond (d : Dev) (p u w : Nat) : Bool :=
  let k := bits u 174 170
  let c := (d.get .PIPE_PARSE_CONST p k).toNat
  let masked := w &&& bits u 150 135
  let v := bits u 166 151
  let viaConst := (w &&& bits c 31 16) == bits c 15 0
  match bits u 169 167 with
  | 0 => false
  | 1 => true
  | 2 => masked == v
  | 3 => masked != v
  | 4 => viaConst
  | 5 => !viaConst
  | 6 => decide (masked < v)
  | _ => decide (v ≤ masked)

/-- The new header pointer (R235); none for the illegal mode. -/
def newHp (u w hp : Nat) : Option Nat :=
  let a := bits u 78 69
  match bits u 68 67 with
  | 0 => some (hp + a)
  | 1 => some (hp + a + 4 * (w % 16))
  | 2 => some (hp + a + 8 * (w % 256))
  | _ => none

/-- What one microword does: the parse goes on, or ends. -/
inductive Cycle where
  | on (r : Run)
  | stop (x : Parsed)
  deriving DecidableEq, Repr

/-- The graph's transition for a node and window (R238). -/
def Dev.transition (d : Dev) (p h node w : Nat) : Option Trans :=
  let mask := (SMap.get d.parse.nodes (p * 256 + node) (0, 0)).1
  (SMap.get d.parse.trans p []).find? fun x => x.node == node && x.key == (w &&& mask) && d.visible x.add x.del h

/-- The next address of a microword (R235, R238). -/
def Dev.next (d : Dev) (p h u w : Nat) (r : Run) : Cycle :=
  let goto := fun (a : Nat) (r : Run) => Cycle.on { r with addr := d.redirect p a }
  let inc := fun (r : Run) => if r.addr == 0x3FFF || r.addr == 0x41FF then Cycle.stop (.fail pILLEGAL) else goto (r.addr + 1) r
  match bits u 191 190 with
  | 0 => inc r
  | 1 => if d.cond p u w then goto (bits u 189 175) r else inc r
  | 2 => .stop (.ok r.found)
  | _ =>
    match d.transition p h r.node w with
    | some x => goto x.addr { r with node := x.next }
    | none =>
      let miss := (SMap.get d.parse.nodes (p * 256 + r.node) (0, 0)).2
      .stop (if miss == 0 then .fail pNOTRANS else .ok (r.found.raise miss))

/-- Bytes of the stamp tag at an offset of a frame, as the stamp-tag unit measures it; 0 where it finds none (R203). -/
def Dev.tagAt (d : Dev) (bs : List Byte) (len o : Nat) : Nat :=
  let n := beAt bs (o + 3) 1
  if beAt bs o 2 != d.f F.EV_TAG_CFG_ETYPE || n % 2 == 1 || n < 8 || 64 < n || len < o + n then 0 else n

/-- An extract goes into the result vector. -/
def extracted (v bs : List Byte) (at_ n dst : Nat) : List Byte := if n == 0 then v else patchAt v (2 * dst) (slice bs at_ n)

/-- What a microword that fails nowhere writes of the parse's result: its extracts, HDR_ID, TRAP, TAG and SESS_KEY; `cut`
tells whether TAG found a tag (R235, R236). -/
def microResult (u hp : Nat) (bs : List Byte) (x : ParseResult) (cut : Bool) : ParseResult :=
  let v := extracted (extracted x.vector bs (hp + bits u 124 115) (bits u 114 109) (bits u 108 102)) bs (hp + bits u 101 92) (bits u 91 86) (bits u 85 79)
  let x := { x.raise (bits u 58 51) with vector := v, field := if bit u 49 then some (slice bs (hp + bits u 124 115) 4) else x.field }
  { x with headers := if bits u 66 59 == 0 then x.headers else x.headers ||| 2 ^ bits u 66 59, tags := if cut then x.tags ++ [hp] else x.tags }

/-- One microword, in the order of R236; HP moves past a tag that TAG has removed (R241). -/
def Dev.cycle (d : Dev) (p h : Nat) (x : ParseIn) (bs : List Byte) (len : Nat) (r : Run) : Cycle :=
  match d.fetch p x.bad r.addr with
  | .inl j => .stop (.fail j)
  | .inr u =>
    let wo := r.hp + bits u 134 125
    if beyond len wo 2 then .stop (.fail pTRUNCATED)
    else match extractBad len r (bits u 124 115) (bits u 114 109) (bits u 108 102) with
      | some j => .stop (.fail j)
      | none =>
        match extractBad len r (bits u 101 92) (bits u 91 86) (bits u 85 79) with
        | some j => .stop (.fail j)
        | none =>
          let w := beAt bs wo 2
          let cut := if bit u 48 then d.tagAt bs len r.hp else 0
          match newHp u w (r.hp + cut) with
          | none => .stop (.fail pILLEGAL)
          | some hp =>
            if bits u 47 40 != 0 && len < hp + bits u 47 40 then .stop (.fail pTRUNCATED)
            else if bit u 50 then .stop (.fail pFAIL)
            else d.next p h u w { r with hp := hp, found := microResult u r.hp bs r.found (cut != 0) }

/-- Up to eight microwords; a ninth is the failure LIMIT (R232). -/
def Dev.runParse (d : Dev) (p h : Nat) (x : ParseIn) (bs : List Byte) (len : Nat) : Nat → Run → Parsed
  | 0, _ => .fail pLIMIT
  | n + 1, r => match d.cycle p h x bs len r with
    | .stop y => y
    | .on r => Dev.runParse d p h x bs len n r

/-- The parse of a frame that enters by `port` with Heat `h`. -/
def Dev.parsed (d : Dev) (x : ParseIn) (port h : Nat) (bs : List Byte) (len : Nat) : Parsed :=
  let p := pipeOf port
  d.runParse p h x bs len 8 ⟨d.redirect p x.entry, 0, d.f F.PIPE_PORT_CFG_ENTRY_NODE p (localOf port), .empty⟩

/-! ### Patches (R239, R240) -/

/-- The SHA-256 of a P-256 public key's subjectPublicKeyInfo (R221, R222; assumption 129, DESIGN CHOICE). -/
def keyDigest (x y : Nat) : List Byte :=
  let head : List Byte := [0x30, 0x59, 0x30, 0x13, 0x06, 0x07, 0x2A, 0x86, 0x48, 0xCE, 0x3D, 0x02, 0x01, 0x06, 0x08, 0x2A, 0x86, 0x48,
    0xCE, 0x3D, 0x03, 0x01, 0x07, 0x03, 0x42, 0x00, 0x04]
  sha256 (head ++ be 32 x ++ be 32 y)

/-- Is a message signed with the Wendom code-signing key: a key whose digest is fused (R221)? -/
def Dev.codeSigned (d : Dev) (msg sig : List Byte) : Bool :=
  match d.boot.fuses with
  | some f => keyDigest f.codeKeyX f.codeKeyY == f.codeDigest && ecdsaVerify f.codeKeyX f.codeKeyY msg sig
  | none => false

/-- Are a container's counts, offsets and pipe mask right, and its match entries distinct? -/
def patchFormatOk (p : Nat) (c : List Byte) : Bool :=
  let n := beAt c 12 2
  let m := beAt c 14 2
  let roms := (upto m).map fun i => beAt c (16 + 8 * i) 2
  beAt c 0 4 == 0x4B585054 && bit (beAt c 10 2) p && decide (1 ≤ n) && decide (n ≤ 512) && decide (m ≤ 32) &&
    ((upto m).all fun i => decide (beAt c (16 + 8 * i) 2 < 0x4000) && decide (beAt c (18 + 8 * i) 2 < n)) && roms.eraseDups.length == m

/-- Size of a container up to its signature, from its first 16 bytes. -/
def patchSize (head : List Byte) : Nat := 16 + 8 * beAt head 14 2 + 24 * beAt head 12 2

/-- The checks of R240 after NOT_OWNER, in order: the STATUS of the first that fails, or none. -/
def Dev.patchBad (d : Dev) (p : Nat) (c sig : List Byte) : Option Nat :=
  if !patchFormatOk p c then some 2
  else if beAt c 4 4 != d.f F.PIPE_UCODE_ROM_RELEASE p then some 4
  else if beAt c 8 2 < d.f F.PIPE_UCODE_PATCH_LEVEL p then some 5
  else if !d.codeSigned c sig then some 3
  else none

/-- The checks of R240, in order: the STATUS of the first that fails, or none. A container that cannot be read whole because a
bank is not ON has a wrong format (R435; assumption 146, DESIGN CHOICE). -/
def Dev.patchCheck (d : Dev) (mem : Mem) (m p : Nat) : Option Nat :=
  let off := d.f F.PIPE_PATCH_SRC_OFFSET p
  let size := patchSize (mem.spdRead off 16)
  let owns := fun a => decide (a / 524288 < 32) && d.f F.SPD_BANK_CFG_OWNER (a / 524288) == m
  if !owns off then some 6
  else if !(upto ((off + size + 63) / 524288 - off / 524288 + 1)).all fun i => owns (off + i * 524288) then some 6
  else if (d.spdOff off (size + 64)).isSome then some 2
  else d.patchBad p (mem.spdRead off size) (mem.spdRead (off + size) 64)

/-- A checked container waits in the inactive half. -/
def Dev.patchLoad (d : Dev) (p : Nat) (c : List Byte) : Dev :=
  let n := beAt c 12 2
  let k := beAt c 14 2
  let load : PatchLoad := ⟨beAt c 8 2, (upto n).map fun i => beAt c (16 + 8 * k + 24 * i) 24,
    (upto k).map fun i => (beAt c (16 + 8 * i) 2, beAt c (18 + 8 * i) 2)⟩
  { d with parse := { d.parse with loads := SMap.set d.parse.loads p load } }.setF F.PIPE_PATCH_CTRL_BUSY 1 p

/-- PATCH_GO: reading the container reclaims its banks (R437); the checks of a load; on success the inactive half waits for the switch. -/
def Dev.patchGo (d : Dev) (mem : Mem) (m p : Nat) : Dev :=
  let off := d.f F.PIPE_PATCH_SRC_OFFSET p
  let size := patchSize (mem.spdRead off 16)
  let d := d.spdReach m off (size + 64)
  let d := match d.patchCheck mem m p, d.spdOff off (size + 64) with
    | some 2, some a => d.logNotOn m false a
    | _, _ => d
  match d.patchCheck mem m p with
  | some st => (d.setF F.PIPE_PATCH_CTRL_STATUS st p).setF F.PIPE_PATCH_CTRL_BUSY 0 p
  | none =>
    d.patchLoad p (mem.spdRead off size)

/-- PATCH_SWITCH: the new half and its match registers become active and the old half is zeroed. -/
def Dev.patchSwitch (d : Dev) (p : Nat) : Dev :=
  match SMap.find? d.parse.loads p with
  | none => d
  | some x =>
    let half := 1 - d.f F.PIPE_UCODE_PATCH_HALF p
    let old := 1 - half
    let keep := d.parse.patch.filter fun y => !(y.1 / 1024 == p)
    let words := (upto x.words.length).foldl (fun (m : SMap Nat) i => SMap.set m (p * 1024 + half * 512 + i) (x.words.getD i 0)) keep
    let d := { d with parse := { d.parse with patch := words, loads := SMap.erase d.parse.loads p } }
    let d := ((d.setF F.PIPE_UCODE_PATCH_LEVEL x.level p).setF F.PIPE_UCODE_PATCH_HALF (1 - old) p).setF F.PIPE_UCODE_PATCH_WORDS x.words.length p
    let d := d.each (upto 32) fun d i =>
      match (x.entries.drop i).head? with
      | some y => ((d.setF F.PIPE_PATCH_MATCH_EN 1 p i).setF F.PIPE_PATCH_MATCH_PATCH_OFF y.2 p i).setF F.PIPE_PATCH_MATCH_ROM_ADDR y.1 p i
      | none => d.set .PIPE_PATCH_MATCH 0 p i
    ((d.setF F.PIPE_PATCH_CTRL_BUSY 0 p).setF F.PIPE_PATCH_CTRL_STATUS 1 p).remeasure

end Sys2Proof.Machine
end

