-- ==== Sys2Proof/Machine/Frame.lean ====
section
/-! DEFINITION. The ingress side of a frame's path (R22): stamp, Heat, stamp tag, parse, the ingress stages, meters, the
session update and the copies it makes. -/

namespace Sys2Proof.Machine

/-! ### What the ROM routines recognise (R138, R242) -/

/-- Skip IPv6 extension headers: the protocol and the offset behind them; none for a later fragment. -/
def skipExt : Nat → List Byte → Nat → Nat → Option (Nat × Nat)
  | 0, _, proto, o => some (proto, o)
  | n + 1, bs, proto, o =>
    if proto == 0 || proto == 43 || proto == 60 then skipExt n bs (beAt bs o 1) (o + 8 * (beAt bs (o + 1) 1 + 1))
    else if proto == 44 then if beAt bs (o + 2) 2 / 8 != 0 then none else skipExt n bs (beAt bs o 1) (o + 8)
    else some (proto, o)

/-- The PTP header at `o`, where the message is of version 2 and minor version 0 or 1 (R138); its fields stand where IEEE
1588-2019 puts them (assumption 126, PRESUMED). -/
def ptpAt (bs : List Byte) (transport o : Nat) : Option PtpIn :=
  let v := beAt bs (o + 1) 1
  if v % 16 == 2 && decide (v / 16 ≤ 1) then
    some ⟨transport, beAt bs (o + 4) 1, beAt bs o 1 % 16, bit (beAt bs (o + 6) 1) 1, beAt bs (o + 30) 2, beAt bs (o + 20) 10, o⟩
  else none

/-- The PTP message behind a UDP header: port 319 for event messages, 320 for general ones. -/
def ptpUdp (bs : List Byte) (transport o : Nat) : Option PtpIn :=
  (ptpAt bs transport (o + 8)).filter fun x => beAt bs (o + 2) 2 == if x.msgType < 8 then 319 else 320

/-- The PTP message of a frame (R138): EtherType 0x88F7, or UDP over IPv4 or IPv6. -/
def ptpOf (bs : List Byte) : Option PtpIn :=
  let h := ipOffset bs
  if beAt bs (etherOffset bs) 2 == 0x88F7 then ptpAt bs 0 h
  else if ipVersion bs == 4 then
    if beAt bs (h + 9) 1 == 17 && beAt bs (h + 6) 2 % 8192 == 0 then ptpUdp bs 1 (h + 4 * (beAt bs h 1 % 16)) else none
  else if ipVersion bs == 6 then
    (skipExt 8 bs (beAt bs (h + 6) 1) (h + 40)).bind fun x => if x.1 == 17 then ptpUdp bs 2 x.2 else none
  else none

/-- The protocols of the headers behind an IPv6 header, as far as extension headers go. -/
def ipv6Chain : Nat → List Byte → Nat → Nat → List Nat
  | 0, _, _, _ => []
  | n + 1, bs, proto, o =>
    if proto == 0 || proto == 43 || proto == 60 then proto :: ipv6Chain n bs (beAt bs o 1) (o + 8 * (beAt bs (o + 1) 1 + 1))
    else if proto == 44 then proto :: ipv6Chain n bs (beAt bs o 1) (o + 8)
    else [proto]

/-- The slow-path reasons an IP header raises (R249): IPV4_FRAG, IPV6_FRAG, IPV4_OPTIONS, IPV6_HBH and IPV4_HDR_CSUM. -/
def headerReasons (bs : List Byte) : List Nat :=
  let h := ipOffset bs
  let pick := fun (l : List (Bool × Nat)) => l.filterMap fun x => if x.1 then some x.2 else none
  if ipVersion bs == 4 then
    let ihl := beAt bs h 1 % 16
    pick [(beAt bs (h + 6) 2 % 0x4000 != 0, 1), (5 < ihl, 3), (onesSum (slice bs h (4 * ihl)) != 0xFFFF, 7)]
  else if ipVersion bs == 6 then
    let l := ipv6Chain 8 bs (beAt bs (h + 6) 1) (h + 40)
    pick [(l.contains 44, 2), (l.contains 0, 4)]
  else []

/-! ### Meters (R312 to R315) -/

/-- Tokens of one byte in a meter bucket: rates in kb/s give whole tokens per 0.125 ns of device time. -/
def meterUnit : Nat := 64000000

def Dev.meterRate (d : Dev) (p l w : Nat) : Nat := if d.on F.PIPE_METER_CFG_SCALE p l then w else w * 1000

/-- The two buckets of a meter now: C, and E or P (R313). A bucket not held is full. -/
def Dev.meterTokens (d : Dev) (m : Nat) : Int × Int :=
  let p := m / 4096
  let l := m % 4096
  let capC : Int := d.f F.PIPE_METER_CBS_BYTES p l * meterUnit
  let capE : Int := d.f F.PIPE_METER_EBS_PBS_BYTES p l * meterUnit
  let c := (SMap.find? d.egr.meters (2 * m)).getD ⟨capC, d.now8⟩
  let e := (SMap.find? d.egr.meters (2 * m + 1)).getD ⟨capE, d.now8⟩
  let gain : Int := (d.meterRate p l (d.f F.PIPE_METER_CIR_RATE p l) * (d.now8 - c.at_) : Nat)
  if d.on F.PIPE_METER_CFG_MODE p l then
    let gainP : Int := (d.meterRate p l (d.f F.PIPE_METER_PIR_RATE p l) * (d.now8 - e.at_) : Nat)
    (min capC (c.tokens + gain), min capE (e.tokens + gainP))
  else
    let spillOver := max 0 (c.tokens + gain - capC)
    (min capC (c.tokens + gain), min capE (e.tokens + spillOver))

/-- Colours: 0 green, 1 yellow, 2 red. -/
def Dev.colour (d : Dev) (m pre bytes : Nat) : Dev × Nat :=
  let p := m / 4096
  let l := m % 4096
  if !d.on F.PIPE_METER_CFG_EN p l then (d, 0)
  else
    let b : Int := (bytes + if d.on F.PIPE_METER_CFG_WIRE p l then 20 else 0 : Nat) * meterUnit
    let pre := if d.on F.PIPE_METER_CFG_AWARE p l then pre else 0
    let t := d.meterTokens m
    let r : Nat × Int × Int :=
      if d.on F.PIPE_METER_CFG_MODE p l then
        if pre == 2 || t.2 < b then (2, t.1, t.2)
        else if pre == 1 || t.1 < b then (1, t.1, t.2 - b)
        else (0, t.1 - b, t.2 - b)
      else if pre == 0 && b ≤ t.1 then (0, t.1 - b, t.2)
      else if pre ≤ 1 && b ≤ t.2 then (1, t.1, t.2 - b)
      else (2, t.1, t.2)
    let ms := SMap.set (SMap.set d.egr.meters (2 * m) ⟨r.2.1, d.now8⟩) (2 * m + 1) ⟨r.2.2, d.now8⟩
    ({ d with egr := { d.egr with meters := ms } }.bumpQ .PIPE_METER_CNT p l r.1, r.1)

/-- A frame on its way through the meters: colours given so far, the worst of them, the remark and the drop. -/
structure Metered where
  colours : List (Nat × Nat)
  worst : Nat
  dscp : Option Nat
  drop : Bool
  deriving DecidableEq, Repr

/-- Apply one meter; a meter met before reuses its colour (R312). -/
def Dev.meterOnce (d : Dev) (x : Metered) (m bytes : Nat) : Dev × Metered × Nat :=
  match (x.colours.find? fun c => c.1 == m).map (·.2) with
  | some c => (d, x, c)
  | none =>
    let r := d.colour m x.worst bytes
    (r.1, { x with colours := (m, r.2) :: x.colours, worst := max x.worst r.2 }, r.2)

/-- The action a colour selects at a meter: 0 PASS, 1 REMARK, 2 DROP (R314). -/
def Dev.meterAct (d : Dev) (m colour : Nat) : Nat :=
  if colour == 1 then d.f F.PIPE_METER_CFG_YELLOW_ACT (m / 4096) (m % 4096)
  else if colour == 2 then d.f F.PIPE_METER_CFG_RED_ACT (m / 4096) (m % 4096) else 0

def Dev.meterDscp (d : Dev) (m colour : Nat) : Nat :=
  if colour == 1 then d.f F.PIPE_METER_DSCP_YELLOW_DSCP (m / 4096) (m % 4096) else d.f F.PIPE_METER_DSCP_RED_DSCP (m / 4096) (m % 4096)

/-- A port or stage meter. -/
def Dev.meterStage (d : Dev) (x : Metered) (m bytes : Nat) : Dev × Metered :=
  if x.drop then (d, x)
  else
    let r := d.meterOnce x m bytes
    let act := d.meterAct m r.2.2
    (r.1, { r.2.1 with dscp := if act == 1 then some (d.meterDscp m r.2.2) else r.2.1.dscp, drop := act == 2 })

/-- The port meter and the stage meter of a frame (R312). -/
def Dev.meterFrame (d : Dev) (fr : Frame) (stage : Option Nat) : Dev × Metered :=
  let p := pipeOf fr.ingress
  let n := localOf fr.ingress
  let x : Metered := ⟨[], 0, none, false⟩
  let r := if d.on F.PIPE_PORT_QOS_METER_EN p n then d.meterStage x (d.f F.PIPE_PORT_QOS_METER p n) fr.len else (d, x)
  match stage with
  | some m => r.1.meterStage r.2 m fr.len
  | none => r

/-- The session meter: whether it refuses the frame, and a remark (R315). -/
def Dev.meterSession (d : Dev) (fr : Frame) (x : Metered) : Dev × Metered × Bool :=
  match fr.session with
  | none => (d, x, false)
  | some _ =>
    let cfg := fr.cfg
    if !cfg.meterEn || x.drop then (d, x, false)
    else
      let r := d.meterOnce x cfg.meter fr.len
      if r.2.2 == 2 then (r.1, r.2.1, true)
      else
        let act := d.meterAct cfg.meter r.2.2
        (r.1, { r.2.1 with dscp := if act == 1 then some (d.meterDscp cfg.meter r.2.2) else r.2.1.dscp }, false)

/-! ### Stages (R244, R245, R274, R275) -/

def Acts.none_ : Acts := ⟨0, 0, 0, 0, none, none, false, none, 0, false, 0, []⟩

/-- The actions of an action entry or inline action, in the layout of R275. -/
def Acts.apply (a : Acts) (e : Nat) (route : Bool) : Acts :=
  let go := fun (a : Acts) (k arg : Nat) => { a with dest := k, arg := arg, route := route }
  let a := if bit e 486 then go a 1 (bits e 485 475) else a
  let a := if bit e 487 then go a 2 (bits e 474 461) else a
  let a := if bit e 488 then go a 3 (bits e 460 455) else a
  let a := if bit e 489 then go a 4 (bits e 454 447) else a
  let a := if bit e 490 then { a with stop := 2, user := bits e 446 439 } else a
  let a := if bit e 491 then { a with stop := 1 } else a
  let a := if bit e 492 then { a with cls := some (bits e 438 436) } else a
  let a := if bit e 493 then { a with meter := some (bits e 435 420) } else a
  let a := if bit e 494 then { a with mirror := true } else a
  if bit e 495 then { a with rewrite := some (bits e 419 404) } else a

/-- Is an action index usable by a frame of Heat `h`: 0, or a valid visible entry (R253, R294)? -/
def Dev.actionOk (d : Dev) (idx h : Nat) : Bool :=
  let c := ctlOf 512 (SMap.get d.tbl.action idx 0)
  idx == 0 || (ctlValid c && d.visible (ctlAdd c) (ctlDel c) h)

def Dev.actionAt (d : Dev) (idx : Nat) : Nat := if idx == 0 then 0 else SMap.get d.tbl.action idx 0

def Acts.hit (a : Acts) (s : Nat) : Acts := { a with hits := a.hits ||| 2 ^ s }

/-- A refreshing hit sets HIT (R274). -/
def Dev.refresh (d : Dev) (mem : Mem) (t idx e : Nat) : Dev := d.setEntry mem t idx (withCtl (widthOf t) e (ctlOf (widthOf t) e ||| 2 ^ 12))

/-- The inline action of an HBM entry in the layout of R275 (R279). -/
def inlineAction (e : Nat) : Nat := bits e 411 320 * 2 ^ 404

/-- SET_PORT with the PORT of an L2 entry (R274). -/
def Acts.toPort (a : Acts) (e : Nat) : Acts := { a with dest := 1, arg := bits e 111 101, route := false }

/-- One ingress stage's lookup, with its key built from what the parse passed on; an HBM lookup is made elsewhere. A hit
that names an action entry that is corrupt, or invisible to the frame, is a miss (R294, assumption 43, DEDUCED). -/
def Dev.stage (d : Dev) (mem : Mem) (fr : Frame) (x : ParseResult) (a : Acts) (s : Nat) (l : StageLookup) : Dev × Acts :=
  let h := fr.heat
  match l with
  | .em t k =>
    let key := x.key k
    match d.findKey mem t key h with
    | none => (d.countLookup t false, a)
    | some (idx, e) =>
      let act := if t == 0 then bits e 100 85 else bits e 239 224
      if !d.actionOk act h then (d.countLookup t false, a)
      else
        let d := d.countLookup t true
        let d := if t == 1 then d.refresh mem 1 idx e else d
        let a := if t == 0 then a.toPort e else a
        (d, (a.apply (d.actionAt act) (t == 1)).hit s)
  | .l2src k =>
    let key := x.key k
    match (d.findKey mem 0 key h).filter fun y => d.actionOk (bits y.2 100 85) h with
    | none => (d.countLookup 0 false, { a with learn := 1, learnKey := key })
    | some (idx, e) =>
      let d := (d.countLookup 0 true).refresh mem 0 idx e
      let away := bits e 111 101 != fr.ingress
      let a := { a with learn := if !away then 0 else if ctlLearned (ctlOf 128 e) then 1 else 2, learnKey := key }
      (d, ((a.toPort e).apply (d.actionAt (bits e 100 85)) false).hit s)
  | .lpm fam addr =>
    match d.lpmFind fr.partition fam (x.key addr) h with
    | none => (d.countLookup 3 false, a)
    | some y =>
      if !d.actionOk y.action h then (d.countLookup 3 false, a)
      else (d.countLookup 3 true, (a.apply (d.actionAt y.action) true).hit s)
  | .tcam lo hi key =>
    match d.tcamFind (pipeOf fr.ingress) lo hi (ofBe (x.key key)) h with
    | none => (d.countLookup 5 false, a)
    | some (_, y) =>
      let act := bits y.res 15 0
      if !d.actionOk act h then (d.countLookup 5 false, a)
      else (d.countLookup 5 true, (a.apply (d.actionAt act) false).hit s)
  | .hbm _ => (d, a)

/-- The lookups assigned to the stages of a range, in stage order. -/
def Dev.stages (d : Dev) (mem : Mem) (fr : Frame) (f : FrameIn) (p : ParseResult) (a : Acts) (lo hi : Nat) : Dev × Acts :=
  (upto (hi + 1)).foldl (fun (x : Dev × Acts) s =>
    if s < lo then x
    else match f.stages.find? fun l => l.1 == s with
      | some l => x.1.stage mem fr p x.2 s l.2
      | none => x) (d, a)

/-! ### Copies -/

/-- The class of a port's frames when no stage sets one (R244). -/
def Dev.defClass (d : Dev) (port : Nat) : Nat := 4 + d.f F.PIPE_PORT_DEFAULT_DEF_CLASS (pipeOf port) (localOf port)

/-- A new copy of a frame. -/
def Dev.newCopy (d : Dev) (fr : Frame) (e cls : Nat) (kind : Kind) : Dev × Copy :=
  let c : Copy :=
    { id := d.buf.nextCopy, frame := fr, desc := none, egress := e, cls := cls, served := cls, kind := kind, stage := .decided,
      bound := 0, pred8 := none, deferred := false, reason := 0, ann := fr.ann, ct := false, badTail := false, heat := fr.heat,
      wire := d.wireOf fr.len e, counted := false, chMin := 0, chRes := 0, chShared := 0, chHead := 0, owner := none, cells := [],
      firstSector := 0, cellsRead := [], slack8 := 0, slackTaken := [], slackD8 := 0, inserting := false, launchP8 := 0,
      launchQ8 := 0, eligible := false, slipped := false, collided := false, selected := false, started := false, depart8 := none,
      useAtSel := none, ce := false, record := false, heldOver := false, enqCell := 0, agedOut := false, startCell := 0, fragAt := 0, sent := 0,
      order := 0, leftCell := d.cell, guard8 := 0, spillAt := 0 }
  ({ d with buf := { d.buf with nextCopy := d.buf.nextCopy + 1 } }.setCopy c, c)

/-- The copies of a frame, in order. -/
def Dev.makeCopies (d : Dev) (fr : Frame) (cls : Nat) (kind : Kind) : List Nat → Dev × List Copy
  | [] => (d, [])
  | e :: rest =>
    let r := d.newCopy fr e cls kind
    let s := Dev.makeCopies r.1 fr cls kind rest
    (s.1, r.2 :: s.2)

/-- No port (R3): destination 0x07FF. -/
def noPort : Nat := 0x7FF

/-- The observation copy of R246. -/
def Dev.observe (d : Dev) (fr : Frame) : Dev :=
  let p := pipeOf fr.ingress
  let n := localOf fr.ingress
  let e := d.f F.PIPE_PORT_MIRROR_MIRROR_PORT p n
  let trunc := d.f F.PIPE_PORT_MIRROR_TRUNC p n
  let len := if trunc == 0 then fr.len else min trunc fr.len
  if !d.usablePort e then d.bumpQ .PIPE_PORT_CNT p n 7
  else
    let seen := { fr with len := len, session := none, trace := none, ptp := none, inj := none, ivl := none }
    (d.newCopy seen e (d.defClass e) .observation).1

/-- Members of a release group, by port number (R192). -/
def Dev.members (d : Dev) (r : Nat) : List Nat :=
  (upto 32).flatMap fun w =>
    let x := (d.get .STG_MEMBERS r w).toNat
    (upto 32).filterMap fun b => if bit x b then some (32 * w + b) else none

/-- Where a frame goes at the end of stage 11. -/
inductive Dest where
  /-- Its copies: class, kind and egress ports. -/
  | copies (cls : Nat) (kind : Kind) (ports : List Nat)
  /-- Discarded under R247 (true), or under R251 without an ACL_DROP count. -/
  | drop (cls : Nat) (acl : Bool)
  /-- A group that cannot take the frame (R552): class, port counted, and the group field of R200. -/
  | noGroup (cls e field : Nat)
  /-- Trapped with a reason and user code (R250). -/
  | trap (reason user cls : Nat)
  deriving DecidableEq, Repr

/-- The destination of resolved actions (R244, R552). -/
def Dev.destOf (d : Dev) (a : Acts) (f : FrameIn) (cls : Nat) : Dest :=
  if a.dest == 1 then if d.usablePort a.arg then .copies cls .unicast [a.arg] else .drop cls true
  else if a.dest == 2 then .copies cls (.multicast a.arg) (f.members.filter d.usablePort)
  else if a.dest == 3 then
    let e := d.f F.FIN_GRP_CFG_PORT a.arg
    let c := d.f F.FIN_GRP_CFG_CLASS a.arg
    if d.on F.FIN_CTRL_EN && d.on F.FIN_GRP_CFG_EN a.arg then .copies c (.finish a.arg) [e] else .noGroup c e (0x8000 + a.arg)
  else
    let c := d.f F.STG_GRP_CFG_CLASS a.arg
    let ms := d.members a.arg
    if d.on F.STG_GRP_CFG_EN a.arg && !ms.isEmpty then .copies c (.release a.arg) ms else .noGroup c noPort (0x9000 + a.arg)

/-- The action of a slow-path reason 1 to 7 (R249). -/
def Dev.slowAction (d : Dev) (fr : Frame) (j : Nat) : Nat :=
  let p := pipeOf fr.ingress
  let t := beAt fr.bytes (etherOffset fr.bytes) 2
  let listed := (upto 8).find? fun k => d.on F.PIPE_ETYPE_EN p k && d.f F.PIPE_ETYPE_ETYPE p k == t
  match listed with
  | some k => if j == 6 then d.f F.PIPE_ETYPE_ACTION p k else d.f F.PIPE_SLOW_CFG_ACTION p (j - 1)
  | none => d.f F.PIPE_SLOW_CFG_ACTION p (j - 1)

/-- TTL or hop limit of a frame. -/
def ttlOf (bs : List Byte) : Option Nat :=
  if ipVersion bs == 4 then some (beAt bs (ipOffset bs + 8) 1)
  else if ipVersion bs == 6 then some (beAt bs (ipOffset bs + 7) 1) else none

/-- The slow-path reason that decides: the lowest that the parse, the frame's headers or the stages raise, TTL_EXPIRED only
on a routed frame (R249). -/
def slowReason (fr : Frame) (a : Acts) (reasons : List Nat) : Option Nat :=
  let ttl := a.route && (match ttlOf fr.bytes with
    | some n => decide (n ≤ 1)
    | none => false)
  let l := ((reasons ++ headerReasons fr.bytes).filter fun j => j != 5 && decide (1 ≤ j) && decide (j ≤ 7)) ++ (if ttl then [5] else [])
  l.foldl (fun (r : Option Nat) j => match r with
    | some k => some (min j k)
    | none => some j) none

/-- Is a PTP message terminated at the device (R139): BOUNDARY mode, peer-delay messages of TRANSPARENT_P2P, and before
service every message of an enabled domain (R453)? -/
def Dev.ptpTerminated (d : Dev) (x : PtpIn) : Bool :=
  match d.ptpEntry x with
  | none => false
  | some i =>
    let mode := d.f F.TIME_PTP_DOM_MODE i
    !d.serving || mode == 0 || (mode == 2 && (x.msgType == 2 || x.msgType == 3 || x.msgType == 10))

/-- A default action of R251, as a destination; MIRROR sends its observation copy. -/
def Dev.defaultAction (d : Dev) (fr : Frame) (act reason : Nat) : Dev × Dest :=
  let c := d.defClass fr.ingress
  let e := d.f F.PIPE_PORT_DEFAULT_DEFAULT_PORT (pipeOf fr.ingress) (localOf fr.ingress)
  if act == 1 && d.usablePort e then (d, .copies c .unicast [e])
  else if act == 2 then (d, .trap reason 0 c)
  else if act == 3 then (d.observe fr, .drop c false)
  else (d, .drop c false)

/-- Resolve a frame's destination at the end of stage 11 (R139, R244, R249, R251). The last result is the slow-path
reason raised. -/
def Dev.resolve (d : Dev) (fr : Frame) (f : FrameIn) (a : Acts) (reasons : List Nat) : Dev × Dest × Nat :=
  let p := pipeOf fr.ingress
  let n := localOf fr.ingress
  let cls := a.cls.getD (d.defClass fr.ingress)
  if (fr.ptp.map d.ptpTerminated).getD false then (d, .trap 11 0 cls, 11)
  else
    let slow := slowReason fr a reasons
    let act := (slow.map (d.slowAction fr)).getD 0
    let code := slow.getD 0
    let d := if slow.isSome && act == 0 then d.bumpQ .PIPE_PORT_CNT p n 2 else d
    if act == 1 then (d, .trap code 0 cls, code)
    else if act == 2 then (d, .drop cls true, code)
    else if a.stop == 1 then (d, .drop cls true, code)
    else if a.stop == 2 then (d, .trap 10 a.user cls, 10)
    else if a.dest == 0 then
      let d := d.bumpQ .PIPE_PORT_CNT p n 1
      let r := d.defaultAction fr (d.f F.PIPE_PORT_DEFAULT_ON_NOMATCH p n) 9
      (r.1, r.2, if d.f F.PIPE_PORT_DEFAULT_ON_NOMATCH p n == 2 then 9 else code)
    else (d, d.destOf a f cls, code)

/-! ### Traps (R250) -/

/-- A token of a trap meter: one packet; RATE tokens come per 0.125 ns. -/
def trapUnit : Nat := 8000000

/-- Take a packet's token from the trap meter of a reason. -/
def Dev.trapToken (d : Dev) (p j : Nat) : Dev × Bool :=
  let rate := d.f F.PIPE_TRAP_CFG_RATE p (j - 1)
  let key := p * 32 + j
  let b := ((SMap.find? d.parse.trapMeters key).getD ⟨64 * trapUnit, d.now8⟩).refill d.now8 rate (64 * trapUnit)
  let ok := rate != 0 && decide ((trapUnit : Int) ≤ b.tokens)
  let b := if ok then { b with tokens := b.tokens - trapUnit } else b
  ({ d with parse := { d.parse with trapMeters := SMap.set d.parse.trapMeters key b } }, ok)

/-- The 16-byte trap header (R250); a PTP message carries its trimmed stamp (R139). -/
def Dev.trapHeader (d : Dev) (fr : Frame) (reason user cls : Nat) : List Byte :=
  let s := if reason == 11 then d.rxTrimmed fr.ingress fr.stamp8 else fr.stamp8
  be 1 1 ++ be 1 reason ++ be 2 fr.ingress ++ be 1 (fr.heat * 16 + cls) ++ be 1 fr.ann ++ be 2 (fr.session.getD 0xFFFF) ++
    be 4 (short s) ++ be 1 (s % 8 * 32) ++ be 1 user ++ be 2 0

/-- Port and class of a trap reason; PTP always goes to port 1025. -/
def Dev.trapPort (d : Dev) (p j : Nat) : Nat := if j == 11 || d.on F.PIPE_TRAP_CFG_PORT p (j - 1) then 1025 else 1024
def Dev.trapClass (d : Dev) (p j : Nat) : Nat := 4 + d.f F.PIPE_TRAP_CFG_CLASS p (j - 1)

/-! ### Session classification (R242, R243, R195, R196) -/

/-- IP source, protocol and L4 source port of key mode FLOW; none for a later fragment. -/
def flowKey (bs : List Byte) : Option (List Byte) :=
  let h := ipOffset bs
  let port := fun (proto o : Nat) => if proto == 6 || proto == 17 || proto == 33 || proto == 132 then slice bs o 2 else be 2 0
  if ipVersion bs == 4 then
    if beAt bs (h + 6) 2 % 8192 != 0 then none
    else
      let proto := beAt bs (h + 9) 1
      some (slice bs (h + 12) 4 ++ be 1 proto ++ port proto (h + 4 * (beAt bs h 1 % 16)))
  else if ipVersion bs == 6 then
    (skipExt 8 bs (beAt bs (h + 6) 1) (h + 40)).map fun x => slice bs (h + 8) 16 ++ be 1 x.1 ++ port x.1 x.2
  else some []

/-- VLAN identifier of a frame; 0 when untagged. -/
def vlanOf (bs : List Byte) : Nat := if etherOffset bs == 12 then 0 else beAt bs 14 2 % 4096

/-- The session key of a frame (R242, R268); none when no key is formed. -/
def Dev.sessionKey (d : Dev) (fr : Frame) (field : Option (List Byte)) : Option (List Byte) :=
  let mode := d.f F.PIPE_PORT_CFG_SESS_KEY (pipeOf fr.ingress) (localOf fr.ingress)
  let wrap := fun (k : List Byte) => slice (be 1 fr.partition ++ be 1 mode ++ k) 0 21
  if mode == 0 then none
  else if mode == 1 then some (wrap (slice fr.bytes 6 6 ++ be 2 (vlanOf fr.bytes)))
  else if mode == 2 then (flowKey fr.bytes).map wrap
  else field.map fun x => wrap (slice x 0 4)

/-- Classify a frame: the device, the frame with its session and sequence, whether a timed copy of it fails NO_SESSION, and
whether the session stage hit. -/
def Dev.classify (d : Dev) (mem : Mem) (fr : Frame) (field : Option (List Byte)) : Dev × Frame × Bool × Bool :=
  let p := pipeOf fr.ingress
  let n := localOf fr.ingress
  let needs := d.on F.PIPE_PORT_CFG_TIMED_NEEDS_SESSION p n
  match d.sessionKey fr field with
  | none => (d, fr, needs, false)
  | some key =>
    let hit := (d.findKey mem 2 key fr.heat).filter fun x => (d.session (bits x.2 238 224)).partition == fr.partition
    match hit with
    | none => ((d.countLookup 2 false).bumpQ .PIPE_PORT_CNT p n 6, fr, needs, false)
    | some x =>
      let d := d.countLookup 2 true
      let s := bits x.2 238 224
      let ctx := d.session s
      if !ctx.en then (d, fr, true, true)
      else
        let t := fr.stamp
        let d := d.updSession s fun y => { y with nextSeq := (y.nextSeq + 1) % 2 ^ 32, frames := y.frames + 1, lastSec := secOf t, lastNs := nsOf t }
        (d, { fr with session := some s, seq := ctx.nextSeq, cfg := ⟨ctx.meterEn, ctx.meter, ctx.excerpt, ctx.noticePort⟩ }, false, true)

/-! ### The session update and the frame's copies (R39, R195 to R209) -/

/-- The DECISION record of a copy that ends before its buffer write, with the backlog or the queue use it met (R507, R510). -/
def Dev.traceRefusal (d : Dev) (c : Copy) (reason : Nat) (verdict : Nat := 2) : Dev :=
  d.traceDecision c verdict reason (if 1032 ≤ c.egress then 0 else if c.cls < 4 then d.backlog c.egress c.cls else d.used (queueOf c.egress c.served))

/-- The destination field of a whole frame (R64, R200). -/
def wholeField (kind : Kind) (ports : List Nat) : Nat :=
  match kind with
  | .multicast g => 0xC000 + g
  | .release r => 0x9000 + r
  | .finish g => 0x8000 + g
  | .noGroup x => x
  | .unicast | .observation => ports.headD noPort

/-- A refusal of the whole frame at the session update: SESSION_METER_RED with one record, or JOURNAL_FULL without
(R198, R209, R315). No Hurdle has decided it, so its notice gives a bound of 0, and one notice counts for every copy
(assumption 121, DEDUCED). -/
def Dev.refuseWhole (d : Dev) (fr : Frame) (cls field : Nat) (l : List Copy) (reason : Nat) : Dev :=
  let one := fun (d : Dev) (c : Copy) =>
    let d := (d.countVerdict c 2 reason).txNotSent fr c.egress
    let d := match c.refusedGroup with
      | some r => d.bumpQ .STG_CNT r 2
      | none => d
    let d := d.pcEvent 5 c.egress (some c.cls) (fun v => v == 2)
    let d := d.pcEvent 6 c.egress (some c.cls) (fun v => v == reason)
    let d := d.pcEvent 7 c.egress (some c.cls) (fun v => c.ann.testBit v)
    let d := (d.traceRefusal c reason).traceOutcome c 2 reason c.ann
    (d.traceTimed c 2 reason c.ann).freeCopy c
  let d := d.each l one
  match fr.session with
  | none => d
  | some s =>
    if reason == rMETER then
      let d := (d.addOpen fr.partition 1).updSession s fun x => { x with refused := x.refused + 1 }
      let r := d.closeRecord fr (fr.recordBody cls fr.heat field 2 reason fr.ann none) none
      r.1.notify fr 1 cls fr.heat field 2 reason fr.ann 0 0xFFFFFFFF r.2 (l.flatMap Copy.noticeCounters)
    else
      let d := d.unjournaled fr.partition s
      d.each l fun d c => d.notify fr 1 c.cls fr.heat field 2 reason fr.ann 0 0xFFFFFFFF 0xFFFFFFFFFFFFFFFF c.noticeCounters

/-- Send each copy on: to the Hurdle, to the buffer write, or to its refusal (R38, R39, R127). -/
def Dev.launchCopies (d : Dev) (l : List Copy) (noSess : Bool) : Dev :=
  d.each l fun d c =>
    if c.cls < 4 then
      if c.frame.session.isNone && noSess then (d.traceRefusal c rNOSESS).discard c rNOSESS
      else if c.frame.born < d.time.preStepFrames then (d.traceRefusal c rAGED).discard c rAGED aOVERDUE
      else d.request c
    else d

/-- A frame's copies are made and meet the session update (R195 to R209). A frame that makes none, a multicast without a usable
member, is refused by it as well, and is never sent (R149, R315). -/
def Dev.update (d : Dev) (fr : Frame) (cls : Nat) (kind : Kind) (ports : List Nat) (red : Bool)
    (last : Dev → List Copy → Dev) : Dev :=
  let r := d.makeCopies fr cls kind ports
  let d := (r.1.mapOwe fr r.2.length).when_ r.2.isEmpty fun d => (d.txNotSent fr noPort).accepted fr
  let field := wholeField kind ports
  if red then d.refuseWhole fr cls field r.2 rMETER
  else if fr.session.isSome then
    if d.journalFull fr.partition r.2.length then d.refuseWhole fr cls field r.2 rJOURNAL
    else
      let l := r.2.map fun c => { c with record := true }
      let d := d.each l fun d c => d.setCopy c
      last (d.addOpen fr.partition l.length) l
  else last d r.2

/-- Does the frame's destination at the end of stage 11 stand as DROP (R247, R281)? A later verdict, of TTL_EXPIRED, a meter
or a default action, is not that. -/
def Dev.dropAction (d : Dev) (fr : Frame) (a : Acts) (slow : Nat) : Bool :=
  let act := if slow == 0 || slow == 5 || 8 ≤ slow then 0 else d.slowAction fr slow
  slow != 11 && (act == 2 || (act == 0 && a.stop == 1))

/-- The end of stage 11 and the session update. -/
def Dev.finishFrame (d : Dev) (fr : Frame) (f : FrameIn) (a : Acts) (reasons : List Nat) (noSess : Bool) : Dev :=
  let p := pipeOf fr.ingress
  let n := localOf fr.ingress
  let r := d.resolve fr f a reasons
  let d := r.1
  let slow := r.2.2
  let metered := match r.2.1 with
    | .copies _ _ _ => d.meterFrame fr a.meter
    | .noGroup _ _ _ => d.meterFrame fr a.meter
    | .drop _ _ => if d.dropAction fr a slow then (d, ⟨[], 0, none, false⟩) else d.meterFrame fr a.meter
    | .trap _ _ _ => (d, ⟨[], 0, none, false⟩)
  let d := metered.1
  let cls := a.cls.getD (d.defClass fr.ingress)
  let dest := match r.2.1, metered.2.drop with
    | .copies c _ _, true => Dest.drop c true
    | .noGroup c _ _, true => Dest.drop c true
    | x, _ => x
  let sess := match dest with
    | .trap _ _ _ => (d, metered.2, false)
    | _ => d.meterSession fr metered.2
  let d := sess.1
  let fr := { fr with meterDscp := sess.2.1.dscp, rewrite := a.rewrite }
  let red := sess.2.2
  let front : Bool := decide (f.port < 1024)
  let learnOn := d.on F.TBL_CTRL_LEARN_EN && front && d.on F.TBL_PORT_LEARN_EN fr.ingress
  let unicastSrc := beAt fr.bytes 6 1 % 2 == 0
  let d := if a.learn == 1 && learnOn && unicastSrc && !d.dropAction fr a slow then d.learnEvent a.learnKey fr
    else if a.learn == 2 then learnDrop d else d
  let d := if a.mirror then d.observe fr else d
  let d := match fr.ptp with
    | none => d
    | some x =>
      match d.ptpEntry x with
      | none => d.bump F.TIME_PTP_CNT_COUNT 0
      | some i =>
        if d.on F.TIME_PTP_DOM_SERVO i && !d.ptpTerminated x then
          (d.newCopy { fr with trapHdr := d.trapHeader fr 11 0 cls, session := none, trace := none, ptp := none, inj := none }
            1025 (d.trapClass p 11) .observation).1
        else d
  let trace := fun (d : Dev) (verdict reason dst : Nat) => d.traceIngress fr cls verdict reason dst slow 0 a.hits
  let d := d.enters fr cls
  match dest with
  | .copies c kind ports =>
    (trace d 0xFF 0 (wholeField kind ports)).update fr c kind ports red fun d l => d.launchCopies l noSess
  | .drop c acl =>
    let d := if acl then d.bumpQ .PIPE_PORT_CNT p n 5 else d
    let timed := c < 4
    let d := trace d (if timed then 2 else 3) (if timed then rHURDLE else 0) noPort
    d.update fr c .unicast [noPort] red fun d l => d.each l fun d x =>
      let reason := if !timed then 0 else if x.frame.session.isNone && noSess then rNOSESS else rHURDLE
      (d.traceRefusal x reason (if timed then 2 else 3)).discard x reason
  | .noGroup c e field =>
    let d := trace d 0xFF 0 field
    d.update fr c (.noGroup field) [e] red fun d l => d.launchCopies l noSess
  | .trap reason user c =>
    let t := d.trapToken p reason
    let d := t.1
    let e := d.trapPort p reason
    let tc := d.trapClass p reason
    let fr := { fr with trapHdr := d.trapHeader fr reason user c, ptp := none }
    if t.2 then
      let d := d.bumpQ .PIPE_PORT_CNT p n 3
      let d := trace d 0xFF 0 e
      d.update fr tc .unicast [e] false fun d _ => d
    else
      let d := d.bumpQ .PIPE_PORT_CNT p n 4
      let d := trace d 3 0 e
      d.update fr tc .unicast [e] false fun d l => d.each l fun d x => (d.traceRefusal x 0 3).discard x 0

/-! ### HBM lookups (R245, R280) -/

/-- The key bytes of an HBM lookup (R268). -/
def hbmKey (part : Nat) (key : List Byte) : List Byte := be 1 part ++ be 1 key.length ++ slice key 0 32

/-- The stages after the HBM result is applied. -/
def Dev.afterHbm (d : Dev) (mem : Mem) (fr : Frame) (f : FrameIn) (a : Acts) (x : ParseResult) (noSess : Bool) : Dev :=
  let r := d.stages mem fr f x a 7 11
  r.1.finishFrame fr f r.2 x.reasons noSess

/-- Answered lookups of a pipe leave its ingress pipeline in order. -/
def Dev.releaseWaiting (d : Dev) (mem : Mem) (p : Nat) : Nat → Dev
  | 0 => d
  | n + 1 =>
    match d.waiting.find? fun w => pipeOf w.frame.ingress == p with
    | none => d
    | some w =>
      if w.ready then
        let d := { d with waiting := d.waiting.filter fun (x : Waiting) => x.frame.id != w.frame.id }
        Dev.releaseWaiting (d.afterHbm mem w.frame w.input w.acts w.parsed w.noSess) mem p n
      else d

/-- Answer a waiting lookup with a hit or a miss. -/
def Dev.answer (d : Dev) (mem : Mem) (w : Waiting) (hit : Option Nat) : Dev :=
  let d := d.countLookup 6 hit.isSome
  let a := match hit with
    | some e => (w.acts.apply (inlineAction e) false).hit 7
    | none => w.acts
  let d := { d with waiting := d.waiting.map fun (x : Waiting) => if x.frame.id == w.frame.id then { x with acts := a, ready := true } else x }
  d.releaseWaiting mem (pipeOf w.frame.ingress) d.waiting.length

def Dev.waiter (d : Dev) (fid : Nat) : Option Waiting := d.waiting.find? fun w => w.frame.id == fid && !w.ready

/-- HBM_LOOKUP_SHED: the lookup takes the miss result (R280). -/
def Dev.hbmShed (d : Dev) (mem : Mem) (fid : Nat) : Dev :=
  match d.waiter fid with
  | none => d
  | some w => (d.setQ .TBL_HBM_SHED (d.q .TBL_HBM_SHED + 1)).answer mem w none

/-- HBM_LOOKUP_RETURN: the bucket returns as it stood when the read was accepted (R341). An uncorrectable error makes the
lookup a miss, and invalidates each entry of the bucket whose bytes it covers: those of the set bits of `bad` (R294). -/
def Dev.hbmReturn (d : Dev) (mem : Mem) (fid bad : Nat) : Dev :=
  match d.waiter fid with
  | none => d
  | some w =>
    if w.sinceTick + 320 < d.time.ticks then d.hbmShed mem fid
    else
      let b := d.bucketOf 6 w.key
      let bad := (upto 4).foldl (fun a i => a ||| b2n (d.knownBad (tableBase + 64 * (4 * b + i)) 64) * 2 ^ i) (bad % 16)
      if bad == 0 then d.answer mem w w.found
      else
        (d.each ((upto 4).filter (bit bad)) fun d i => d.corruptEntry mem 6 5 0 (4 * b + i) 0).answer mem w none

/-! ### Arrival (R22, R23, R132, R203, R453, R481) -/

/-- What the stamp-tag unit leaves of a frame (R203). -/
structure Tagged where
  bytes : List Byte
  len : Nat
  ann : Nat
  edge : Option (Nat × Nat)
  deriving DecidableEq, Repr

/-- The stamp-tag unit at an offset of a frame (R203, R241). An internal port has no EV_TAG_PORT: a tag that arrives there
is removed and ignored, as on a port whose RX_EN is 0 (assumption 47, DESIGN CHOICE). -/
def Dev.stampTagUnit (d : Dev) (port : Nat) (bs : List Byte) (len : Nat) (o : Nat := 12) : Dev × Tagged :=
  let n := d.tagAt bs len o
  if n == 0 then (d, ⟨bs, len, 0, none⟩)
  else
    let ver := beAt bs (o + 2) 1
    let cut : Tagged := ⟨bs.take o ++ bs.drop (o + n), len - n, 0, none⟩
    let front := decide (port < 1024)
    if !front || !d.on F.EV_TAG_PORT_RX_EN port then (if front then d.bump F.EV_TAG_PORT_TAG_UNTRUSTED port else d, cut)
    else if ver == 1 && n == 20 then
      let w := beAt bs (o + 4) 3
      let t := (beAt bs (o + 8) 6 * 1000000000 + beAt bs (o + 14) 4) * 8 + beAt bs (o + 18) 2 / 0x2000
      (d, { cut with ann := b2n (bit w 23) * aHOLDOVER + b2n (bit w 22) * aFSU, edge := some (t, w % 2 ^ 18) })
    else (d.bump F.EV_TAG_PORT_TAG_BADVER port, { cut with ann := aFSU })

/-- A frame that ends at a parse failure (R251, R264): no routine recognised a session or a PTP message in it. One that
recirculates keeps its session (R22), and its copies take their verdicts and records. -/
def Dev.parseFailed (d : Dev) (fr : Frame) (j : Nat) : Dev :=
  let fr := { fr with ptp := none }
  let p := pipeOf fr.ingress
  let n := localOf fr.ingress
  let d := (d.set .PIPE_PARSE_ERR (word (min (2 ^ 32 - 1) ((d.get .PIPE_PARSE_ERR p j).toNat + 1))) p j).bumpQ .PIPE_PORT_CNT p n 0
  let r := d.defaultAction fr (d.f F.PIPE_PORT_DEFAULT_ON_FAIL p n) 8
  let d := r.1
  let cls := d.defClass fr.ingress
  let lost := fun (d : Dev) (l : List Copy) => d.each l fun d x => (d.traceRefusal x 0 3).discard x 0
  let d := d.enters fr cls
  match r.2 with
  | .copies c kind ports =>
    (d.traceIngress fr cls 0xFF 0 (wholeField kind ports) 0 (1 + j) 0).update fr c kind ports false fun d _ => d
  | .trap reason user c =>
    let t := d.trapToken p reason
    let d := t.1
    let e := d.trapPort p reason
    let d := (d.traceIngress fr cls (if t.2 then 0xFF else 3) 0 e reason (1 + j) 0).bumpQ .PIPE_PORT_CNT p n (if t.2 then 3 else 4)
    d.update { fr with trapHdr := d.trapHeader fr reason user c } (d.trapClass p reason) .unicast [e] false fun d l =>
      if t.2 then d else lost d l
  | _ => (d.traceIngress fr cls 3 0 noPort 0 (1 + j) 0).update fr cls .unicast [noPort] false lost

/-- The tags that microwords found while parsing are removed, and their stamps used (R235, R241). -/
def Dev.parsedTags (d : Dev) (fr : Frame) (tags : List Nat) : Dev × Frame :=
  tags.reverse.foldl (fun (x : Dev × Frame) o =>
    let t := x.1.stampTagUnit fr.ingress x.2.bytes x.2.len o
    let fr := { x.2 with bytes := t.2.bytes, len := t.2.len, ann := x.2.ann ||| t.2.ann }
    (t.1, match t.2.edge with
      | some y => { fr with edge8 := y.1, edgeDev := y.2, tagged := true, edgeHold := bit t.2.ann 4 }
      | none => fr)) (d, fr)

/-- The HBM lookup a frame's stages are assigned. -/
def hbmLookup (f : FrameIn) : Option (List KeyByte) :=
  f.stages.findSome? fun l => match l.2 with
    | .hbm key => some key
    | _ => none

/-- Stages 1 to 11 of a frame: up to stage 6, then its HBM lookup where it makes one (R245). `sess` tells whether stage 0 hit. -/
def Dev.runStages (d : Dev) (mem : Mem) (fr : Frame) (f : FrameIn) (x : ParseResult) (noSess sess : Bool) : Dev :=
  let r := d.stages mem fr f x { Acts.none_ with hits := b2n sess } 1 3
  let d := r.1
  let best := 4 ≤ r.2.cls.getD (d.defClass fr.ingress)
  let s := d.stages mem fr f x r.2 4 6
  let d := s.1
  match hbmLookup f with
  | none => d.afterHbm mem fr f s.2 x noSess
  | some k =>
    if !best then (d.countLookup 6 false).afterHbm mem fr f s.2 x noSess
    else
      let p := pipeOf fr.ingress
      let full := 512 ≤ (d.waiting.filter fun (w : Waiting) => pipeOf w.frame.ingress == p && !w.ready).length
      let key := hbmKey fr.partition (x.key k)
      let w : Waiting := ⟨fr, f, d.time.ticks, s.2, x, noSess, key, (d.findKey mem 6 key 0 0).map (·.2), false⟩
      let d := { d with waiting := d.waiting ++ [w] }
      if full then d.hbmShed mem fr.id else d.askRead 0 (tableBase + d.bucketOf 6 key * 256) 256 fr.partition

/-- The frame a FRAME_RECEIVE makes of an arrival. -/
def Dev.arrival (d : Dev) (f : FrameIn) (t : Tagged) : Frame :=
  let s8 := if f.port < 1024 then d.now8 - f.path8 else d.now8
  let hold := if d.timeState == 1 then 0 else aHOLDOVER
  { id := d.buf.nextFrame, ingress := f.port, bytes := t.bytes, len := t.len, rxLen := f.len, stamp8 := s8,
    edge8 := (t.edge.map (·.1)).getD s8, edgeDev := (t.edge.map (·.2)).getD 0, tagged := t.edge.isSome,
    edgeHold := t.edge.isSome && bit t.ann 4, heat := d.heatOf s8,
    ann := t.ann ||| hold, session := none, seq := 0, partition := d.portPartition f.port, cls := 0, meterDscp := none, rewrite := none,
    egress := f.egress, trace := none, ptp := ptpOf t.bytes, inj := f.inj, ivl := none, trapHdr := [],
    cfg := .zero, born := d.buf.nextFrame }

/-- Count the next frame number. -/
def Dev.frameNumber (d : Dev) : Dev := { d with buf := { d.buf with nextFrame := d.buf.nextFrame + 1 } }

/-- A frame takes the next number, and its ingress port may find it bad until its tail is judged (R106, R107). -/
def Dev.receives (d : Dev) (port : Nat) : Dev :=
  { d with buf := { d.buf with rx := SMap.set d.buf.rx d.buf.nextFrame ⟨port, false⟩ } }.frameNumber

/-- The pipeline of a stamped frame from its parse on; a recirculated one keeps its session (R22). -/
def Dev.pipeline (d : Dev) (mem : Mem) (f : FrameIn) (fr : Frame) (again : Bool) : Dev :=
  match d.parsed f.parse fr.ingress fr.heat fr.bytes fr.len with
  | .fail j => d.parseFailed fr j
  | .ok x =>
    let r := d.parsedTags fr x.tags
    let d := r.1
    let fr := r.2
    if again then d.runStages mem fr f x (d.on F.PIPE_PORT_CFG_TIMED_NEEDS_SESSION (pipeOf fr.ingress) (localOf fr.ingress)) false
    else
      let r := d.classify mem fr x.field
      r.1.runStages mem r.2.1 f x r.2.2.1 r.2.2.2

/-- Injection descriptors may name the destination and class (R145, R147); such a frame skips the stages. -/
def Dev.injected (d : Dev) (fr : Frame) (x : Injection) (e : Nat) : Dev :=
  let d := (d.enters fr x.cls).traceIngress fr x.cls 0xFF 0 e 0 0 0
  d.update fr x.cls .unicast [e] false fun d l => d.launchCopies l (d.on F.PIPE_PORT_CFG_TIMED_NEEDS_SESSION (pipeOf fr.ingress) (localOf fr.ingress))

/-- A frame the device builds itself enters by an internal port for a port and class, in no session (R63, R211, R390); by none whose
pipe is not ON. -/
def Dev.builtFrame (d : Dev) (port e cls : Nat) (bytes : List Byte) (ivl : Option (Nat × Nat) := none) : Dev :=
  if !d.pipeOn (pipeOf port) then d else
  let n := bytes.length
  let hold := if d.timeState == 1 then 0 else aHOLDOVER
  let d := d.weigh (64 + pipeOf port) 0 (d.portPartition port) 1
  let x := if d.on F.TEL_CTRL_TRACE_EN then let r := d.draw; r.2.tagFrame port (r.1 % 2 ^ 24) else (d, none)
  let d := x.1
  let fr : Frame :=
    { id := d.buf.nextFrame, ingress := port, bytes := bytes, len := n, rxLen := n, stamp8 := d.now8, edge8 := d.now8, edgeDev := 0,
      tagged := false, edgeHold := false, heat := d.heatOf d.now8, ann := hold, session := none, seq := 0, partition := d.portPartition port, cls := cls,
      meterDscp := none, rewrite := none, egress := [], trace := x.2, ptp := none, inj := none, ivl := ivl,
      trapHdr := [], cfg := .zero, born := d.buf.nextFrame }
  let needs := d.on F.PIPE_PORT_CFG_TIMED_NEEDS_SESSION (pipeOf port) (localOf port)
  ((d.frameNumber.enters fr cls).traceIngress fr cls 0xFF 0 e 0 0 0).update fr cls .unicast [e] false fun d l => d.launchCopies l needs

/-- NOTICE_SEND: the oldest notice leaves the queue and enters on port 1025 as an unsessioned copy for its sender's port
(R63). -/
def Dev.noticeSend (d : Dev) : Dev :=
  match d.adm.notices with
  | [] => d
  | x :: rest =>
    let d := d.setNotices rest
    if !d.linkUp x.ingress || !d.on F.ADM_NOTICE_CTRL_EN then d.suppressNotice x.session
    else
      let d := (d.updSession x.session fun s => { s with sent := s.sent + 1 }).each x.counters fun d n => d.bumpQ .ADM_CNT n 2
      d.builtFrame 1025 x.ingress (d.f F.ADM_NOTICE_CTRL_CLASS) x.frame

/-- May a frame arrive on the port: a configured port whose link is up, or an internal port of R19, with its pipe ON? -/
def Dev.mayArrive (d : Dev) (e : Nat) : Bool := (if e < 1024 then d.configured e && d.linkUp e else decide (e ≤ 1027)) && d.pipeOn (pipeOf e)

/-- FRAME_RECEIVE: a data frame enters the device. -/
def Dev.frameReceive (d : Dev) (mem : Mem) (f : FrameIn) : Dev :=
  if !d.mayArrive f.port then d
  else
    let ptp := ptpOf (d.stampTagUnit f.port f.bytes f.len).2.bytes
    let boot := !d.serving && !(f.port < 1024 && ((ptp.map d.ptpTerminated).getD false)) &&
      !(f.port == 1025 && (ptp.isSome || beAt f.bytes 12 2 == d.f F.IVL_ETH_CFG_ETYPE))
    if boot then d.setQ .ID_BOOT_DISCARD (d.q .ID_BOOT_DISCARD + 1)
    else if f.overrun then d.bump F.PWR_PIPE_OVERRUN_COUNT (pipeOf f.port)
    else
      let d := d.weigh (64 + pipeOf f.port) 0 (d.portPartition f.port) 1
      match (f.recirc : Option Nat) with
      | some fid =>
        match d.buf.recirc.find? fun x => x.id == fid with
        | none => d
        | some old =>
          let d := { d with buf := { d.buf with recirc := d.buf.recirc.filter fun (x : Frame) => x.id != fid } }
          let fr := { old with id := d.buf.nextFrame, ingress := 1026, egress := f.egress, rewrite := none, meterDscp := none, trapHdr := [], ptp := ptpOf old.bytes }
          (d.receives 1026).pipeline mem f fr true
      | none =>
        let t := d.stampTagUnit f.port f.bytes f.len
        let d := t.1
        let fr := d.arrival f t.2
        let d := d.receives f.port
        let tr := d.tagFrame f.port f.draw
        let d := tr.1
        let fr := { fr with trace := tr.2 }
        match f.inj.bind fun x => x.dest.map fun e => (x, e) with
        | some (x, e) => if d.usablePort e then d.injected fr x e else d.pipeline mem f fr false
        | none => d.pipeline mem f fr false

end Sys2Proof.Machine
end

