-- ==== Sys2Proof/Machine/Hbm.lean ====
section
/-! DEFINITION. The HBM controller (R330 to R353): command slots, write queues and drains, self-refresh, neighbour refresh,
ECC by region, the patrol scrub and the error log. -/

namespace Sys2Proof.Machine

/-! ### Uncorrectable words by region (R349, R352) -/

/-- Quarantine a block: neither free nor held until reset (R352). -/
def Dev.quarantineBlock (d : Dev) (k i : Nat) : Dev :=
  if d.buf.quarantine.contains (poolKey k i) || d.f F.BUF_POOL_CFG_BLOCKS k ≤ i then d
  else
    let d := d.dropHolder k i
    let d := d.setF F.BUF_POOL_FREE_FREE (d.f F.BUF_POOL_FREE_FREE k - 1) k
    { d with buf := { d.buf with quarantine := poolKey k i :: d.buf.quarantine } }.bump F.HBM_QUARANTINE_COUNT

/-- The pool and index of the `n`-th block of P1 to P4 counted through. -/
def Dev.blockAt (d : Dev) (n : Nat) : Nat → Nat → Option (Nat × Nat)
  | 0, _ => none
  | fuel + 1, k =>
    let b := d.f F.BUF_POOL_CFG_BLOCKS k
    if 4 < k then none else if n < b then some (k, n) else Dev.blockAt d (n - b) fuel (k + 1)

/-- Blocks that a word at an offset of the control region's fixed structures describes (R334). -/
def Dev.described (d : Dev) (o : Nat) : List (Nat × Nat) :=
  let mib := 2 ^ 20
  let small := fun n => (d.blockAt n 4 1).toList
  if 960 * mib ≤ o && o < 988 * mib then (upto 8).map fun i => (5, o - 960 * mib + i)
  else if 988 * mib ≤ o && o < 996 * mib then (upto 8).flatMap fun i => small (o - 988 * mib + i)
  else if 996 * mib ≤ o && o < 1000 * mib then (upto 64).map fun i => (5, (o - 996 * mib) * 8 + i)
  else if 1000 * mib ≤ o && o < 1001 * mib then (upto 64).flatMap fun i => small ((o - 1000 * mib) * 8 + i)
  else []

/-- The closed record whose open-record entry or close-list slot holds an address (R205). -/
def Dev.closedAt (d : Dev) (a : Nat) : Option Closed :=
  let o := a - journalBase
  d.ev.closeList.find? fun x =>
    if o < 64 * 2 ^ 20 then x.slot.isSome && x.desc == some (o / 32) else x.slot == some ((o - 64 * 2 ^ 20) / 4) || x.slot == some ((o - 64 * 2 ^ 20) / 4 + 1)

/-- What an uncorrectable word at an address does to the region's own user (R349). A record lost on export, a spill page and
a DMA's list are handled by the command that reads them. What the table engine's own port reads, it finds itself (R295). -/
def Dev.uncorrectable (d : Dev) (mem : Mem) (a port : Nat) : Dev :=
  let found := if port == 4 then 2 else 0
  match d.regionOf a with
  | 2 =>
    if a < journalBase + 72 * 2 ^ 20 then
      match d.closedAt a with
      | some x => d.closedLost x
      | none => d
    else d
  | 3 => d.corruptEntry mem 6 5 0 ((a - tableBase) / 64) found
  | 4 =>
    match d.tbl.lpm.find? fun x => x.block != 0 && (let b := d.poolAddr (x.block / 2 ^ 26) (x.block % 2 ^ 26)
        decide (b ≤ a) && decide (a < b + poolBlock (x.block / 2 ^ 26))) with
    | some x => d.corruptEntry mem 3 2 0 x.node found
    | none => d
  | 5 => d.each (d.described (a - controlBase)) fun d x => d.quarantineBlock x.1 x.2
  | _ => d

/-! ### Command slots (R336 to R341) -/

/-- Does the controller serve a stack: enabled, out of self-refresh, ON, and no zero-fill running? -/
def Dev.hbmServes (d : Dev) (s : Nat) : Bool :=
  d.on F.HBM_CTRL_EN && !bit (d.f F.HBM_STATUS_SR) s && d.domain (80 + s) == 0 && !d.on F.HBM_STATUS_INIT_BUSY

def Dev.floorCredit (d : Dev) : Bool := decide (0 < d.floorNow.tokens)

/-- One of several: which, where the manual gives no rule, is a free value. -/
def Dev.oneOf {α : Type} (d : Dev) (l : List α) : Option α × Dev :=
  match l with
  | [] => (none, d)
  | [x] => (some x, d)
  | _ => let r := d.draw; (l[r.1 % l.length]?, r.2)

/-- Can the controller accept a request: a read, or a write that its write queue takes? -/
def Dev.accepts (d : Dev) (r : HbmReq) : Bool :=
  match r with
  | .write w => d.queueTakes w.granule
  | .read _ _ _ _ _ => true

/-- The next waiting request that may be accepted: JRN first while it holds floor credit (R336, R338). -/
def Dev.nextWaiting (d : Dev) : Option HbmReq :=
  let heads := d.hbm.waiting.foldl (fun (l : List HbmReq) w => if l.any fun x => x.port == w.port then l else l ++ [w]) []
  let ok := heads.filter d.accepts
  match ok.find? fun w => w.port == 1 && d.floorCredit with
  | some w => some w
  | none => ok.head?

/-- Waiting requests are accepted, as far as the write queues have room. -/
def Dev.admitWaiting (n : Nat) (d : Dev) : Dev :=
  match n with
  | 0 => d
  | n + 1 => match d.nextWaiting with
    | none => d
    | some r =>
      let d := { d with hbm := { d.hbm with waiting := d.hbm.waiting.erase r } }
      Dev.admitWaiting n (match r with
        | .write w => d.queueWrite w
        | .read g p account offs scrub => d.acceptRead p g offs account scrub)

/-- What ECC finds in a granule's words as it is read (R347): `fixed` words corrected, and the uncorrectable ones of `bad`. -/
def Dev.eccCount (d : Dev) (granule fixed : Nat) (bad : List Nat) : Dev :=
  (d.bumpQ .HBM_STACK_CNT (stackOf granule) 0 0 (min fixed (32 - bad.length))).badFound (bad.map (granule * 32 + ·))

/-- The same, with each uncorrectable word logged (R353). -/
def Dev.eccFound (d : Dev) (granule fixed : Nat) (bad : List Nat) (port : Nat) : Dev :=
  (d.eccCount granule fixed bad).each bad fun d w => d.hbmError 1 (granule * 256 + 8 * w) port

/-- The patrol scrub writes back the words it has corrected, each through port SCR (R342, R348). Which words ECC corrects is a free
value. -/
def Dev.scrubBack (d : Dev) (mem : Mem) (granule fixed : Nat) (bad : List Nat) : Dev :=
  let good := (upto 32).filter fun w => !bad.contains w
  let r := d.draw
  let k := r.1 % 32
  let words := ((good.filter (k ≤ ·)) ++ good.filter (· < k)).take fixed
  (r.2.bumpQ .HBM_STACK_CNT (stackOf granule) 2 0 words.length).each words fun d w =>
    d.postGranule ⟨granule, (upto 8).map fun i => (8 * w + i, d.hbmByte mem 7 (granule * 256 + 8 * w + i)), 7, 64⟩

/-- The words of a granule that a read or the read of a partial write finds uncorrectable, those known among them. -/
def Dev.badOf (d : Dev) (granule : Nat) (bad : List Nat) : List Nat :=
  (bad ++ d.hbm.bad.filterMap fun w => if w / 32 == granule then some (w % 32) else none).eraseDups.filter (· < 32)

/-- The words of a write's granule that it covers only in part (R342). -/
def HbmWrite.partWords (w : HbmWrite) : List Nat :=
  (upto 32).filter fun i =>
    let n := (w.bytes.filter fun p => p.1 / 8 == i).length
    n != 0 && n != 8

/-- A write leaves its queue for HBM: words covered in part are read and written back, with what ECC finds in them (R342,
R347); words covered whole are good again. A drain ends at 16 entries. -/
def issueWrite (mem : Mem) (d : Dev) (pc fixed : Nat) (bad : List Nat) (w : HbmWrite) : Mem × Dev :=
  let left := d.hbm.writes.erase w
  let n := (left.filter fun x => channelOf x.granule == pc).length
  let part := w.partWords
  let whole := (upto 32).filter fun i => !part.contains i && w.bytes.any fun p => p.1 / 8 == i
  let good := d.hbm.bad.filter fun x => !(x / 32 == w.granule && whole.contains (x % 32))
  let h := { d.hbm with writes := left, bad := good, draining := if n ≤ 16 then d.hbm.draining.filter (· != pc) else d.hbm.draining }
  let d := { d with hbm := h }
  let d := if part.isEmpty then d else
    let found := (d.badOf w.granule bad).filter part.contains
    (d.eccFound w.granule (min fixed part.length) found w.port).each found fun d i => d.uncorrectable mem (w.granule * 256 + 8 * i) w.port
  (mem.hbmWrite (w.granule * 256) w.bytes, (d.admitWaiting d.hbm.waiting.length).ringSettle)

/-- A read is issued, with what ECC finds in it (R338, R347, R349). What a read of a spill page finds is the result of the
SPILL_REFILL that asked for it, or goes to the detach whose header it is (R350). A scrub leaves an uncorrectable word to its
region's own user (R348), and so does a reclaim pass. -/
def Dev.issueRead (d : Dev) (mem : Mem) (fixed : Nat) (bad : List Nat) (r : HbmRead) : Dev :=
  let d := if d.urgency r == 3 && !r.urgent then d.bumpQ .HBM_REQ_CNT r.port 2 else d
  let d := { d with hbm := { d.hbm with reads := d.hbm.reads.erase r } }.takeFloor r.port r.n
  let found := d.badOf r.granule bad
  if r.port == 3 then
    match d.detachAt r.granule with
    | some x => (d.eccCount r.granule fixed found).headerRead x found
    | none => d.eccCount r.granule fixed []
  else
    let d := d.eccFound r.granule fixed found r.port
    if r.scrub then d.scrubBack mem r.granule fixed found
    else if r.port == 7 then d
    else d.each found fun d w =>
      let a := r.granule * 256 + 8 * w
      if d.knownBad a 8 then d.uncorrectable mem a r.port else d

/-- Reads in the order accepted, less those behind an older one of their granule, which is in the same row. -/
def rowHeads (l : List HbmRead) : List HbmRead :=
  l.foldl (fun acc r => if acc.any fun x => x.granule == r.granule then acc else acc ++ [r]) []

/-- The read R337 chooses: JRN under its floor, else the highest urgency; among those one that hits an open row, then the
oldest. Which rows are open no rule says: which of the row heads it is is a free value (assumption 57, DESIGN CHOICE). -/
def Dev.chooseRead (d : Dev) (reads : List HbmRead) : Option HbmRead × Dev :=
  match reads.find? fun r => r.port == 1 && d.floorCredit with
  | some r => (some r, d)
  | none =>
    let top := reads.foldl (fun a r => max a (d.urgency r)) 0
    d.oneOf (rowHeads (reads.filter fun r => d.urgency r == top))

/-- Pressing reads of a pseudo-channel have waited for one more write (R340). -/
def Dev.pressWait (d : Dev) (l : List HbmRead) : Dev :=
  { d with hbm := { d.hbm with reads := d.hbm.reads.map fun r => if l.contains r then { r with waits := r.waits + 1 } else r } }

/-- HBM_COMMAND_SLOT: a pseudo-channel's arbiter issues a read or a write (R337, R340). `fixed` and `bad` are what ECC finds
in what is read. -/
def commandSlot (mem : Mem) (d : Dev) (pc fixed : Nat) (bad : List Nat) : Mem × Dev :=
  if 256 ≤ pc || !d.hbmServes (pc / 32) then (mem, d) else
  let reads := d.hbm.reads.filter fun r => channelOf r.granule == pc
  let writes := d.hbm.writes.filter fun w => channelOf w.granule == pc
  let drain := d.hbm.draining.contains pc
  let pressing := reads.filter fun r => 2 ≤ d.urgency r || (r.port == 1 && d.floorCredit)
  let through := pressing.filter fun r => 8 ≤ r.waits
  if drain && through.isEmpty then
    match (d.pressWait pressing).oneOf writes with
    | (some w, d) => issueWrite mem d pc fixed bad w
    | (none, d) => (mem, d)
  else
    match d.chooseRead (if drain then through else reads) with
    | (some r, d) => (mem, d.issueRead mem fixed bad r)
    | (none, d) => match d.oneOf writes with
      | (some w, d) => issueWrite mem d pc fixed bad w
      | (none, d) => (mem, d)

/-! ### Self-refresh, neighbour refresh, scrub, zero-fill -/

/-- Requests that wait for a stack. -/
def Dev.stackBusy (d : Dev) (s : Nat) : Bool :=
  (d.hbm.reads.any fun r => stackOf r.granule == s) || (d.hbm.writes.any fun w => stackOf w.granule == s) ||
    d.hbm.waiting.any fun r => stackOf r.granule == s

def Dev.setSr (d : Dev) (s : Nat) (b : Bool) : Dev :=
  let x := d.f F.HBM_STATUS_SR
  (d.setF F.HBM_STATUS_SR (if b then x ||| 2 ^ s else x &&& (255 - 2 ^ s))).setF F.HBM_STACK_STAT_SR (b2n b) s

/-- SELF_REFRESH_ENTRY (R344): stack `s` has had no request for IDLE_US. -/
def Dev.selfRefreshEntry (d : Dev) (s : Nat) : Dev :=
  let idle := SMap.get d.hbm.lastReq s 0 + 800 * d.f F.HBM_STACK_CFG_IDLE_US s ≤ d.time.ticks
  if s < 8 && d.on F.HBM_STACK_CFG_AUTO_SR_EN s && d.hbmServes s && !d.stackBusy s && idle then (d.setSr s true).bumpQ .HBM_STACK_CNT s 4 else d

/-- SELF_REFRESH_EXIT: a request wakes the stack. -/
def Dev.selfRefreshExit (d : Dev) (s : Nat) : Dev :=
  if s < 8 && bit (d.f F.HBM_STATUS_SR) s && d.stackBusy s then d.setSr s false else d

/-- NEIGHBOUR_REFRESH (R346): the generator's 16-bit draw of the activation schedules the refresh, and it is made. -/
def Dev.neighbourRefresh (d : Dev) (s draw : Nat) : Dev :=
  let n := d.f F.HBM_RH_CFG_SHIFT
  if s < 8 && n != 0 && draw % 2 ^ 16 < 2 ^ (16 - n) then d.bumpQ .HBM_STACK_CNT s 3 else d

/-- SCRUB_PASS at one granule (R348): a read through port SCR, compared with the write queue like every read (R341). It is issued
with what ECC finds in it, where the stack can serve it; a sleeping stack it wakes, and waits for (R344). -/
def Dev.scrubPass (d : Dev) (mem : Mem) (granule fixed : Nat) (bad : List Nat) : Dev :=
  let s := stackOf granule
  if d.f F.HBM_SCRUB_CFG_HOURS == 0 || 192 * 2 ^ 22 ≤ granule || !d.on F.HBM_CTRL_EN || d.domain (80 + s) != 0 then d else
  let e := d.readGranule 7 granule (upto 256) 64 true
  match e.hbm.reads.getLast? with
  | some r => if d.hbmServes s && d.hbm.reads.length < e.hbm.reads.length then e.issueRead mem fixed bad r else e
  | none => e

/-- HBM_ZERO_FILL_DONE (R345): every region reads zero. -/
def zeroFillDone (mem : Mem) (d : Dev) : Mem × Dev :=
  if d.on F.HBM_STATUS_INIT_BUSY then
    let d := d.setF F.TBL_OCC_USED (d.f F.TBL_CAM_CAM_USED 6) 6
    ({ mem with hbm := [] }, { d.setF F.HBM_STATUS_INIT_BUSY 0 with hbm := { d.hbm with bad := [] } })
  else (mem, d)

/-- HBM_ERR_POP (R353): word 0 of the error log for a master. -/
def Dev.hbmErrPop (d : Dev) (m : Nat) : Dev × Nat :=
  let r := d.popWords d.hbm.errors .HBM_ERR_POP m 4 0
  ({ r.2.1 with hbm := { r.2.1.hbm with errors := r.1 } }, r.2.2.toNat)

/-- QUIET of R345. -/
def Dev.hbmQuiet (d : Dev) : Bool :=
  !d.on F.BUF_CTRL_SPILL_EN && (d.poolHeld 5).isEmpty && !d.on F.EV_CTRL_EN && d.openTotal == 0 &&
    (upto 4).all (fun k => (d.poolHeld (k + 1)).isEmpty) && d.waiting.isEmpty && d.tbl.dma.isNone &&
    !(d.hbm.reads.any fun r => r.port == 0 || r.port == 4) && !(d.hbm.waiting.any fun r => r.port == 0 || r.port == 4)

end Sys2Proof.Machine
end

