-- ==== Sys2Proof/Machine/Ctl.lean ====
section
/-! DEFINITION. Masters, Batons, mailboxes and scratchpad banks (R417 to R437, R442). -/

namespace Sys2Proof.Machine

/-! ### Views (R26) -/

/-- Is a master one of those R26 issues? -/
def masterExists (m : Nat) : Bool :=
  m ≤ 0x13 || isDma m || isEngine m || m == mBMC || isIvl m

/-- Does a master have the privileged view: H0, the control processors, and enabled IVL masters? -/
def Dev.privileged (d : Dev) (m : Nat) : Bool :=
  m == mH0 || isCp m || (isIvl m && d.on F.IVL_PORT_CFG_MASTER_EN (m - mIVL0))

/-- The partition of a host function, if its CTL_FN_MAP entry is enabled (R412). -/
def Dev.fnPartition (d : Dev) (m : Nat) : Option Nat :=
  if isHostFn m && d.on F.CTL_FN_MAP_EN (m - 1) then some (d.f F.CTL_FN_MAP_PARTITION (m - 1)) else none

/-! ### Batons (R421 to R426) -/

def Dev.batonOwner (d : Dev) (n : Nat) : Option Nat := SMap.find? d.ctl.batons n

/-- The value a read of a Baton returns. -/
def Dev.batonValue (d : Dev) (n : Nat) : Nat :=
  match d.batonOwner n with
  | some m => 0x80000000 + m
  | none => 0

def Dev.setBatons (d : Dev) (b : SMap Nat) : Dev := { d with ctl := { d.ctl with batons := b } }

/-- One master's read of a Baton: a free one is taken. -/
def Dev.batonTake (d : Dev) (m n : Nat) : Dev × Nat :=
  match d.batonOwner n with
  | some _ => (d, d.batonValue n)
  | none => (d.setBatons (SMap.set d.ctl.batons n m), 0)

/-- May a master read Batons at all (R425, R443)? -/
def Dev.batonReader (d : Dev) (m : Nat) : Bool := d.privileged m && !d.frozen m

/-- One read among several in a cycle, by its rights: the BMC's read is a peek. -/
def Dev.batonAccess (d : Dev) (m n : Nat) : Dev :=
  if d.frozen m then d.done m .aborted
  else if m == mBMC then d.done m .ok (d.batonValue n)
  else if !d.privileged m then d.violate m false (0x101000 + 4 * n)
  else let r := d.batonTake m n; r.1.done m .ok r.2

/-- The winner among masters that compete for a free Baton: the first at or above its pointer (R423). -/
def batonWinner (ptr : Nat) (ms : List Nat) : Option Nat :=
  (upto 64).findSome? fun k => let m := (ptr + k) % 64; if ms.contains m then some m else none

/-- A write to a Baton by a master of the privileged view, at a BAR0 offset (R424). -/
def Dev.batonWrite (d : Dev) (m n val off : Nat) : Dev :=
  if val != 0 then (d.logViolation 2 m false true off 0).done m .ok
  else match d.batonOwner n with
    | none => d.done m .ok
    | some o => if o == m then (d.setBatons (SMap.erase d.ctl.batons n)).done m .ok else d.violate m true off 3 o

/-- Requests to one Baton in one cycle: the release first, as R424 takes it, then the reads (R423). -/
def Dev.batonRead (d : Dev) (n : Nat) (release : Option Nat) (readers : List Nat) : Dev :=
  if 256 ≤ n then d else
  let d := match release with
    | some m =>
      if d.frozen m then d.done m .aborted
      else if !d.privileged m then d.violate m true (0x101000 + 4 * n)
      else d.batonWrite m n 0 (0x101000 + 4 * n)
    | none => d
  let able := readers.eraseDups.filter d.batonReader
  let d := if 2 ≤ able.length && (d.batonOwner n).isNone then
      match batonWinner (SMap.get d.ctl.batonPtr n 0) able with
      | some w =>
        let d := d.setBatons (SMap.set d.ctl.batons n w)
        ({ d with ctl := { d.ctl with batonPtr := SMap.set d.ctl.batonPtr n ((w + 1) % 64) } }.done w .ok 0).each
          (readers.eraseDups.filter (· != w)) fun d m => d.batonAccess m n
      | none => d
    else d.each readers.eraseDups fun d m => d.batonAccess m n
  d

/-! ### Mailboxes (R427 to R431) -/

/-- The side of a channel a master is bound to: true for A. -/
def Dev.mbSide (d : Dev) (c m : Nat) : Option Bool :=
  if !d.on F.MB_BIND_EN c || (isIvl m && !d.on F.IVL_PORT_CFG_MASTER_EN (m - mIVL0)) then none
  else if d.f F.MB_BIND_A c == m then some true
  else if d.f F.MB_BIND_B c == m then some false
  else none

/-- The key of the direction a side sends on. -/
def mbOut (c : Nat) (a : Bool) : Nat := 2 * c + b2n (!a)

def Dev.mbDir (d : Dev) (k : Nat) : MbDir := SMap.get d.ctl.mail k MbDir.zero
def Dev.setMbDir (d : Dev) (k : Nat) (x : MbDir) : Dev := { d with ctl := { d.ctl with mail := SMap.set d.ctl.mail k x } }

/-- The master at a side. -/
def Dev.mbMaster (d : Dev) (c : Nat) (a : Bool) : Nat := if a then d.f F.MB_BIND_A c else d.f F.MB_BIND_B c

/-- A mailbox interrupt of a master that receives one (R431). -/
def Dev.mbIrq (d : Dev) (on_ : Bool) (m : Nat) : Dev := if on_ && (m ≤ 0x0F || isCp m) then d.irq 0 [m] else d

def MbDir.blocked_ (x : MbDir) : MbDir := { x with blocked := min 255 (x.blocked + 1) }

/-- A bound master writes word `i` of its outgoing direction. -/
def Dev.mbWrite (d : Dev) (c : Nat) (a : Bool) (i : Nat) (v : Word) : Dev :=
  let k := mbOut c a
  let x := d.mbDir k
  if x.full then d.setMbDir k x.blocked_ else d.setMbDir k { x with words := x.words.set i v }

/-- The receiver releases FULL of a direction by its read of the last word. -/
def Dev.mbRelease (d : Dev) (c : Nat) (sender : Bool) : Dev :=
  let k := mbOut c sender
  let x := d.mbDir k
  (d.setMbDir k { x with full := false, senderReset := false }).mbIrq x.txIe (d.mbMaster c sender)

/-- A doorbell of side `a` with length `n`, written at a BAR0 offset. -/
def Dev.mbDoorbell (d : Dev) (m c : Nat) (a : Bool) (n off : Nat) : Dev :=
  let k := mbOut c a
  let x := d.mbDir k
  if x.full then d.setMbDir k x.blocked_
  else if n == 0 || 8 < n then d.logViolation 2 m false true off 0
  else (d.setMbDir k { x with posted := x.words, full := true, len := n }).mbIrq x.rxIe (d.mbMaster c (!a))

/-- A read of word `i` of the incoming direction of side `a`. -/
def Dev.mbRead (d : Dev) (c : Nat) (a : Bool) (i : Nat) : Dev × Nat :=
  let x := d.mbDir (mbOut c (!a))
  let v := (x.words.getD i 0).toNat
  if x.full && i + 1 == x.len then (d.mbRelease c (!a), v) else (d, v)

/-- MB_STAT as side `a` sees it. -/
def Dev.mbStat (d : Dev) (c : Nat) (a : Bool) : Nat :=
  let o := d.mbDir (mbOut c a)
  let i := d.mbDir (mbOut c (!a))
  b2n o.full * 2 ^ 31 + b2n o.purged * 2 ^ 30 + b2n i.full * 2 ^ 29 + b2n i.senderReset * 2 ^ 28 +
    (if i.full then i.len else 0) * 2 ^ 24 + o.purgeCount * 2 ^ 16 + o.blocked * 2 ^ 8 + b2n o.txIe * 2 + b2n i.rxIe

/-- A read of MB_STAT by side `a` clears BLOCKED. -/
def Dev.mbStatRead (d : Dev) (c : Nat) (a : Bool) : Dev × Nat :=
  let k := mbOut c a
  (d.setMbDir k { d.mbDir k with blocked := 0 }, d.mbStat c a)

/-- What happens to a direction in the cycle of a read or write that clears its bits: blocked attempts counted after the
clear, and a purge whose bit stays set (R12, R13). -/
def Dev.mbCycle (d : Dev) (c : Nat) (a : Bool) (events : Nat) : Dev :=
  let k := mbOut c a
  let x := d.mbDir k
  let x := { x with blocked := min 255 (x.blocked + bits events 15 8) }
  d.setMbDir k (if bit events 30 then { x with purged := true, purgeCount := min 255 (x.purgeCount + 1) } else x)

/-- A write of MB_STAT by side `a`: the interrupt enables, and a 1 to TX_PURGED. -/
def Dev.mbStatWrite (d : Dev) (c : Nat) (a : Bool) (v : Nat) : Dev :=
  let k := mbOut c a
  let o := d.mbDir k
  let o := if bit v 30 then { o with purged := false, purgeCount := 0 } else o
  let d := d.setMbDir k { o with txIe := bit v 1 }
  let k := mbOut c (!a)
  d.setMbDir k { d.mbDir k with rxIe := bit v 0 }

/-- Purge a posted message (R430). -/
def MbDir.purge (x : MbDir) : MbDir :=
  if x.full then { x with full := false, senderReset := false, purged := true, purgeCount := min 255 (x.purgeCount + 1) } else x

/-- A changed binding purges both directions (R427). -/
def Dev.mbPurge (d : Dev) (c : Nat) : Dev :=
  let d := d.setMbDir (2 * c) (d.mbDir (2 * c)).purge
  d.setMbDir (2 * c + 1) (d.mbDir (2 * c + 1)).purge

/-- R430 for a reset of the master at side `a`: the receiver's purge, then the sender's. -/
def Dev.mbReset (d : Dev) (c : Nat) (a : Bool) : Dev :=
  let k := mbOut c (!a)
  let d := d.setMbDir k (d.mbDir k).purge
  let k := mbOut c a
  let x := d.mbDir k
  d.setMbDir k { x with words := x.posted, senderReset := x.full }

/-! ### Master reset, thaw, restart (R418, R419, R442) -/

/-- Is an offset one of the per-master shadows and staging registers R419 clears (R99, R123, R197, R289)? -/
def stagingOffset (o : Nat) : Bool :=
  (Reg.off .TIME_NOW_SEC_LO ≤ o && o ≤ Reg.off .TIME_NOW_SHORT) || (Reg.off .EV_SESS_SEL ≤ o && o < Reg.off .EV_SESS_DATA 64) ||
  o == Reg.off .BUF_ALLOC_REQ || o == Reg.off .BUF_ALLOC_RESP || (Reg.off .TBL_CMD ≤ o && o < Reg.off .TBL_CMD_DATA 36)

/-- A reset of a master (R419). -/
def Dev.masterReset (d : Dev) (m : Nat) : Dev :=
  let d := d.setBatons (d.ctl.batons.filter fun b => b.2 != m)
  let d := d.each (upto 64) fun d c =>
    if !d.on F.MB_BIND_EN c then d
    else if d.f F.MB_BIND_A c == m then d.mbReset c true
    else if d.f F.MB_BIND_B c == m then d.mbReset c false
    else d
  let d := d.txqDiscard m
  let regs := d.regs.filter fun p => !(p.1 / 2 ^ 28 == m + 1 && stagingOffset (p.1 % 2 ^ 28))
  { d with regs := regs, ctl := { d.ctl with shadow := d.ctl.shadow.filter fun p => p.1 / 2 ^ 28 != m,
                                             pendLow := d.ctl.pendLow.filter fun p => p.1 != m } }

/-- CTL_THAW (R418). -/
def Dev.thaw (d : Dev) (m : Nat) : Dev := if d.frozen m then d.setQ .CTL_FROZEN (d.q .CTL_FROZEN - 2 ^ m) else d

/-- A control processor starts again from the running slot: a reset of its master; it stays halted only by a freeze. -/
def Dev.cpRestart (d : Dev) (i : Nat) : Dev :=
  let d := d.masterReset (mCP0 + i)
  let h := d.f F.CTL_CP_CTRL_HALTED
  d.setF F.CTL_CP_CTRL_HALTED (if d.frozen (mCP0 + i) then h ||| 2 ^ i else h &&& (15 - 2 ^ i))

/-- Restart the control processors of a mask (R442). -/
def Dev.cpRestarts (d : Dev) (mask : Nat) : Dev := d.each ((upto 4).filter fun i => bit mask i) Dev.cpRestart

/-! ### Scratchpad banks (R432 to R437) -/

/-- Drop the contents of a bank: it reads zero. -/
def Mem.clearBank (mem : Mem) (b : Nat) : Mem :=
  { mem with spd := mem.spd.filter fun c => c.1 / spdBankSize != b }

/-- After a write of SPD_BANK_CFG, with its value before: a handover reclaims, a lend starts BIST, a new power state takes
effect. -/
def Dev.bankCfgWritten (d : Dev) (b old : Nat) : Dev :=
  let x := (d.get .SPD_BANK_CFG b).toNat
  let d := if F.SPD_BANK_CFG_OWNER.ext x != F.SPD_BANK_CFG_OWNER.ext old then
      ((d.setF F.SPD_BANK_CFG_LEND 0 b).setF F.SPD_BANK_STAT_BIST_ACTIVE 0 b).bistRestore b
    else (d.setF F.SPD_BANK_STAT_BIST_ACTIVE (F.SPD_BANK_CFG_LEND.ext x) b).when_ (F.SPD_BANK_CFG_LEND.ext x == 0) fun d => d.bistRestore b
  let s := F.SPD_BANK_CFG_PSTATE.ext x
  let was := F.SPD_BANK_CFG_PSTATE.ext old
  if s == was then d else d.setF F.SPD_BANK_STAT_WAKING (b2n (s == 0)) b

/-- What a change of power state does to contents: a bank that leaves OFF is zero-filled before any access is served. -/
def bankContents (mem : Mem) (b old new : Nat) : Mem :=
  if F.SPD_BANK_CFG_PSTATE.ext old == 2 && F.SPD_BANK_CFG_PSTATE.ext new != 2 then mem.clearBank b else mem

/-- BANK_WAKE_DONE (R435). -/
def Dev.bankWakeDone (d : Dev) (b : Nat) : Dev := if b < 32 then d.setF F.SPD_BANK_STAT_WAKING 0 b else d

/-- BIST_PASS_DONE (R437). -/
def Dev.bistPassDone (d : Dev) (b : Nat) (failCol : Option Nat) : Dev :=
  if 32 ≤ b || !d.on F.SPD_BANK_STAT_BIST_ACTIVE b then d else
  let d := (d.bistRestore b).bump F.SPD_BANK_BIST_PASSES b
  match failCol with
  | none => d.setF F.SPD_BANK_STAT_BIST_RESULT 1 b
  | some c => ((d.bump F.SPD_BANK_BIST_FAILS b).setF F.SPD_BANK_STAT_FAIL_COL c b).setF F.SPD_BANK_STAT_BIST_RESULT 2 b

/-- BIST writes bytes of a lent bank, and reads four of them: the contents before the lend stay in the memory (R437). -/
def Dev.bistWrite (d : Dev) (a : Nat) (bs : List Byte) : Dev :=
  { d with ctl := { d.ctl with bist := (upto bs.length).foldl (fun x i => SMap.set x (a + i) (bs.getD i 0)) d.ctl.bist } }

def Dev.bistBytes (d : Dev) (mem : Mem) (a : Nat) : List Byte :=
  (upto 4).map fun i => SMap.get d.ctl.bist (a + i) (mem.spdByte (a + i))

/-- May a master reach a bank (R34): its owner, and BIST while the bank is lent to it? -/
def Dev.bankServes (d : Dev) (b m : Nat) : Bool := d.bankOwner b == m || (m == 0x20 && d.on F.SPD_BANK_CFG_LEND b)

/-- An access of an unfrozen master to the scratchpad window at BAR0 offset `off`: a read of four bytes, or a write. -/
def spdAccess (mem : Mem) (d : Dev) (m off : Nat) (write : Option Word) (waited : Nat) : Mem × Dev :=
  let a := off - spdBase
  let b := a / spdBankSize
  if !d.bankServes b m then (mem, d.violate m write.isSome off)
  else if d.bankState b != 0 then (mem, (d.logViolation 6 m false write.isSome off 0).done m .notOn)
  else
    let bist := m == 0x20
    let d := (d.when_ (!bist) fun d => d.reclaimBank b).spdServe m b 1 waited
    match write with
    | none => (mem, d.done m .ok (ofLe (if bist then d.bistBytes mem a else mem.spdRead a 4)))
    | some w => if bist then (mem, (d.bistWrite a (le 4 w.toNat)).done m .ok) else (mem.spdWrite a (le 4 w.toNat), d.done m .ok)

end Sys2Proof.Machine
end

