-- ==== Sys2Proof/Machine/Ivl.lean ====
section
/-! DEFINITION. The Ivgon link (R382 to R403): logical ports, sleep, messages, forwarding, version negotiation, time transfer
and envelope notices. Register requests and the reception of messages follow in Fabric.lean. -/

namespace Sys2Proof.Machine

/-! ### Ports (R384 to R386) -/

def Dev.ivlStage (d : Dev) (k : Nat) : Nat := d.f F.IVL_PORT_STATUS_STAGE k
def Dev.ivlUp (d : Dev) (k : Nat) : Bool := decide (k < 4) && d.on F.IVL_PORT_STATUS_LINK_UP k
def Dev.ivlVersion (d : Dev) (k : Nat) : Nat := d.f F.IVL_PORT_STATUS_VERSION k

/-- The Ethernet port that carries a logical port, if one does (R390). -/
def Dev.ivlCarrier (d : Dev) (k : Nat) : Option Nat :=
  if d.on F.IVL_PORT_CFG_CARRIER k then some (d.f F.IVL_PORT_CFG_ETH_PORT k) else none

/-- Is the block enabled, its domain ON and the port enabled? -/
def Dev.ivlActive (d : Dev) (k : Nat) : Bool :=
  decide (k < 4) && d.on F.IVL_CTRL_EN && d.on F.IVL_PORT_CFG_EN k && d.domain 92 == 0

def Dev.ivlBump (d : Dev) (k j : Nat) (n : Nat := 1) : Dev := d.bumpQ .IVL_CNT k j 0 n

def Dev.ivlQueue (d : Dev) (k : Nat) : List (Nat × List Byte) := SMap.get d.ivl.txq k []
def Dev.setIvlQueue (d : Dev) (k : Nat) (l : List (Nat × List Byte)) : Dev := { d with ivl := { d.ivl with txq := SMap.set d.ivl.txq k l } }

/-! ### Lanes (R382, R383) -/

/-- The four characters of an ordered set on a lane. -/
def IvlSet.chars (s : IvlSet) (lane : Nat) : List IvlChar :=
  match s with
  | .idle => [.k 28 5, .d 0x50, .k 28 5, .d 0x50]
  | .skip => [.k 28 5, .k 28 0, .k 28 0, .k 28 0]
  | .ts ack => [.k 28 5, .d (BitVec.ofNat 8 lane), .d 0x01, .d (BitVec.ofNat 8 (b2n ack))]
  | .sleep => [.k 28 5, .k 28 3, .k 28 3, .k 28 3]
  | .wake => [.k 28 5, .k 28 1, .k 28 1, .k 28 1]

/-- A message on a lane: K27.7, its bytes 2i + lane, K29.7. -/
def laneChars (lane : Nat) (bs : List Byte) : List IvlChar :=
  IvlChar.k 27 7 :: (upto (bs.length / 2)).map (fun i => IvlChar.d (bs.getD (2 * i + lane) 0)) ++ [IvlChar.k 29 7]

/-- A message as it leaves on the lanes of a logical port. -/
def ivlOut (k : Nat) (bs : List Byte) : Out := .ivl k (laneChars 0 bs) (laneChars 1 bs)

/-- The characters, of 0.9697 ns, that a lane has sent since the device reset: the transmitter runs from the device's own
reference. -/
def Dev.laneNow (d : Dev) : Nat := d.time.ticks * 8000 / 9697

/-- The SKIP sets that fell due before a message of `n` characters and inside it: one set every 1,280 characters. -/
def Dev.skipDue (d : Dev) (k n : Nat) : Nat × Nat :=
  let past := d.laneNow - SMap.get d.ivl.skipAt k 0
  (past / 1280, (past % 1280 + n) / 1280)

/-- What logical port `k` puts out with a message: the SKIP sets of the time before it, the message, and at its end those that fell
due inside it (assumption 148, DESIGN CHOICE). -/
def Dev.ivlSent (d : Dev) (k : Nat) (bs : List Byte) : List Out :=
  let w := d.skipDue k (bs.length / 2 + 2)
  (if w.1 == 0 then [] else [Out.ivlSets k w.1 .skip]) ++ [ivlOut k bs] ++ (if w.2 == 0 then [] else [Out.ivlSets k w.2 .skip])

/-- A message leaves on the lanes. -/
def Dev.laneSend (d : Dev) (k : Nat) (bs : List Byte) : Dev :=
  let n := bs.length / 2 + 2
  let last := if (d.skipDue k n).2 == 0 then d.laneNow - (d.laneNow - SMap.get d.ivl.skipAt k 0) % 1280 else d.laneNow + n
  { d with out := d.out ++ d.ivlSent k bs, ivl := { d.ivl with skipAt := SMap.set d.ivl.skipAt k last } }

/-- The port leaves UP, or restarts before it was UP: its queue is discarded, and an exit from UP resets its master (R384, R419). -/
def Dev.ivlLeave (d : Dev) (k stage : Nat) : Dev :=
  let up := d.ivlUp k
  let d := { d with ivl := { d.ivl with heard := d.ivl.heard.filter (· != k) } }
  let d := d.ivlBump k 6 (d.ivlQueue k).length
  let d := d.setIvlQueue k []
  let d := (((d.setF F.IVL_PORT_STATUS_STAGE stage k).setF F.IVL_PORT_STATUS_LINK_UP 0 k).setF F.IVL_PORT_STATUS_VERSION 0 k).setF
    F.IVL_PORT_STATUS_TX_SLEEP 0 k |>.setF F.IVL_PORT_STATUS_RX_SLEEP 0 k
  if up then (d.ivlBump k 10).masterReset (mIVL0 + k) else d

/-- The stage an enabled port starts in. -/
def Dev.ivlStart (d : Dev) : Nat := if d.domain 92 == 0 && !d.boot.applying then 2 else 1

/-- IVL_PORT_CFG or IVL_CTRL was written: ports rise or fall with their enables; without AUTO_POL, RX_INV alone sets the
receive polarity, and TX_INV acts at once (R385). -/
def Dev.ivlCfgWritten (d : Dev) (k : Nat) : Dev :=
  let want := d.on F.IVL_CTRL_EN && d.on F.IVL_PORT_CFG_EN k
  let d := if want && d.ivlStage k == 0 then d.setF F.IVL_PORT_STATUS_STAGE d.ivlStart k
    else if !want && d.ivlStage k != 0 then d.ivlLeave k 0
    else d
  let d := if d.on F.IVL_PORT_CFG_AUTO_POL k then d else d.setF F.IVL_PORT_STATUS_RX_INV_ACT (d.f F.IVL_PORT_CFG_RX_INV k) k
  if 2 ≤ d.ivlStage k && (d.ivlCarrier k).isNone then d.emit (.ivlLanes k (d.on F.IVL_PORT_CFG_TX_INV k)) else d

/-- IVD leaves ON, or returns. -/
def Dev.ivdOff (d : Dev) : Dev := d.each ((upto 4).filter fun k => d.ivlStage k != 0) fun d k => d.ivlLeave k 1
def Dev.ivdOn (d : Dev) : Dev := d.each ((upto 4).filter fun k => d.ivlStage k == 1) fun d k =>
  let d := d.setF F.IVL_PORT_STATUS_STAGE 2 k
  if (d.ivlCarrier k).isNone then d.emit (.ivlLanes k (d.on F.IVL_PORT_CFG_TX_INV k)) else d

def Dev.ivlInStage (d : Dev) (k s : Nat) : Bool := d.ivlActive k && d.ivlStage k == s
def Dev.ivlFail (d : Dev) (k cause : Nat) : Dev := (d.setF F.IVL_PORT_STATUS_FAIL cause k).ivlLeave k 2

/-- IVL_SYMBOL_LOCK: over Ethernet the stage waits for the port's LINK_UP, and training is skipped. -/
def Dev.ivlSymbolLock (d : Dev) (k : Nat) : Dev :=
  if !d.ivlInStage k 2 then d
  else match d.ivlCarrier k with
    | some e => if d.linkUp e then d.setF F.IVL_PORT_STATUS_STAGE 4 k else d
    | none => ((d.clockRuns none).setF F.IVL_PORT_STATUS_STAGE 3 k).emit (.ivlFill k (.ts false))

/-- IVL_LOCK_TIMEOUT. -/
def Dev.ivlLockTimeout (d : Dev) (k : Nat) : Dev := if d.ivlInStage k 2 then d.ivlFail k 1 else d

/-- IVL_TRAINING_COMPLETE: polarity, lane order and skew in characters (R385). -/
def Dev.ivlTrained (d : Dev) (k inv : Nat) (reversed : Bool) (skew : Nat) : Dev :=
  if !d.ivlInStage k 3 then d
  else if 8 < skew then d.ivlFail k 4
  else
    let act := if d.on F.IVL_PORT_CFG_AUTO_POL k then inv else d.f F.IVL_PORT_CFG_RX_INV k
    ((d.setF F.IVL_PORT_STATUS_RX_INV_ACT act k).setF F.IVL_PORT_STATUS_RX_REVERSED (b2n reversed) k).setF F.IVL_PORT_STATUS_STAGE 4 k |>.emit (.ivlFill k .idle)

/-- IVL_TRAIN_TIMEOUT. -/
def Dev.ivlTrainTimeout (d : Dev) (k : Nat) : Dev := if d.ivlInStage k 3 then d.ivlFail k 2 else d

/-- IVL_LINK_DOWN: a receiver in sleep does not judge its lanes (R384, R386). -/
def Dev.ivlLinkDown (d : Dev) (k : Nat) : Dev :=
  if d.ivlInStage k 5 && !d.on F.IVL_PORT_STATUS_RX_SLEEP k then d.ivlLeave k 2 else d

/-- WAKE_TIMEOUT. -/
def Dev.wakeTimeout (d : Dev) (k : Nat) : Dev :=
  if d.ivlInStage k 5 && d.on F.IVL_PORT_STATUS_RX_SLEEP k then d.ivlFail k 5 else d

/-- IVL_SLEEP: four SLEEP sets, then electrical idle. -/
def Dev.ivlSleep (d : Dev) (k : Nat) : Dev :=
  if d.ivlInStage k 5 && (d.ivlCarrier k).isNone && d.on F.IVL_PORT_CFG_SLEEP_TX_EN k && (d.ivlQueue k).isEmpty then
    (d.setF F.IVL_PORT_STATUS_TX_SLEEP 1 k).emit (.ivlSets k 4 .sleep)
  else d

/-- IVL_RX_SLEEP and IVL_RX_WAKE. -/
def Dev.ivlRxSleep (d : Dev) (k : Nat) (b : Bool) : Dev :=
  if d.ivlInStage k 5 && (d.ivlCarrier k).isNone then d.setF F.IVL_PORT_STATUS_RX_SLEEP (b2n b) k else d

/-- One receive lane at a SKIP set: its elastic buffer of 16 characters has moved by a drift, and one K28.0 is deleted above the
centre or inserted below it (R383; the centre is 8, assumption 149, DESIGN CHOICE). -/
def elasticStep (fill : Nat) (drift : Int) : Nat × Nat :=
  let f := (min 16 (max 0 ((fill : Int) + drift))).toNat
  if 8 < f then (f - 1, 1) else if f < 8 then (f + 1, 1) else (f, 0)

/-- SKIP_SET_RECEIVE (R383). -/
def Dev.skipSet (d : Dev) (k : Nat) (x : SkipIn) : Dev :=
  if d.ivlActive k && (d.ivlCarrier k).isNone && 2 ≤ d.ivlStage k then
    let a := elasticStep (SMap.get d.ivl.elastic (2 * k) 8) x.lane0
    let b := elasticStep (SMap.get d.ivl.elastic (2 * k + 1) 8) x.lane1
    { d with ivl := { d.ivl with elastic := SMap.set (SMap.set d.ivl.elastic (2 * k) a.1) (2 * k + 1) b.1 } }.ivlBump k 9 (a.2 + b.2)
  else d

/-! ### Messages (R387, R388) -/

def broadcast : Nat := 0x3FFFF

/-- The bytes of a message, CRC included. -/
def ivlBytes (m : IvlMsg) : List Byte :=
  let x := be 1 m.ver ++ be 1 m.cls ++ be 1 m.typ ++ be 1 m.hop ++ be 3 m.dst ++ be 3 m.src ++ be 2 m.body.length ++ be 4 m.seq ++ m.body
  x ++ crc32Field x

/-- The message a byte string holds, by its header's length. -/
def ivlParse (bs : List Byte) : IvlMsg :=
  { ver := beAt bs 0 1, cls := beAt bs 1 1, typ := beAt bs 2 1, hop := beAt bs 3 1, dst := beAt bs 4 3 % 2 ^ 18,
    src := beAt bs 7 3 % 2 ^ 18, seq := beAt bs 12 4, body := slice bs 16 (beAt bs 10 2) }

/-- The first version a type exists in; 0 for an unknown one. -/
def typeVersion (cls typ : Nat) : Nat :=
  match cls, typ with
  | 1, 1 | 1, 2 | 2, 1 | 2, 2 | 2, 3 | 2, 4 | 3, 1 | 4, 1 => 1
  | 2, 5 | 2, 6 | 3, 2 => 2
  | _, _ => 0

/-- Is the body length that of the type (R388, R404)? -/
def bodyOk (m : IvlMsg) (n : Nat) : Bool :=
  let count := beAt m.body 8 2
  n % 4 == 0 && n ≤ 240 &&
  match m.cls, m.typ with
  | 1, 1 => n == 4
  | 1, 2 => n == 36
  | 2, 1 => n == 12 && decide (1 ≤ count) && decide (count ≤ 32)
  | 2, 2 => decide (1 ≤ count) && decide (count ≤ 32) && n == 12 + 4 * count
  | 2, 3 => decide (12 ≤ n) && decide (n ≤ 140)
  | 2, 4 => n == 12
  | 2, 5 | 2, 6 => decide (4 ≤ n)
  | 3, 1 | 3, 2 => n == 28
  | 4, 1 => n == 12
  | _, _ => false

/-- A message enters on port 1025 in a frame for Ethernet port `e`, padded to the minimum size; the padding is a free value
(R390; assumption 15, DESIGN CHOICE). -/
def Dev.ivlFrameOut (d : Dev) (e : Nat) (mac bs : List Byte) (ivl : Option (Nat × Nat)) : Dev :=
  let r := d.draw
  let x := mac ++ be 6 (Config.sourceMac e) ++ be 2 (d.f F.IVL_ETH_CFG_ETYPE) ++ bs
  let x := x ++ be (60 - x.length) r.1
  r.2.builtFrame 1025 e (d.f F.IVL_ETH_CFG_CLASS) (x ++ le 4 (crc32 x)) ivl

/-- The destination MAC of a message in a frame of logical port `k`: IVL_NOTICE_MAC for an envelope notice, else the port's
PEER_MAC (R390). -/
def Dev.noticeMac (d : Dev) : List Byte := be 2 (d.f F.IVL_NOTICE_MAC_HI_MAC_HI) ++ be 4 (d.get .IVL_NOTICE_MAC_LO).toNat
def Dev.ivlMac (d : Dev) (k : Nat) (bs : List Byte) : List Byte :=
  if beAt bs 1 1 == 3 then d.noticeMac
  else be 2 (d.f F.IVL_PORT_PEER_MAC_HI_MAC_HI k) ++ be 4 (d.get .IVL_PORT_PEER_MAC_LO k).toNat

/-- A message leaves logical port `k` now: on its own lanes, stamped as it departs (R396; `turn8` moves the stamp), or in a
frame, stamped as that departs. -/
def Dev.ivlEmit (d : Dev) (k steps turn8 : Nat) (bs : List Byte) : Dev :=
  let d := d.ivlBump k 0
  match d.ivlCarrier k with
  | none => let r := d.ivlDepart k steps (d.now8 + turn8) bs; r.1.laneSend k r.2
  | some e => d.ivlFrameOut e (d.ivlMac k bs) bs (some (k, steps))

/-- Send a message on a logical port: the link's version goes into it, and a type above that version is never sent; a lift
goes to a version 1 link as ENV_DERATE (R388). A sleeping transmitter queues it (R386, R392). -/
def Dev.ivlSend (d : Dev) (k : Nat) (m : IvlMsg) (turn8 : Nat := 0) : Dev :=
  let v := d.ivlVersion k
  let m := if m.cls == 3 && m.typ == 2 && v == 1 then { m with typ := 1, body := patchAt m.body 1 (be 1 (beAt m.body 1 1 &&& 0xFC)) } else m
  let ok := if m.cls == 4 then d.ivlInStage k 4 || d.ivlInStage k 5 else d.ivlInStage k 5 && decide (typeVersion m.cls m.typ ≤ v)
  if !ok then d
  else
    let bs := ivlBytes { m with ver := if m.cls == 4 then 0 else v }
    let q := d.ivlQueue k
    if d.on F.IVL_PORT_STATUS_TX_SLEEP k then
      if 64 ≤ q.length then d.ivlBump k 6 else d.setIvlQueue k (q ++ [(d.ivl.steps, bs)])
    else d.ivlEmit k d.ivl.steps turn8 bs

/-- IVL_WAKE: the transmitter wakes, sends WAKE sets for 2 µs, 516 of them, and what waits (R386). -/
def Dev.ivlWake (d : Dev) (k : Nat) : Dev :=
  if (d.ivlInStage k 4 || d.ivlInStage k 5) && d.on F.IVL_PORT_STATUS_TX_SLEEP k && !(d.ivlQueue k).isEmpty then
    let q := d.ivlQueue k
    (((d.setF F.IVL_PORT_STATUS_TX_SLEEP 0 k).setIvlQueue k []).emit (.ivlSets k 516 .wake)).each q fun d x => d.ivlEmit k x.1 0 x.2
  else d

/-- The next message sequence of this device. -/
def Dev.ivlSeq (d : Dev) : Nat × Dev := (d.ivl.seqNo, { d with ivl := { d.ivl with seqNo := (d.ivl.seqNo + 1) % 2 ^ 32 } })

/-- The logical port a destination is routed to: the lowest-numbered enabled entry (R392). -/
def Dev.ivlRoute (d : Dev) (dst : Nat) : Option Nat :=
  (upto 64).findSome? fun r =>
    if d.on F.IVL_ROUTE_LO_EN r && decide (d.f F.IVL_ROUTE_LO_LOW r ≤ dst) && decide (dst ≤ d.f F.IVL_ROUTE_HI_HIGH r) then
      some (d.f F.IVL_ROUTE_HI_PORT r) else none

/-- Originate a unicast message; one that no route takes is discarded. -/
def Dev.ivlOriginate (d : Dev) (dst cls typ hop : Nat) (body : List Byte) : Dev :=
  let r := d.ivlSeq
  match d.ivlRoute dst with
  | none => r.2
  | some k => r.2.ivlSend k { ver := 0, cls := cls, typ := typ, hop := hop, dst := dst, src := d.devNum, seq := r.1, body := body }

/-- Originate a link-scope message on a port; its hop limit is a free value (assumption 5, DESIGN CHOICE). -/
def Dev.ivlLink (d : Dev) (k cls typ : Nat) (body : List Byte) (turn8 : Nat := 0) : Dev :=
  let h := d.draw
  let r := h.2.ivlSeq
  r.2.ivlSend k { ver := 0, cls := cls, typ := typ, hop := h.1 % 256, dst := broadcast, src := d.devNum, seq := r.1, body := body } turn8

/-- The tag of a register request; zero of every other message (R405). -/
def regTag (m : IvlMsg) : Nat := if m.cls == 2 && (m.typ == 1 || m.typ == 2) then beAt m.body 0 4 else 0

/-- Answer a refused message with a NAK to its source (R405): none answers a NAK or a broadcast, but BAD_DEST answers the
broadcast it refuses (R393). -/
def Dev.ivlRefuse (d : Dev) (reason : Nat) (m : IvlMsg) (word_ : Nat) : Dev :=
  if (m.cls == 2 && m.typ == 4) || (m.dst == broadcast && reason != 6) then d
  else
    let body := be 1 reason ++ be 1 m.cls ++ be 1 m.typ ++ be 1 word_ ++ be 4 m.seq ++ be 4 (regTag m)
    match d.ivlRoute m.src with
    | none => d
    | some p => (if d.ivlUp p then d.ivlBump p 4 else d).ivlOriginate m.src 2 4 16 body

/-- The same, with the partner violation of MALFORMED and BAD_DEST logged. -/
def Dev.ivlNak (d : Dev) (k reason : Nat) (m : IvlMsg) (word_ : Nat) : Dev :=
  (if reason == 3 || reason == 6 then d.logViolation 8 mNone false false (2 ^ 31 + k) reason else d).ivlRefuse reason m word_

/-! ### Forwarding and broadcasts (R392, R393) -/

/-- Forward a unicast message for another device. -/
def Dev.ivlForward (d : Dev) (k : Nat) (m : IvlMsg) : Dev :=
  match d.ivlRoute m.dst with
  | none => d.ivlNak k 4 m 0
  | some p =>
    if p == k then d.ivlNak k 4 m 0
    else if m.hop ≤ 1 then d.ivlNak k 5 m 0
    else if d.ivlVersion p < typeVersion m.cls m.typ then d.ivlNak k 7 m 0
    else d.ivlSend p { m with hop := m.hop - 1 }

/-- Entries of the seen cache are kept 10 ms. -/
def Dev.seenLive (d : Dev) : List (Nat × Nat × Nat) := d.ivl.seen.filter fun x => decide (d.time.ticks < x.2.2 + 8000000)

def Dev.ivlSeen (d : Dev) (src seq : Nat) : Bool := d.seenLive.any fun x => x.1 == src && x.2.1 == seq

/-- Remember a broadcast. -/
def Dev.ivlRemember (d : Dev) (src seq : Nat) : Dev :=
  { d with ivl := { d.ivl with seen := ((src, seq, d.time.ticks) :: d.seenLive).take 1024 } }

/-- Flood a broadcast on every UP logical port except that of arrival. -/
def Dev.ivlFlood (d : Dev) (arrival : Option Nat) (m : IvlMsg) : Dev :=
  if m.hop ≤ 1 then d
  else d.each ((upto 4).filter fun k => some k != arrival && d.ivlUp k) fun d k => d.ivlSend k { m with hop := m.hop - 1 }

/-! ### Version negotiation (R394, R395) -/

/-- Send VERSION on a port. -/
def Dev.versionMsg (d : Dev) (k : Nat) : Dev :=
  d.ivlLink k 4 1 (be 2 (d.f F.IVL_CTRL_VER_MASK) ++ be 2 0 ++ be 4 d.devNum ++ be 4 0)

/-- VERSION_SEND: every 100 ms in stage 4, until the peer's VERSION has come (R394). -/
def Dev.versionSend (d : Dev) (k : Nat) : Dev := if d.ivlInStage k 4 && !d.ivl.heard.contains k then d.versionMsg k else d

/-- A queued message as a link of version `v` sends it: the version byte of its header, and its CRC (R387, R395). -/
def reversioned (v : Nat) (bs : List Byte) : List Byte :=
  if beAt bs 1 1 == 4 then bs
  else
    let x := be 1 v ++ (bs.take (bs.length - 4)).drop 1
    x ++ crc32Field x

/-- The version two bitmaps agree on; 0 none. -/
def agreed (a b : Nat) : Nat := let x := a &&& b; if bit x 1 then 2 else if bit x 0 then 1 else 0

/-- VERSION: the peer's bitmap and number. A port that is UP and agrees on another version passes through stage 4: it sends
VERSION, as on entering it, and is UP again with its peer's answer (R394, R395; assumption 150, DEDUCED). -/
def Dev.versionReceived (d : Dev) (k : Nat) (body : List Byte) : Dev :=
  let map := beAt body 0 2
  let v := agreed map (d.f F.IVL_CTRL_VER_MASK)
  let old := d.f F.IVL_PORT_STATUS_PEER_VER_MAP k
  let learn := fun (d : Dev) => (d.setF F.IVL_PORT_STATUS_PEER_VER_MAP map k).setF F.IVL_PORT_PEER_DEVNUM_DEVNUM (beAt body 4 4) k
  if d.ivlInStage k 4 then
    let d := { d with ivl := { d.ivl with heard := d.ivl.heard.filter (· != k) ++ [k] } }
    if v == 0 then d.setF F.IVL_PORT_STATUS_FAIL 3 k
    else (((learn d).setF F.IVL_PORT_STATUS_VERSION v k).setF F.IVL_PORT_STATUS_STAGE 5 k).setF F.IVL_PORT_STATUS_LINK_UP 1 k
  else if d.ivlInStage k 5 then
    if map == old then d.versionMsg k
    else
      let d := (learn d).ivlBump k 11
      if v == 0 then (d.setF F.IVL_PORT_STATUS_FAIL 3 k).ivlLeave k 4
      else if v == d.ivlVersion k then d
      else
        let q := d.ivlQueue k
        let keep := q.filter fun x => decide (typeVersion (beAt x.2 1 1) (beAt x.2 2 1) ≤ v)
        let d := (d.ivlBump k 6 (q.length - keep.length)).setIvlQueue k (keep.map fun x => (x.1, reversioned v x.2))
        let d := ((d.setF F.IVL_PORT_STATUS_VERSION 0 k).setF F.IVL_PORT_STATUS_LINK_UP 0 k).setF F.IVL_PORT_STATUS_STAGE 4 k
        { d with ivl := { d.ivl with heard := d.ivl.heard.filter (· != k) } }.versionMsg k
  else d

/-! ### Time transfer (R396 to R398) -/

/-- TT_REQ_SEND: a FOLLOW port starts an exchange. -/
def Dev.ttReqSend (d : Dev) (k : Nat) : Dev :=
  if d.ivlInStage k 5 && d.on F.IVL_PORT_CFG_FOLLOW k then
    let id := d.ivl.exchangeId
    { d with ivl := { d.ivl with exchangeId := (id + 1) % 65536 } }.ivlLink k 1 1 (be 2 id ++ be 2 0)
  else d

/-- The receive stamp of a message whose path from the ball took `path8`. -/
def Dev.ivlRxStamp (d : Dev) (k path8 : Nat) : Nat :=
  match d.ivlCarrier k with
  | some e => d.rxTrimmed e (d.now8 - path8)
  | none => d.now8 - path8

/-- TT_REQ: answered with T2 and, as the answer departs, T3. -/
def Dev.ttReq (d : Dev) (k path8 turn8 : Nat) (body : List Byte) : Dev :=
  d.ivlLink k 1 2 (slice body 0 2 ++ be 1 d.timeState ++ be 1 0 ++ be 4 (d.f F.TIME_EPOCH_EPOCH) ++ stampBytes (d.ivlRxStamp k path8) ++
    stampBytes 0 ++ be 4 (d.f F.TIME_ERR_BOUND_BOUND)) turn8

/-- Half of a number of 2^-16 ns in 2^-8 ns; which way a remainder is rounded is a free value. -/
def Dev.halved (d : Dev) (x : Int) : Int × Dev :=
  if x % 512 == 0 then (x / 512, d) else let r := d.draw; (x / 512 + r.1 % 2, r.2)

/-- A stamp of a message body in 2^-16 ns. -/
def bodyStamp (b : List Byte) (o : Nat) : Nat := (beAt b o 6 * 1000000000 + beAt b (o + 6) 4) * 65536 + beAt b (o + 10) 2

/-- TT_RESP: offset and delay of the exchange go into the port's result ring (R398). -/
def Dev.ttResp (d : Dev) (k path8 : Nat) (body : List Byte) : Dev :=
  let id := beAt body 0 2
  match SMap.find? d.ivl.exchanges (k * 65536 + id) with
  | none => d.ivlBump k 7
  | some x =>
    let d := { d with ivl := { d.ivl with exchanges := SMap.erase d.ivl.exchanges (k * 65536 + id) } }
    let t4 := d.ivlRxStamp k path8
    let fwd : Int := (bodyStamp body 8 : Int) - (x.t1 * 8192 : Nat)
    let back : Int := ((t4 * 8192 : Nat) : Int) - (bodyStamp body 20 : Nat)
    let th := d.halved (back - fwd - signed 32 (d.get .IVL_PORT_ASYM k).toNat * 256)
    let de := th.2.halved (fwd + back)
    let d := de.2
    let st := beAt body 2 1
    let step := bit st 2 || d.ivl.steps != x.epochStep
    let theta := (BitVec.ofInt 64 th.1).toNat
    let e : List Word := [word (2 ^ 31 + b2n step * 2 ^ 30 + st % 4 * 2 ^ 28 + id), word theta, word (theta / 2 ^ 32), BitVec.ofInt 32 de.1,
      word (beAt body 32 4), word (beAt body 4 4), word (short t4), 0]
    let ring := SMap.get d.ivl.results k []
    if 16 ≤ ring.length then d.ivlBump k 8
    else { d with ivl := { d.ivl with results := SMap.set d.ivl.results k (ring ++ [e]) } }

/-- TT_TIMEOUT: the oldest exchange of a port has no response within 500 µs. -/
def Dev.ttTimeout (d : Dev) (k : Nat) : Dev :=
  let mine := d.ivl.exchanges.filter fun (x : Nat × Exchange) => x.1 / 65536 == k
  let oldest := mine.foldl (fun (a : Option (Nat × Exchange)) x => match a with
    | none => some x
    | some y => if x.2.t1 < y.2.t1 then some x else some y) none
  match oldest with
  | none => d
  | some x => { d with ivl := { d.ivl with exchanges := SMap.erase d.ivl.exchanges x.1 } }.ivlBump k 7

/-- IVL_TT_POP (R410). -/
def Dev.ttPop (d : Dev) (m k : Nat) : Dev × Nat :=
  let r := d.popWords (SMap.get d.ivl.results k []) .IVL_TT_POP m 8 k
  ({ r.2.1 with ivl := { r.2.1.ivl with results := SMap.set r.2.1.ivl.results k r.1 } }, r.2.2.toNat)

/-! ### Envelope notices (R401 to R403) -/

/-- A notice body as it leaves by a port: FACING_AFFECTED and the port number. -/
def facing (body : List Byte) (e : Option Nat) : List Byte :=
  let aff := match e with
    | some e => decide (e < 1024) && bit (beAt body 2 2) (pipeOf e)
    | none => false
  patchAt (patchAt body 1 (be 1 (beAt body 1 1 &&& 3 ||| b2n aff * 4))) 18 (be 2 (e.getD 0x7FF))

/-- The logical ports that are UP, and the Ethernet ports that are up and enabled for notices: those a notice requested now goes to
(R402). -/
def Dev.envTo (d : Dev) : List Nat × List Nat :=
  let eths := d.regs.filterMap fun p =>
    let b := Reg.off .IVL_ETH_PORT
    if b ≤ p.1 && p.1 < b + 4096 then some ((p.1 - b) / 4) else none
  ((upto 4).filter d.ivlUp, eths.filter fun e => d.linkUp e && d.on F.IVL_ETH_PORT_ENV_TX e)

/-- A requested notice goes out on every port that was up at the request and is still. The version byte of a frame on a port
without an agreed version is a free value (assumption 5, DESIGN CHOICE). -/
def Dev.envelopeOut (d : Dev) (x : EnvDue) : Dev :=
  let r := d.ivlSeq
  let d := r.2.ivlRemember d.devNum r.1
  let typ := if x.lift then 2 else 1
  let msg : IvlMsg := { ver := 0, cls := 3, typ := typ, hop := d.f F.IVL_CTRL_ENV_HOPS, dst := broadcast, src := d.devNum, seq := r.1, body := [] }
  let d := d.each (x.lanes.filter d.ivlUp) fun d k => d.ivlSend k { msg with body := facing x.body (d.ivlCarrier k) }
  d.each (x.eths.filter d.linkUp) fun d e =>
    let v := d.draw
    v.2.ivlFrameOut e d.noticeMac (ivlBytes { msg with ver := v.1 % 256, body := facing x.body (some e) }) none

/-- ENVELOPE_NOTICE_SEND: the oldest requested notice goes out, and is requested no longer. -/
def Dev.envelopeSend (d : Dev) : Dev :=
  match d.ivl.envDue with
  | [] => d
  | x :: rest =>
    let d := if d.on F.IVL_CTRL_EN && d.domain 92 == 0 then d.envelopeOut x else d
    { d with ivl := { d.ivl with envDue := rest } }

/-- A received notice enters the notice ring and interrupts the control processors (R403, R406). -/
def Dev.envReceived (d : Dev) (arrival : Nat) (eth : Bool) (m : IvlMsg) : Dev :=
  if 64 ≤ d.ivl.envRing.length then d.bump F.IVL_ENV_STAT_OVF
  else
    let e := (upto 7).map (fun i => word (beAt m.body (4 * i) 4)) ++
      [word (b2n eth * 2 ^ 29 + arrival % 2 ^ 11 * 2 ^ 18 + m.src), word (short d.now8)]
    { d with ivl := { d.ivl with envRing := d.ivl.envRing ++ [e] } }.irq 1 [0x10, 0x11, 0x12, 0x13]

/-- IVL_ENV_POP (R406). -/
def Dev.envPop (d : Dev) (m : Nat) : Dev × Nat :=
  let r := d.popWords d.ivl.envRing .IVL_ENV_POP m 9 0
  ({ r.2.1 with ivl := { r.2.1.ivl with envRing := r.1 } }, r.2.2.toNat)

end Sys2Proof.Machine
end

