-- ==== Sys2Proof/Machine/Ports.lean ====
section
/-! DEFINITION. Lanes and ports (R360 to R375): bring-up, link up and down, preemption's verification, low-power idle and
eye scans. -/

namespace Sys2Proof.Machine

/-! ### Lanes and stages -/

def Dev.lanesOf (d : Dev) (e : Nat) : List Nat := (upto (modeLanes (d.mode e))).map (e + ·)

/-- The configured port that holds a lane (R17). -/
def Dev.portOfLane (d : Dev) (l : Nat) : Option Nat :=
  (upto 4).findSome? fun k =>
    let e := l - l % 2 ^ k
    if l - e < modeLanes (d.mode e) then some e else none

/-- Configured ports of a lane group. -/
def Dev.groupPorts (d : Dev) (g : Nat) : List Nat := ((upto 16).map (16 * g + ·)).filter d.configured

def Dev.stageOf (d : Dev) (e : Nat) : Nat := d.f F.PORT_STATUS_STAGE e
def Dev.portEn (d : Dev) (e : Nat) : Bool := d.on F.PORT_CFG_EN e
def Dev.copper (d : Dev) (e : Nat) : Bool := d.f F.PORT_CFG_MEDIA e != 0

/-- The first stage of bring-up that is not skipped (R364). -/
def Dev.firstStage (d : Dev) (e : Nat) : Nat :=
  if !d.copper e then 4 else if d.on F.PORT_CFG_AN_EN e then 2 else if d.on F.PORT_CFG_TRAIN_EN e then 3 else 4

/-- End a scan with a status; the counts hold the values of that moment (R374, R375). -/
def Dev.endScan (d : Dev) (l status err cmp : Nat) : Dev :=
  let d := (d.setF F.LANE_SCAN_STAT_BUSY 0 l).setF F.LANE_SCAN_STAT_STATUS status l
  (d.setQ .LANE_SCAN_ERR err l).setQ .LANE_SCAN_CMP cmp l

/-- The number of UI a scan compares: DWELL is that of its GO (R374). -/
def Dev.scanUi (d : Dev) (l : Nat) : Nat := 2 ^ (16 + SMap.get d.ports.dwell l 0)

/-- Abort a lane's running scan: how far it came is a free value. -/
def Dev.abortScan (d : Dev) (l : Nat) : Dev :=
  if d.on F.LANE_SCAN_STAT_BUSY l then
    let a := d.draw
    let b := a.2.draw
    let cmp := a.1 % (d.scanUi l + 1)
    b.2.endScan l 2 (b.1 % (cmp + 1)) cmp
  else d

/-- A port goes to another stage. Leaving ALIGN or UP, whichever way, aborts the scans of its lanes (R375, assumption 138,
DEDUCED). -/
def Dev.setStage (d : Dev) (e s : Nat) : Dev :=
  let was := d.stageOf e
  let d := if (was == 5 || was == 7) && s != was then d.each (d.lanesOf e) Dev.abortScan else d
  d.setF F.PORT_STATUS_STAGE s e

/-- A lane begins again: its lock, adaptation and receive polarity are found afresh, its scan aborted (R365, R375). -/
def Dev.laneRestart (d : Dev) (l : Nat) : Dev :=
  let d := ((d.abortScan l).setF F.LANE_STATUS_CDR_LOCK 0 l).setF F.LANE_STATUS_ADAPTED 0 l
  d.setF F.LANE_STATUS_RX_INV_ACT (if d.on F.LANE_CFG_AUTO_POL l then 0 else d.f F.LANE_CFG_RX_INV l) l

/-- What a port's lanes send, by offset: in reverse order with TX_REVERSE, inverted with TX_INV (R365, R366). -/
def Dev.txLanes (d : Dev) (e : Nat) : List (Nat × Bool) :=
  let n := modeLanes (d.mode e)
  (upto n).map fun k => (if d.on F.PORT_CFG_TX_REVERSE e then n - 1 - k else k, d.on F.LANE_CFG_TX_INV (e + k))

/-- The transmitter of a port starts: its lanes, remote fault until the receiver is aligned (R367), that it accepts LPI where
LPI_RX_EN is set (R372), and in AN what the port advertises (R364). -/
def Dev.txStart (d : Dev) (e : Nat) : Dev :=
  let d := (d.emit (.txLanes e (d.txLanes e))).emit (.remoteFault e true)
  let d := d.when_ (d.on F.PORT_CFG_LPI_RX_EN e) fun d => d.emit (.acceptsLpi e)
  if d.stageOf e == 2 then d.emit (.advertise e (d.mode e) (d.fecOff e)) else d

/-- A port that is not aligned shows no link and no fault (R367). -/
def Dev.statusClear (d : Dev) (e : Nat) : Dev :=
  ((d.setF F.PORT_STATUS_LINK_UP 0 e).setF F.PORT_STATUS_LOCAL_FAULT 0 e).setF F.PORT_STATUS_REMOTE_FAULT 0 e

/-- Start bring-up: WAIT_POWER while the lane group is not ON, else the first stage (R364). -/
def Dev.bringUp (d : Dev) (e : Nat) : Dev :=
  let d := d.each (d.lanesOf e) Dev.laneRestart
  let d := d.statusClear e
  if d.domain (e / 16) == 0 && !d.boot.applying then (d.setStage e (d.firstStage e)).txStart e else d.setStage e 1

/-- LANE_CFG was written: without AUTO_POL, RX_INV alone sets the receive polarity, and TX_INV acts at once (R365). -/
def Dev.laneCfgWritten (d : Dev) (l : Nat) : Dev :=
  let d := if d.on F.LANE_CFG_AUTO_POL l then d else d.setF F.LANE_STATUS_RX_INV_ACT (d.f F.LANE_CFG_RX_INV l) l
  match (d.portOfLane l).filter fun e => d.portEn e && d.stageOf e != 1 with
  | some e => d.emit (.txLanes e (d.txLanes e))
  | none => d

/-! ### Preemption (R369, R370) -/

def Dev.preemptState (d : Dev) (e : Nat) : Nat := d.f F.PORT_PREEMPT_STAT_STATE e
def Dev.setPreempt (d : Dev) (e s : Nat) : Dev := d.setF F.PORT_PREEMPT_STAT_STATE s e
def Dev.preemptMode (d : Dev) (e : Nat) : Nat := d.f F.PORT_PREEMPT_CFG_MODE e

/-- Active preemption is lost. -/
def Dev.preemptLost (d : Dev) (e : Nat) : Dev := if d.preemptState e == 3 then d.bumpQ .PORT_CNT e 6 else d

/-- Verification begins, or waits for the partner's TLV (R369). -/
def Dev.verifyBegin (d : Dev) (e : Nat) : Dev :=
  let d := d.setF F.PORT_PREEMPT_STAT_ATTEMPTS 0 e
  match d.preemptMode e with
  | 0 => d.setPreempt e 0
  | 1 => d.setPreempt e (if d.ports.partnerReady.contains e then 2 else 1)
  | _ => d.setPreempt e 2

/-- Send a verify mPacket. -/
def Dev.verifySend (d : Dev) (e : Nat) : Dev :=
  (d.setF F.PORT_PREEMPT_STAT_ATTEMPTS (d.f F.PORT_PREEMPT_STAT_ATTEMPTS e + 1) e).emit (.mPacket e false)

/-- VERIFY_START. -/
def Dev.verifyStart (d : Dev) (e : Nat) : Dev :=
  if d.linkUp e && d.preemptState e == 2 && d.f F.PORT_PREEMPT_STAT_ATTEMPTS e == 0 then
    { d with ports := { d.ports with limit := SMap.set d.ports.limit e (d.f F.PORT_PREEMPT_CFG_VERIFY_LIMIT e) } }.verifySend e
  else d

/-- VERIFY_RESPONSE: a respond mPacket arrives. -/
def Dev.verifyResponse (d : Dev) (e : Nat) : Dev :=
  if d.preemptState e == 2 && d.f F.PORT_PREEMPT_STAT_ATTEMPTS e != 0 then
    let frag := d.f F.PORT_PREEMPT_STAT_PARTNER_ADDFRAG e
    if frag != 0 && d.ports.partnerKnown.contains e then d.setPreempt e 5
    else { d with ports := { d.ports with activeCell := SMap.set d.ports.activeCell e d.cell } }.setPreempt e 3
  else d

/-- VERIFY_TIMEOUT: VERIFY_MS pass without a response. -/
def Dev.verifyTimeout (d : Dev) (e : Nat) : Dev :=
  let n := d.f F.PORT_PREEMPT_STAT_ATTEMPTS e
  if d.preemptState e == 2 && n != 0 then
    if n < SMap.get d.ports.limit e 0 then d.verifySend e else d.setPreempt e 4
  else d

/-- VERIFY_RECEIVED: every verify mPacket is answered. -/
def Dev.verifyReceived (d : Dev) (e : Nat) : Dev := if d.linkUp e && e < 1024 then d.emit (.mPacket e true) else d

/-- LLDP_TLV_RECEIVED: the partner's preemption TLV. -/
def Dev.lldpTlv (d : Dev) (e : Nat) (enabled : Bool) (frag : Nat) : Dev :=
  if 1024 ≤ e || !d.configured e then d else
  let ready := d.ports.partnerReady.filter (· != e)
  let d := { d with ports := { d.ports with partnerReady := if enabled then e :: ready else ready,
                                            partnerKnown := e :: d.ports.partnerKnown.filter (· != e) } }
  let d := d.setF F.PORT_PREEMPT_STAT_PARTNER_ADDFRAG frag e
  if d.preemptMode e != 1 then d
  else match d.preemptState e with
    | 1 => if enabled && d.linkUp e then d.verifyBegin e else d
    | 2 => if enabled then d else d.setPreempt e 1
    | 3 => if !enabled then (d.preemptLost e).setPreempt e 1 else if frag % 4 != 0 then (d.preemptLost e).setPreempt e 5 else d
    | _ => d

/-- After a write of PORT_PREEMPT_CFG (R369, R370). -/
def Dev.preemptCfgWritten (d : Dev) (e : Nat) : Dev :=
  let st := d.preemptState e
  if d.preemptMode e == 0 then ((d.preemptLost e).setPreempt e 0).setF F.PORT_PREEMPT_STAT_ATTEMPTS 0 e
  else if !d.linkUp e then d
  else if st == 4 || st == 5 || st == 0 || (st == 1 && d.preemptMode e == 2) then d.verifyBegin e
  else d

/-! ### Link up and down (R367, R368) -/

/-- The port enters UP. -/
def Dev.linkRise (d : Dev) (e : Nat) : Dev :=
  (((d.setStage e 7).setF F.PORT_STATUS_LINK_UP 1 e).linkReturned e).verifyBegin e

/-- LINK_UP falls, if it was 1. -/
def Dev.linkFall (d : Dev) (e : Nat) : Dev :=
  if !d.linkUp e then d else
  let d := (d.setF F.PORT_STATUS_LINK_UP 0 e).bumpQ .PORT_CNT e 5
  let d := d.preemptLost e
  let d := if d.preemptState e == 3 || d.preemptState e == 2 then d.setPreempt e 1 else d
  let d := { d with ports := { d.ports with partnerReady := d.ports.partnerReady.filter (· != e) } }
  let d := d.each ((upto 4).filter fun k => d.ivlCarrier k == some e && (d.ivlInStage k 4 || d.ivlInStage k 5)) fun d k => d.ivlLeave k 2
  ((d.setF F.PORT_STATUS_LPI_TX 0 e).setF F.PORT_STATUS_LPI_RX 0 e).linkLost e

/-- Back to the start of bring-up, with the link down. -/
def Dev.restart (d : Dev) (e : Nat) : Dev := (d.linkFall e).bringUp e

/-- Restart after a failure (R364). -/
def Dev.failTo (d : Dev) (e cause : Nat) : Dev := (d.setF F.PORT_STATUS_FAIL cause e).restart e

/-- PORT_CFG was written: EN rose (bring-up starts), fell (the transmitter goes idle), or neither (R361, R364). -/
def Dev.portCfgWritten (d : Dev) (e : Nat) (was : Bool) : Dev :=
  if d.portEn e && !was then d.bringUp e
  else if was && !d.portEn e then (((d.linkFall e).each (d.lanesOf e) Dev.laneRestart).statusClear e).setStage e 0
  else d

/-- A lane group leaves ON (R368, R373); its lanes keep their adaptation in RET (R476). -/
def Dev.groupOff (d : Dev) (g : Nat) : Dev :=
  let d := d.each ((d.groupPorts g).filter d.portEn) fun d e => ((d.linkFall e).statusClear e).setStage e 1
  d.each ((upto 16).map (16 * g + ·)) fun d l => ((d.abortScan l).setF F.LANE_STATUS_CDR_LOCK 0 l).setF F.LANE_STATUS_SIGNAL 0 l

/-- A lane group is OFF: the adaptation of its lanes is discarded (R476). -/
def Dev.adaptLost (d : Dev) (g : Nat) : Dev := d.each ((upto 16).map (16 * g + ·)) fun d l => d.setF F.LANE_STATUS_ADAPTED 0 l

/-- A lane group returns to ON: its enabled ports restart bring-up, with the adaptation their lanes kept (R476). -/
def Dev.groupOn (d : Dev) (g : Nat) : Dev :=
  let kept := ((upto 16).map (16 * g + ·)).filter fun l => d.on F.LANE_STATUS_ADAPTED l
  (d.each ((d.groupPorts g).filter d.portEn) Dev.bringUp).each kept fun d l => d.setF F.LANE_STATUS_ADAPTED 1 l

/-- Is an enabled port in a stage? -/
def Dev.inStage (d : Dev) (e s : Nat) : Bool := decide (e < 1024) && d.portEn e && d.stageOf e == s

/-! ### Bring-up events -/

/-- AN_COMPLETE. -/
def Dev.anComplete (d : Dev) (e : Nat) : Dev := if d.inStage e 2 then d.setStage e (if d.on F.PORT_CFG_TRAIN_EN e then 3 else 4) else d

/-- NO_COMMON. -/
def Dev.noCommon (d : Dev) (e : Nat) : Dev := if d.inStage e 2 then d.setF F.PORT_STATUS_FAIL 1 e else d

/-- Polarity found on the lanes of a port, by offset, where AUTO_POL lets it be (R365). -/
def Dev.applyPolarity (d : Dev) (e : Nat) (swapped : List Nat) : Dev :=
  d.each (upto (modeLanes (d.mode e))) fun d k =>
    if d.on F.LANE_CFG_AUTO_POL (e + k) then d.setF F.LANE_STATUS_RX_INV_ACT (b2n (swapped.contains k)) (e + k) else d

/-- TRAINING_COMPLETE: training overwrites the taps (R377) and finds polarity; `taps` are LANE_TXEQ words by lane. -/
def Dev.trainingComplete (d : Dev) (e : Nat) (swapped taps : List Nat) : Dev :=
  if d.inStage e 3 then
    let d := d.each (upto (min taps.length (modeLanes (d.mode e)))) fun d k => d.set .LANE_TXEQ (word (taps.getD k 0)) (e + k)
    (d.applyPolarity e swapped).setStage e 4
  else d

/-- TRAIN_TIMEOUT. -/
def Dev.trainTimeout (d : Dev) (e : Nat) : Dev := if d.inStage e 3 then d.failTo e 2 else d

/-- A lane shows its signal, lock, adaptation and signal-to-noise estimate; a scan ends where it has no lock (R375, R377). -/
def Dev.laneShows (d : Dev) (l : Nat) (x : LaneIn) : Dev :=
  let d := if x.cdr then d.clockRuns (some (l / 128)) else d.abortScan l
  (((d.setF F.LANE_STATUS_SIGNAL (b2n x.signal) l).setF F.LANE_STATUS_CDR_LOCK (b2n x.cdr) l).setF F.LANE_STATUS_ADAPTED (b2n x.adapted) l).setF
    F.LANE_STATUS_SNR x.snr l

/-- Has a lane signal, lock and adaptation? -/
def Dev.laneReady (d : Dev) (l : Nat) : Bool :=
  d.on F.LANE_STATUS_SIGNAL l && d.on F.LANE_STATUS_CDR_LOCK l && d.on F.LANE_STATUS_ADAPTED l

/-- LANE_LOCK_COMPLETE: what the lanes of a port in LANE_LOCK show, by offset; lanes may come one after the other, and the port
leaves for ALIGN when every one is ready (R364; assumption 154, DEDUCED). -/
def Dev.laneLockComplete (d : Dev) (e : Nat) (lanes : List LaneIn) : Dev :=
  if d.inStage e 4 then
    let n := modeLanes (d.mode e)
    let d := d.each ((upto n).zip lanes) fun d x => d.laneShows (e + x.1) x.2
    if (upto n).all fun k => d.laneReady (e + k) then d.setStage e 5 else d
  else d

/-- LOCK_TIMEOUT. -/
def Dev.lockTimeout (d : Dev) (e : Nat) : Dev := if d.inStage e 4 then d.failTo e 3 else d

/-- Is a lane map the exact reverse of the lanes (R366)? -/
def reversedMap (n map : Nat) : Bool := decide (1 < n) && (upto n).all fun k => bits map (3 * k + 2) (3 * k) == n - 1 - k

/-- ALIGN_COMPLETE: the lane order and skew found; more than 180 ns of skew fails at once (R364, R366). -/
def Dev.alignComplete (d : Dev) (e map skew8 : Nat) (swapped : List Nat) : Dev :=
  if !d.inStage e 5 then d
  else
    let d := d.setF F.PORT_SKEW_SKEW (min skew8 0xFFFF) e
    if 1440 < skew8 then d.failTo e 4
    else
      let d := (d.setF F.PORT_LANE_MAP_MAP map e).setF F.PORT_STATUS_RX_REVERSED (b2n (reversedMap (modeLanes (d.mode e)) map)) e
      let trained := d.copper e && d.on F.PORT_CFG_TRAIN_EN e
      ((if trained then d else d.applyPolarity e swapped).setStage e 6).emit (.remoteFault e false)

/-- ALIGN_TIMEOUT. -/
def Dev.alignTimeout (d : Dev) (e : Nat) : Dev := if d.inStage e 5 then d.failTo e 5 else d

/-- DEBOUNCE_EXPIRY. -/
def Dev.debounceExpiry (d : Dev) (e : Nat) : Dev := if d.inStage e 6 then d.linkRise e else d

/-- Is an aligned port in DEBOUNCE, UP or FAULT? -/
def Dev.aligned (d : Dev) (e : Nat) : Bool := d.inStage e 6 || d.inStage e 7 || d.inStage e 8

/-- FAULT_RECEIVED: a local or remote fault; with loss of alignment in the same cycle bring-up restarts (R368). -/
def Dev.faultReceived (d : Dev) (e : Nat) (remote lossOfAlign : Bool) : Dev :=
  if !d.aligned e then d
  else if lossOfAlign then d.restart e
  else
    let d := (d.linkFall e).setF F.PORT_STATUS_LINK_UP 0 e
    (d.setF (if remote then F.PORT_STATUS_REMOTE_FAULT else F.PORT_STATUS_LOCAL_FAULT) 1 e).setStage e 8

/-- FAULT_CLEARED. -/
def Dev.faultCleared (d : Dev) (e : Nat) : Dev :=
  if d.inStage e 8 then ((d.setF F.PORT_STATUS_LOCAL_FAULT 0 e).setF F.PORT_STATUS_REMOTE_FAULT 0 e).setStage e 6 else d

/-- LINK_DOWN: loss of the signal of some lanes, or of marker, codeword or block lock (R367). -/
def Dev.linkDown (d : Dev) (e : Nat) (cause : LinkLoss) : Dev :=
  if !d.aligned e then d
  else
    let d := d.restart e
    match cause with
    | .signal lost => d.each ((upto (modeLanes (d.mode e))).filter lost.contains) fun d k => d.setF F.LANE_STATUS_SIGNAL 0 (e + k)
    | .lock => d

/-- FEC_DEGRADE_WINDOW (R363): the results of a 1 ms window. -/
def Dev.fecWindow (d : Dev) (e corrCw uncorrCw corrSym : Nat) : Dev :=
  if 1024 ≤ e || !d.configured e || d.stageOf e < 5 then d else
  let d := d.bumpQ .PORT_CNT e 2 0 uncorrCw
  if d.fecOff e then d else
  let d := (d.bumpQ .PORT_CNT e 1 0 corrCw).bumpQ .PORT_CNT e 3 0 corrSym
  let lim := d.f F.PORT_FEC_CFG_DEGRADE_SYM e
  if lim != 0 && lim < corrSym then d.setF F.PORT_STATUS_DEGRADED 1 e else d

/-! ### Low-power idle (R372) -/

/-- Is a frame ready at a port: on the line, in a delivery lane, or a PFC frame? -/
def Dev.lineBusy (d : Dev) (e : Nat) : Bool :=
  (SMap.find? d.egr.onLine e).isSome || (SMap.find? d.egr.preempted e).isSome || (SMap.find? d.egr.pfcPending e).isSome ||
    (upto 8).any fun c => !(d.lane (queueOf e c)).isEmpty

/-- LPI_ENTRY. -/
def Dev.lpiEntry (d : Dev) (e : Nat) : Dev :=
  if d.inStage e 7 && d.on F.PORT_CFG_LPI_TX_EN e && !d.on F.PORT_STATUS_LPI_TX e && !d.lineBusy e then
    (d.setF F.PORT_STATUS_LPI_TX 1 e).bumpQ .PORT_CNT e 7
  else d

/-- LPI_WAKE: the transmitter wakes, and sends after its mode's wake time. -/
def Dev.lpiWake (d : Dev) (e : Nat) : Dev :=
  if d.inStage e 7 && d.on F.PORT_STATUS_LPI_TX e && d.lineBusy e then
    let t := d.el8 + if d.mode e == 1 then 36000 else 24000
    { d with ports := { d.ports with awake := SMap.set d.ports.awake e t } }.setF F.PORT_STATUS_LPI_TX 0 e
  else d

/-- LPI_RX_ENTRY and LPI_RX_EXIT: the receiver follows the partner's signalling. -/
def Dev.lpiRx (d : Dev) (e : Nat) (b : Bool) : Dev :=
  if d.inStage e 7 && d.on F.PORT_CFG_LPI_RX_EN e then d.setF F.PORT_STATUS_LPI_RX (b2n b) e else d

/-! ### Eye scan (R374, R375) -/

/-- GO was written: the scan starts with its counts cleared, for the DWELL of that moment. -/
def Dev.scanStart (d : Dev) (l : Nat) : Dev :=
  let d := { d with ports := { d.ports with dwell := SMap.set d.ports.dwell l (d.f F.LANE_SCAN_CFG_DWELL l) } }
  (((d.setF F.LANE_SCAN_STAT_BUSY 1 l).setF F.LANE_SCAN_STAT_STATUS 0 l).setQ .LANE_SCAN_ERR 0 l).setQ .LANE_SCAN_CMP 0 l

/-- STOP was written: counts as the scan had them. -/
def Dev.scanStop (d : Dev) (l err cmp : Nat) : Dev :=
  if d.on F.LANE_SCAN_STAT_BUSY l then d.endScan l 3 (min err (min cmp (d.scanUi l))) (min cmp (d.scanUi l)) else d

/-- SCAN_DONE. -/
def Dev.scanDone (d : Dev) (l err : Nat) : Dev :=
  if l < 1024 && d.on F.LANE_SCAN_STAT_BUSY l then d.endScan l 1 (min err (d.scanUi l)) (d.scanUi l) else d

/-- SCAN_ABORTED: the lane lost CDR lock. -/
def Dev.scanAborted (d : Dev) (l err cmp : Nat) : Dev :=
  if l < 1024 && d.on F.LANE_SCAN_STAT_BUSY l then
    (d.setF F.LANE_STATUS_CDR_LOCK 0 l).endScan l 2 (min err (min cmp (d.scanUi l))) (min cmp (d.scanUi l))
  else d

end Sys2Proof.Machine
end

