-- ==== Sys2Proof/Machine/Power.lean ====
section
/-! DEFINITION. The power controller (R474 to R496): domains, V/F steps, the cap loop, temperature, energy and hints. -/

namespace Sys2Proof.Machine

/-- The power interrupt goes to H0 and CP0 to CP3 (R478). -/
def Dev.powerIrq (d : Dev) : Dev := d.irq 2 [0x00, 0x10, 0x11, 0x12, 0x13]

/-- Reasons of R401 and R496. -/
def wCAP : Nat := 1
def wENV : Nat := 2
def wTHERM : Nat := 3
def wHOST : Nat := 4

def Dev.tripped (d : Dev) : Bool := d.on F.PWR_STATUS_TRIPPED

/-! ### Domains (R476 to R479) -/

/-- The state a domain is in, or goes to. -/
def Dev.heading (d : Dev) (n : Nat) : Nat :=
  if d.pwr.wakeQ.contains n then 0 else (SMap.find? d.pwr.moving n).getD (d.f F.PWR_DOM_STAT_STATE n)

def Dev.inTransition (d : Dev) (n : Nat) : Bool := d.pwr.wakeQ.contains n || (SMap.find? d.pwr.moving n).isSome

/-- Front-panel ports of a pipe with EN = 1 or a queued copy. -/
def Dev.pipeInUse (d : Dev) (p : Nat) : Bool :=
  (upto 64).any (fun l => d.configured (64 * p + l) && d.portEn (64 * p + l)) ||
    d.copyList.any fun c => decide (c.egress < 1024) && pipeOf c.egress == p

/-- May a command take a domain out of ON (the last column of R476)? -/
def Dev.mayLeave (d : Dev) (n : Nat) : Bool :=
  if n < 64 then (d.groupPorts n).all fun e => !d.portEn e
  else if n < 80 then n != 64 && n != 65 && n != 72 && n != 73 && !d.pipeInUse (n - 64)
  else if n < 88 then d.hbmQuiet
  else if n < 92 then d.quadEmpty (n - 88) && decide ((if d.domain n == 0 then 4194304 else 0) ≤ d.sharedSize)
  else if n == 92 then (upto 4).all fun k => !d.on F.IVL_PORT_CFG_EN k
  else if n == 93 then !d.evOn && d.openTotal == 0 && d.ev.attestBy.isNone
  else if n == 94 then !d.on F.BUF_CTRL_SPILL_EN && (d.poolHeld 5).isEmpty
  else true

/-- What follows when a domain leaves ON. -/
def Dev.domainOff (d : Dev) (n : Nat) : Dev := if n < 64 then d.groupOff n else if n == 92 then d.ivdOff else d

/-- What follows when a domain reaches ON from a state. -/
def Dev.domainOn (d : Dev) (n was : Nat) : Dev :=
  if n < 64 then d.groupOn n
  else if 80 ≤ n && n < 88 then
    (d.setF F.HBM_STACK_STAT_TRAINED 1 (n - 80)).when_ (was == 2) fun d => d.setF F.HBM_STATUS_INIT_BUSY 1
  else if n == 92 then d.ivdOn
  else if n == 95 then { d with tel := { d.tel with map := [] } }.bump F.TEL_OFF_EPISODES_COUNT
  else d

/-- A change of buffer quadrants in force moves the shared pool (R90). -/
def Dev.quadMoved (old d : Dev) : Dev := if d.offQuads == old.offQuads then d else d.sharedMoved old

/-- A wake enters the queue; those of one management cycle stand in order of d (R478). -/
def Dev.queueWake (d : Dev) (n : Nat) : Dev :=
  let now := d.time.ticks * 5 / 4
  let q := d.pwr.wakeQ
  let k := if d.pwr.wakeCycle == now then min d.pwr.wakeBatch q.length else 0
  let batch := q.drop (q.length - k)
  let q := q.take (q.length - k) ++ batch.filter (· < n) ++ n :: batch.filter fun x => n < x
  { d with pwr := { d.pwr with wakeQ := q, wakeCycle := now, wakeBatch := k + 1 } }.setF F.PWR_DOM_STAT_QUEUED 1 n

/-- Start a domain's transition: to ON through the wake queue, out of ON at once (R478). -/
def Dev.startTransition (d : Dev) (n s : Nat) : Dev :=
  if s == d.f F.PWR_DOM_STAT_STATE n then d
  else if s == 0 then
    d.queueWake n
  else
    let on_ := d.f F.PWR_DOM_STAT_STATE n == 0
    let e := if on_ then d.domainOff n else d
    let e := { e with pwr := { e.pwr with moving := SMap.set e.pwr.moving n s } }.setF F.PWR_DOM_STAT_BUSY 1 n
    if on_ then d.quadMoved e else e

/-- While the image is applied a state counts as commanded; the domain changes in stage 0x4 (R463). A buffer quadrant counts
against the shared pool at once. -/
def Dev.imageDomain (d : Dev) (n s : Nat) : Dev :=
  if 88 ≤ n && n < 92 then d.quadMoved (d.setF F.PWR_DOM_STAT_STATE s n) else d

/-- A command to a domain (R477); its condition has been checked. -/
def Dev.domCommand (d : Dev) (n s : Nat) : Dev :=
  if d.boot.applying then d.imageDomain n s
  else if d.inTransition n then { d with pwr := { d.pwr with recorded := SMap.set d.pwr.recorded n s } }
  else if d.pwr.shed.contains n then
    if s == 0 then d
    else ({ d with pwr := { d.pwr with shed := d.pwr.shed.filter (· != n) } }.setF F.PWR_DOM_STAT_FORCED 0 n).startTransition n s
  else d.startTransition n s

/-- WAKE_SLOT: the oldest queued wake starts. -/
def Dev.wakeSlot (d : Dev) : Dev :=
  match d.pwr.wakeQ with
  | [] => d
  | n :: rest =>
    ({ d with pwr := { d.pwr with wakeQ := rest, moving := SMap.set d.pwr.moving n 0 } }.setF F.PWR_DOM_STAT_QUEUED 0 n).setF F.PWR_DOM_STAT_BUSY 1 n

/-- The reason a lane group was shed for; its restoration has it too (R496; assumption 170, DEDUCED). -/
def Dev.shedFor (d : Dev) (g : Nat) : Nat := SMap.get d.pwr.shedReason g wCAP

/-- DOMAIN_TRANSITION_DONE: the domain is in its new state. -/
def Dev.transitionDone (d : Dev) (n : Nat) : Dev :=
  match SMap.find? d.pwr.moving n with
  | none => d
  | some s =>
    let was := d.f F.PWR_DOM_STAT_STATE n
    let forced := d.pwr.shed.contains n
    let e := { d with pwr := { d.pwr with moving := SMap.erase d.pwr.moving n } }
    let e := ((e.setF F.PWR_DOM_STAT_STATE s n).setF F.PWR_DOM_STAT_BUSY 0 n).setF F.PWR_DOM_STAT_FORCED (b2n forced) n
    let e := d.quadMoved e
    let e := if s == 2 && 80 ≤ n && n < 88 then e.setF F.HBM_STACK_STAT_TRAINED 0 (n - 80) else e
    let e := if s == 2 && n < 64 then e.adaptLost n else e
    let e := if s == 0 then e.domainOn n was else e
    let e := (e.logPower (if s == 0 then 1 else 2) (if d.on F.PWR_DOM_STAT_FORCED n then d.shedFor n else wHOST) n 0).powerIrq
    match SMap.find? e.pwr.recorded n with
    | none => e
    | some r => { e with pwr := { e.pwr with recorded := SMap.erase e.pwr.recorded n } }.domCommand n r

/-! ### The effective cap (R474, R487) -/

/-- The envelope cap of an input voltage in mV (R474). -/
def envelopeCap (mv : Nat) : Nat := if 10800 ≤ mv then 1540 else 640 + (mv - 4500) * 900 / 6300

/-- The caps in the order of LIMIT. -/
def Dev.caps (d : Dev) : List Nat :=
  [1540, d.f F.PWR_CAP_CAP_W, d.f F.PWR_BMC_CAP_CAP_W, d.f F.PWR_CAP_NOW_ENVELOPE_W, d.f F.PWR_THERM_THERMAL_W]

def Dev.effectiveCap (d : Dev) : Nat := d.caps.foldl min 1540

/-- EFFECTIVE_W and LIMIT follow the caps. -/
def Dev.syncCap (d : Dev) : Dev :=
  let c := d.effectiveCap
  (d.setF F.PWR_CAP_NOW_EFFECTIVE_W c).setF F.PWR_STATUS_LIMIT (((upto 5).find? fun i => d.caps.getD i 0 == c).getD 0)

/-- The reason of the cap that binds. -/
def Dev.capReason (d : Dev) : Nat :=
  match d.f F.PWR_STATUS_LIMIT with
  | 3 => wENV
  | 4 => wTHERM
  | _ => wCAP

/-- VIN_SAMPLE (R474). -/
def Dev.vinSample (d : Dev) (mv : Nat) : Dev :=
  let l := (mv :: d.pwr.vin).take 100
  let d := { d with pwr := { d.pwr with vin := l } }.setF F.PWR_VIN_MV mv
  (d.setF F.PWR_CAP_NOW_ENVELOPE_W (envelopeCap (l.foldl min mv))).syncCap

/-! ### Steps (R482 to R486, R495) -/

/-- The step a hint allows a pipe: the slowest permitted one whose packet rate carries the load. -/
def Dev.hintedStep (d : Dev) (p pct : Nat) : Nat :=
  let lo := d.f F.PWR_PIPE_CFG_HINT_STEP p
  let hi := d.f F.PWR_PIPE_CFG_STEP p
  match ((upto 8).filter fun s => decide (lo ≤ s) && decide (s ≤ hi) && decide (pct * 9600 ≤ stepMpps s * 100)).getLast? with
  | some s => s
  | none => lo + Config.hintShort pct lo hi % (hi - lo + 1)

def Dev.activeHints (d : Dev) (p : Nat) : List Hint := d.pwr.hints.filter fun h => h.active && bit h.pipes p

/-- The wanted step of a pipe. -/
def Dev.wanted_ (d : Dev) (p : Nat) : Nat :=
  (d.activeHints p).foldl (fun a h => min a (d.hintedStep p h.pct)) (d.f F.PWR_PIPE_CFG_STEP p)

def Dev.protective (d : Dev) (p : Nat) : Nat := SMap.get d.pwr.protect p 0
def Dev.target (d : Dev) (p : Nat) : Nat := max (d.wanted_ p) (d.protective p)
def Dev.actual (d : Dev) (p : Nat) : Nat := d.f F.PWR_PIPE_STAT_ACTUAL p
def Dev.pwcHolds (d : Dev) (p : Nat) : Bool := (SMap.find? d.pwr.request p).isSome

/-- A write of ADM_PIPE_DERATE: decisions use it from the second cell time (R62). -/
def Dev.writeDerate (d : Dev) (p : Nat) (v : Word) : Dev :=
  let old := d.slowWrite (SMap.get d.adm.derateOld p []) (d.get .ADM_PIPE_DERATE p)
  { d with adm := { d.adm with derateOld := SMap.set d.adm.derateOld p old } }.set .ADM_PIPE_DERATE v p

/-- PWC's derate of a pipe: its requirement joined with the value last written to the register, and IN_FORCE and SHED with what
each of H0 and CP0 to CP3 last wrote (R484). -/
def Dev.pwcDerate (d : Dev) (p s : Nat) (inForce : Bool) : Dev :=
  let reg := (SMap.find? d.pwr.request p).getD (d.get .ADM_PIPE_DERATE p)
  let r := reg.toNat
  let d := { d with pwr := { d.pwr with request := SMap.set d.pwr.request p reg } }
  let t := max (stepTighten s) (F.ADM_PIPE_DERATE_TIGHTEN_NS.ext r)
  let all := fun (x : Fld) => (SMap.get d.pwr.wrote p []).foldl (fun a y => a ||| x.ext y.2.toNat) (x.ext r)
  let f := all F.ADM_PIPE_DERATE_IN_FORCE ||| b2n inForce
  let sh := all F.ADM_PIPE_DERATE_SHED ||| d.f F.PWR_PIPE_CFG_SHED_ON_DERATE p
  d.writeDerate p (word (F.ADM_PIPE_DERATE_SHED.ins (F.ADM_PIPE_DERATE_IN_FORCE.ins (F.ADM_PIPE_DERATE_TIGHTEN_NS.ins 0 t) f) sh))

/-- Request an envelope notice for a pipe (R401, R483); one of the same reason, step and figures takes it in. -/
def Dev.announce (d : Dev) (p reason s : Nat) (lift : Bool) : Dev :=
  let w := (d.get .ADM_PIPE_DERATE p).toNat
  let inForce := if lift then 0 else b2n (reason != wHOST)
  let shed := if lift then 0 else F.ADM_PIPE_DERATE_SHED.ext w
  let t := d.now8 + 160000
  let body := fun (mask : Nat) => be 1 reason ++ be 1 (inForce + 2 * shed) ++ be 2 mask ++ be 2 (F.ADM_PIPE_DERATE_TIGHTEN_NS.ext w) ++
    be 1 s ++ be 1 0 ++ be 6 (secOf t) ++ be 4 (nsOf t) ++ be 2 0x7FF ++ be 4 0 ++ be 4 0
  let same := fun (x : EnvDue) => x.lift == lift && patchAt x.body 2 (be 2 0) == body 0
  let due := d.ivl.envDue
  let joined := due.map fun x => if same x then { x with body := body (beAt x.body 2 2 ||| 2 ^ p) } else x
  let new : EnvDue := ⟨lift, body (2 ^ p), d.envTo.1, d.envTo.2⟩
  { d with ivl := { d.ivl with envDue := if (due.filter same).isEmpty then due ++ [new] else joined } }

/-- The register goes back to its writers once the pipe is at PS0 with its derate lifted (R484). -/
def Dev.releaseDerate (d : Dev) (p : Nat) : Dev :=
  match SMap.find? d.pwr.request p with
  | none => d
  | some v => { d with pwr := { d.pwr with request := SMap.erase d.pwr.request p } }.writeDerate p v

def Dev.pipeBusy (d : Dev) (p : Nat) : Bool := (SMap.find? d.pwr.slowing p).isSome || (SMap.find? d.pwr.speeding p).isSome
def Dev.setPipeBusy (d : Dev) (p : Nat) : Dev := d.setF F.PWR_PIPE_STAT_BUSY (b2n (d.pipeBusy p)) p

/-- Start to slow a pipe to a step: tighten, announce, and wait 20 µs (R483). -/
def Dev.startSlow (d : Dev) (p s reason : Nat) : Dev :=
  let d := (d.pwcDerate p s (reason != wHOST)).announce p reason s false
  let d := { d with pwr := { d.pwr with slowing := SMap.set d.pwr.slowing p (s, d.now8 + 160000), speeding := SMap.erase d.pwr.speeding p } }
  (d.setF F.PWR_PIPE_STAT_REASON reason p).setPipeBusy p

/-- Start to speed a pipe up to a step (R485). -/
def Dev.startFast (d : Dev) (p s : Nat) : Dev :=
  { d with pwr := { d.pwr with speeding := SMap.set d.pwr.speeding p s, slowing := SMap.erase d.pwr.slowing p } }.setPipeBusy p

/-- The cap, envelope or thermal reason that keeps a pipe slower than wanted (R482), or 0. -/
def Dev.capping (d : Dev) (p : Nat) : Nat := if d.wanted_ p < d.protective p then SMap.get d.pwr.protectReason p wCAP else 0

/-- The figures of a pipe's present step after a speeding or an abandoned slowing: the derate is loosened, and a notice with
IN_FORCE clear follows (R485). -/
def Dev.loosen (d : Dev) (p : Nat) : Dev :=
  let s := d.actual p
  let reason := d.capping p
  let d := d.setF F.PWR_PIPE_STAT_REASON (if s == 0 then 0 else if reason != 0 then reason else wHOST) p
  let d := d.pwcDerate p s (reason != 0)
  let d := d.announce p (if reason != 0 then reason else wHOST) s true
  if s == 0 && reason == 0 then d.releaseDerate p else d

/-- The target of a pipe is computed again and its sequence follows (R482, R486). Where the step stays and its cap, envelope or
thermal reason is gone, the derate is loosened (R485). -/
def Dev.retarget (d : Dev) (p : Nat) : Dev :=
  let t := d.target p
  let a := d.actual p
  let capped := d.capping p != 0
  let reason := if capped then d.capping p else wHOST
  let was := d.f F.PWR_PIPE_STAT_REASON p
  let d := (d.setF F.PWR_PIPE_STAT_TARGET t p).setF F.PWR_PIPE_STAT_HINTED (b2n !(d.activeHints p).isEmpty) p
  match SMap.find? d.pwr.slowing p with
  | some (s, _) =>
    if t == s then d
    else if s < t then d.startSlow p t reason
    else
      let d := ({ d with pwr := { d.pwr with slowing := SMap.erase d.pwr.slowing p } }.setPipeBusy p).loosen p
      if a < t then d.startSlow p t reason else if t < a then d.startFast p t else d
  | none =>
    if SMap.find? d.pwr.speeding p == some t then d
    else if a < t then d.startSlow p t reason
    else if t < a then d.startFast p t
    else
      let d := { d with pwr := { d.pwr with speeding := SMap.erase d.pwr.speeding p } }.setPipeBusy p
      if was != 0 && was != wHOST && !capped then d.loosen p else d

def Dev.retargetMask (d : Dev) (mask : Nat) : Dev := d.each ((upto 16).filter fun p => bit mask p) Dev.retarget

/-- STEP_DOWN: at the effective time the frequency drops (R483). -/
def Dev.stepDown (d : Dev) (p : Nat) : Dev :=
  match SMap.find? d.pwr.slowing p with
  | none => d
  | some (s, t8) =>
    if d.now8 < t8 then d
    else
      let d := { d with pwr := { d.pwr with slowing := SMap.erase d.pwr.slowing p } }
      ((d.setF F.PWR_PIPE_STAT_ACTUAL s p).setPipeBusy p).logPower 3 (d.f F.PWR_PIPE_STAT_REASON p) (64 + p) s

/-- STEP_UP: the frequency has risen (R485). -/
def Dev.stepUp (d : Dev) (p : Nat) : Dev :=
  match SMap.find? d.pwr.speeding p with
  | none => d
  | some s =>
    let d := { d with pwr := { d.pwr with speeding := SMap.erase d.pwr.speeding p } }
    (((d.setF F.PWR_PIPE_STAT_ACTUAL s p).setPipeBusy p).logPower 4 (d.f F.PWR_PIPE_STAT_REASON p) (64 + p) s).loosen p

/-- CAPPED of R482. -/
def Dev.capped (d : Dev) : Bool := (upto 16).any fun p => decide (d.wanted_ p < d.target p)

/-- Set a pipe's protective step. -/
def Dev.setProtect (d : Dev) (p s reason : Nat) : Dev :=
  let pr := if s == 0 then SMap.erase d.pwr.protect p else SMap.set d.pwr.protect p s
  let rs := if s == 0 then SMap.erase d.pwr.protectReason p else SMap.set d.pwr.protectReason p reason
  { d with pwr := { d.pwr with protect := pr, protectReason := rs } }

/-! ### The cap loop (R487 to R489) -/

/-- The product of the powers of R480: a common denominator for the predictions. -/
def powerUnit : Nat := 300 * 262 * 227 * 195 * 166 * 140 * 111 * 88

/-- What one step slower saves of a measured power, in 0.1 W / powerUnit. -/
def saving (dw s : Nat) : Nat := dw * (stepPower s - stepPower (s + 1)) * (powerUnit / stepPower s)

/-- What one step faster costs. -/
def costUp (dw s : Nat) : Nat := dw * (stepPower (s - 1) - stepPower s) * (powerUnit / stepPower s)

/-- The pipe to slow next: not in transition, target above its floor, the fastest first, ties by the pointer. -/
def Dev.slowNext (d : Dev) : Option Nat :=
  let ok := (upto 16).filter fun p => !d.pipeBusy p && decide (d.target p < d.f F.PWR_PIPE_CFG_FLOOR p)
  let rank := fun p => d.target p * 16 + (p + 16 - d.pwr.pipePtr) % 16
  ok.foldl (fun (a : Option Nat) p => match a with
    | none => some p
    | some b => if rank p < rank b then some p else some b) none

/-- Slow pipes until the predicted power is at most the cap. The answer says whether any was chosen. -/
def Dev.slowPipes (n : Nat) (d : Dev) (pipeDw : List Nat) (excess : Int) : Dev × Bool :=
  match n with
  | 0 => (d, false)
  | n + 1 =>
    if excess ≤ 0 then (d, true)
    else match d.slowNext with
      | none => (d, false)
      | some p =>
        let s := d.target p
        let d := { d with pwr := { d.pwr with pipePtr := (p + 1) % 16 } }
        let d := (d.setProtect p (s + 1) d.capReason).retarget p
        ((Dev.slowPipes n d pipeDw (excess - saving (pipeDw.getD p 0) s)).1, true)

/-- The lane group to shed: highest rank, then highest number (R488). -/
def Dev.shedNext (d : Dev) : Option Nat :=
  let ok := (upto 64).filter fun g => d.f F.PWR_DOM_CMD_SHED_RANK g != 0 && d.heading g == 0 && !d.inTransition g
  ok.foldl (fun (a : Option Nat) g => match a with
    | none => some g
    | some b => if d.f F.PWR_DOM_CMD_SHED_RANK b ≤ d.f F.PWR_DOM_CMD_SHED_RANK g then some g else some b) none

/-- Shed a lane group to RET. -/
def Dev.shedGroup (d : Dev) (g : Nat) : Dev :=
  let d := { d with pwr := { d.pwr with shed := g :: d.pwr.shed, shedReason := SMap.set d.pwr.shedReason g d.capReason, lastShed := some d.time.ticks } }
  ((d.setF F.PWR_DOM_STAT_FORCED 1 g).logPower 5 d.capReason g 0).startTransition g 1

/-- Something is left to act on: CAP_UNMET reads 0 (R498). -/
def Dev.capMet (d : Dev) : Dev := { d with pwr := { d.pwr with unmetSince := none } }.setF F.PWR_STATUS_CAP_UNMET 0

/-- The power is over the cap and no pipe is eligible (R488): a group is shed, at most one in 100 µs; CAP_UNMET sets when for 1 ms no
group has been left either. -/
def Dev.overUnmet (d : Dev) : Dev :=
  let since := d.pwr.overSince.getD d.time.ticks
  match d.shedNext with
    | some g =>
      let d := d.capMet
      if d.time.ticks < since + 80000 || ((d.pwr.lastShed.map fun t => decide (d.time.ticks < t + 80000)).getD false) then d else d.shedGroup g
    | none =>
      let t := d.pwr.unmetSince.getD d.time.ticks
      let d := { d with pwr := { d.pwr with unmetSince := some t } }
      if t + 800000 ≤ d.time.ticks && !d.on F.PWR_STATUS_CAP_UNMET then (d.setF F.PWR_STATUS_CAP_UNMET 1).logPower 12 d.capReason 0 0 else d

/-- Restore shed groups, the last shed first, while the predicted power allows. What a group will draw is a free value. -/
def Dev.restoreGroups (n : Nat) (d : Dev) (room : Int) : Dev × Int :=
  match n with
  | 0 => (d, room)
  | n + 1 =>
    match d.pwr.shed with
    | [] => (d, room)
    | g :: rest =>
      if d.inTransition g then (d, room)
      else
        let r := d.draw
        let need := (r.1 % 65536) * powerUnit
        if room < need then (r.2, -1)
        else
          let d := { r.2 with pwr := { r.2.pwr with shed := rest } }
          let d := (d.logPower 6 (d.shedFor g) g 0).startTransition g 0
          Dev.restoreGroups n d (room - need)

/-- Speed up protected pipes, the slowest first, while the predicted power allows; which of equals is a free value. -/
def Dev.restorePipes (n : Nat) (d : Dev) (pipeDw : List Nat) (room : Int) : Dev :=
  match n with
  | 0 => d
  | n + 1 =>
    let ok := (upto 16).filter fun p => !d.pipeBusy p && d.protective p != 0
    let top := ok.foldl (fun a p => max a (d.protective p)) 0
    match d.oneOf (ok.filter fun p => d.protective p == top) with
    | (none, d) => d
    | (some p, d) =>
      let cost := if d.wanted_ p < top then costUp (pipeDw.getD p 0) top else 0
      if room < cost then d
      else
        let d := (d.setProtect p (top - 1) (SMap.get d.pwr.protectReason p wCAP)).retarget p
        Dev.restorePipes n d pipeDw (room - cost)

/-- CAP_EVALUATION: die power and input current averaged over 10 µs in 0.1 W and 0.1 A, and each pipe's power (R487). -/
def Dev.capEvaluation (d : Dev) (dieDw iinDa : Nat) (pipeDw : List Nat) : Dev :=
  let d := ((d.setF F.PWR_POWER_DIE_DW dieDw).setF F.PWR_POWER_IIN_DA iinDa).syncCap
  let d := d.each (upto (min 16 pipeDw.length)) fun d p => d.setF F.PWR_DOM_STAT_POWER_DW (pipeDw.getD p 0) (64 + p)
  let d := d.retargetMask 0xFFFF
  let c := d.effectiveCap * 10
  if c < dieDw then
    let d := { d with pwr := { d.pwr with underSince := none, overSince := some (d.pwr.overSince.getD d.time.ticks) } }
    let r := Dev.slowPipes 16 d pipeDw (((dieDw - c) * powerUnit : Nat) : Int)
    if r.2 then r.1.capMet else r.1.overUnmet
  else
    let d := { d with pwr := { d.pwr with overSince := none } }.capMet
    let low := c - d.f F.PWR_CAP_CFG_HYST_W * 10
    if low < dieDw then { d with pwr := { d.pwr with underSince := none } }
    else
      let since := d.pwr.underSince.getD d.time.ticks
      let d := { d with pwr := { d.pwr with underSince := some since } }
      if d.time.ticks < since + 800000 then d
      else
        let r := Dev.restoreGroups d.pwr.shed.length d (((low - dieDw) * powerUnit : Nat) : Int)
        if r.1.pwr.shed.isEmpty then Dev.restorePipes 16 r.1 pipeDw r.2 else r.1

/-! ### Droop and temperature (R490 to R493) -/

/-- DROOP_STRETCH. -/
def Dev.droopStretch (d : Dev) : Dev :=
  if d.pwr.droop then d else { d with pwr := { d.pwr with droop := true } }.bump F.PWR_DROOP_CNT_COUNT

/-- DROOP_END: the stretch lasted `ns`. -/
def Dev.droopEnd (d : Dev) (ns : Nat) : Dev :=
  if d.pwr.droop then
    { d with pwr := { d.pwr with droop := false } }.setF F.PWR_DROOP_MAX_NS (max (d.f F.PWR_DROOP_MAX_NS) (min ns 0xFFFFFFFF))
  else d

/-- The hardware trip: every domain goes OFF at once (R493). -/
def Dev.trip (d : Dev) : Dev :=
  let d := (d.setF F.PWR_STATUS_TRIPPED 1).logPower 10 wTHERM 0 0
  let d := { d with pwr := { d.pwr with wakeQ := [], moving := [], recorded := [], shed := [], slowing := [], speeding := [] } }
  let d := d.each (upto 16) Dev.setPipeBusy
  let d := d.each (upto 96) fun d n =>
    let was := d.f F.PWR_DOM_STAT_STATE n
    let e := ((d.setF F.PWR_DOM_STAT_STATE 2 n).setF F.PWR_DOM_STAT_BUSY 0 n).setF F.PWR_DOM_STAT_QUEUED 0 n
    let e := e.setF F.PWR_DOM_STAT_FORCED (b2n (d.f F.PWR_DOM_CMD_STATE n != 2)) n
    let e := if 80 ≤ n && n < 88 then e.setF F.HBM_STACK_STAT_TRAINED 0 (n - 80) else e
    let e := if n < 64 then e.adaptLost n else e
    d.quadMoved (if was == 0 then e.domainOff n else e)
  d.emit .thermTrip

/-- A signed reading in °C from its register byte. -/
def celsius (b : Nat) : Int := signed 8 b

/-- THERMAL_SAMPLE: readings of the 32 junction sensors, as bytes, and whether each passed its self-check (R491, R493), and
those of the stacks' sensors (R357). A trip loses the contents of HBM. -/
def thermalSample (mem : Mem) (d : Dev) (readings : List (Nat × Bool)) (hbmTemps : List Nat) : Mem × Dev :=
  let ids := upto (min 32 readings.length)
  let temp := fun i => (readings.getD i (0, false)).1 % 256
  let valid := fun i => (readings.getD i (0, false)).2
  let d := d.each (upto (min 8 hbmTemps.length)) fun d s => d.setF F.HBM_STACK_STAT_TEMP_C (hbmTemps.getD s 0) s
  let d := d.each ids fun d i =>
    let failed := !valid i
    let news := failed && !d.on F.PWR_SENSOR_FAILED i
    let d := (d.setF F.PWR_SENSOR_FAILED (b2n failed) i).setF F.PWR_SENSOR_TEMP_C (temp i) i
    if news then (d.setF F.PWR_STATUS_SENSOR_FAIL 1).logPower 11 0 i 0 else d
  let hottest := (ids.filter valid).foldl (fun (a : Option Nat) i => match a with
    | none => some i
    | some b => if celsius (temp b) < celsius (temp i) then some i else some b) none
  let d := match hottest with
    | none => d
    | some h =>
      let d := (d.setF F.PWR_THERM_TJ (temp h)).setF F.PWR_THERM_HOT h
      let t := celsius (temp h)
      if 100 ≤ t && !d.on F.PWR_STATUS_WARN then ((d.setF F.PWR_STATUS_WARN 1).logPower 9 0 h 0).powerIrq
      else if t < 97 then d.setF F.PWR_STATUS_WARN 0
      else d
  let hot := ids.filter fun i => valid i && decide (115 ≤ celsius (temp i))
  let twice := hot.any fun i => d.pwr.hotOnce.contains i
  let d := { d with pwr := { d.pwr with hotOnce := hot } }
  let d := if !ids.isEmpty && ids.all fun i => !valid i || decide (celsius (temp i) < 95) then { d with boot := { d.boot with cooling := false } } else d
  if twice && !d.tripped then ({ mem with hbm := [] }, d.trip) else (mem, d)

/-- THROTTLE: the thermal cap moves one step (R492). -/
def Dev.throttle (d : Dev) : Dev :=
  let t := d.f F.PWR_THERM_THERMAL_W
  let tj := celsius (d.f F.PWR_THERM_TJ)
  let st := d.f F.PWR_CAP_CFG_THROTTLE_STEP_W
  let new := if 105 ≤ tj then max 640 (t - st) else if tj ≤ 102 then min 1540 (t + st) else t
  let d := ((d.setF F.PWR_THERM_THERMAL_W new).setF F.PWR_STATUS_THROTTLE (b2n (decide (new < 1540)))).syncCap
  if t == 1540 && new < 1540 then d.logPower 7 wTHERM 0 0 else if t < 1540 && new == 1540 then d.logPower 8 wTHERM 0 0 else d

/-! ### Energy (R494) -/

def Dev.addEnergy (d : Dev) (k uj : Nat) : Dev := if uj == 0 then d else d.setQ .PWR_ENERGY (d.q .PWR_ENERGY k + uj) k

/-- Divide an energy, half by each of two weights of accounts 0 to 64: each share rounded down, the remainder to the device
account. -/
def Dev.divideEnergy (d : Dev) (uj : Nat) (w v : Nat → Nat) : Dev :=
  let total := fun (f : Nat → Nat) => max 1 ((upto 65).foldl (fun a k => a + f k) 0)
  let shares := (upto 64).map fun k => uj * (w k * total v + v k * total w) / (2 * total w * total v)
  let d := d.each (upto 64) fun d k => d.addEnergy k (shares.getD k 0)
  (d.addEnergy 64 (uj - shares.foldl (· + ·) 0)).addEnergy 65 uj

/-- Weights counted for a domain. -/
def Dev.weight (d : Dev) (dom kind k : Nat) : Nat := SMap.get d.pwr.weights (dom * 256 + kind * 128 + k) 0

/-- Lanes of enabled ports of a group, by partition; the unused lanes count for the device. -/
def Dev.laneWeight (d : Dev) (g k : Nat) : Nat :=
  let used := (d.groupPorts g).filter d.portEn
  if k < 64 then (used.filter fun e => d.portPartition e == k).foldl (fun a e => a + modeLanes (d.mode e)) 0
  else 16 - used.foldl (fun a e => a + modeLanes (d.mode e)) 0

/-- ENERGY_UPDATE: µJ of each LG, PP, BQ and HB domain, and of IVD, EVD, SPD, TLD and the always-on domain, in the last ms. -/
def Dev.energyUpdate (d : Dev) (lg pp bq hb other : List Nat) : Dev :=
  let power := fun (d : Dev) (n uj : Nat) => d.setF F.PWR_DOM_STAT_POWER_DW (min 65535 (uj / 100)) n
  let d := d.each (upto 64) fun d g => (power d g (lg.getD g 0)).divideEnergy (lg.getD g 0) (d.laneWeight g) (d.laneWeight g)
  let same := fun (d : Dev) (n uj : Nat) => (power d n uj).divideEnergy uj (d.weight n 0) (d.weight n 0)
  let d := d.each (upto 16) fun d p => (power d (64 + p) (pp.getD p 0)).divideEnergy (pp.getD p 0) (d.weight (64 + p) 0) (d.weight (64 + p) 1)
  let d := d.each (upto 8) fun d s => same d (80 + s) (hb.getD s 0)
  let d := d.each (upto 4) fun d q => same d (88 + q) (bq.getD q 0)
  let d := d.each (upto 5) fun d i =>
    let uj := other.getD i 0
    ((if i < 4 then power d (92 + i) uj else d).addEnergy 64 uj).addEnergy 65 uj
  { d with pwr := { d.pwr with weights := [] } }

/-! ### Hints (R495) -/

def Hint.end8 (h : Hint) : Nat := h.start8 + h.durMs * 8000000

def Dev.setHints (d : Dev) (l : List Hint) : Dev := { d with pwr := { d.pwr with hints := l } }.setF F.PWR_HINT_STAT_LEVEL l.length

/-- PUSH was written: the hint block is queued. -/
def Dev.hintPush (d : Dev) : Dev :=
  let t := d.regTime .PWR_HINT_START_NS .PWR_HINT_START_SEC_LO .PWR_HINT_START_SEC_HI
  let h : Hint := ⟨t, d.f F.PWR_HINT_DURATION_MS, d.f F.PWR_HINT_LOAD_PIPES, d.f F.PWR_HINT_LOAD_PCT, decide (t ≤ d.now8)⟩
  if 16 ≤ d.pwr.hints.length then d.setF F.PWR_HINT_STAT_STATUS 2
  else if h.end8 ≤ d.now8 then d.setF F.PWR_HINT_STAT_STATUS 3
  else
    let d := (d.setHints (d.pwr.hints ++ [h])).setF F.PWR_HINT_STAT_STATUS 1
    if h.active then d.retargetMask h.pipes else d

/-- FLUSH was written: every hint is discarded, and active ones end. -/
def Dev.hintFlush (d : Dev) : Dev := (d.setHints []).retargetMask 0xFFFF

/-- HINT_START: the first waiting hint whose lead has begun takes effect. -/
def Dev.hintStart (d : Dev) : Dev :=
  let due := fun (h : Hint) => !h.active && decide (h.start8 ≤ d.now8 + d.f F.PWR_HINT_CFG_LEAD_US * 8000)
  match d.pwr.hints.find? due with
  | none => d
  | some h => (d.setHints (d.pwr.hints.map fun (x : Hint) => if x == h then { x with active := true } else x)).retargetMask h.pipes

/-- HINT_END: the first hint whose end has come leaves the queue. -/
def Dev.hintEnd (d : Dev) : Dev :=
  match d.pwr.hints.find? fun (h : Hint) => decide (h.end8 ≤ d.now8) with
  | none => d
  | some h => (d.setHints (d.pwr.hints.erase h)).retargetMask h.pipes

/-- PWR_EVT_POP (R496): the BMC's read leaves the entry. -/
def Dev.pwrPop (d : Dev) (m : Nat) : Dev × Nat :=
  let r := d.popWords d.pwr.events .PWR_EVT_POP m 4 0
  let rest := if m == mBMC then d.pwr.events else r.1
  ({ r.2.1 with pwr := { r.2.1.pwr with events := rest } }, r.2.2.toNat)

end Sys2Proof.Machine
end

