-- ==== Sys2Proof/Machine/Flags.lean ====
section
/-! DEFINITION. Status that a register shows and the device computes when it is read. -/

namespace Sys2Proof.Machine

/-- Set a field of a word. -/
def withF (w : Nat) (x : Fld) (v : Nat) : Nat := x.ins w v

/-- JOURNAL_STOP: a partition is stopped (R208). -/
def Dev.stopAny (d : Dev) : Bool := (upto 64).any d.stopped

/-- ADM_PORT_STATE (R74, R550). -/
def Dev.portState (d : Dev) (e : Nat) : Nat :=
  if 1028 ≤ e then 0
  else b2n (d.timedOk e) + 2 * b2n (d.linkUp e) + 4 * b2n (d.preemptActive e) + 8 * b2n (d.derated (pipeOf e))

/-- ID_STATUS (R35). -/
def Dev.idStatus (d : Dev) (w : Nat) : Nat :=
  let w := withF w F.ID_STATUS_HEAT d.currentHeat
  let w := withF w F.ID_STATUS_FROZEN_ANY (b2n (d.q .CTL_FROZEN != 0))
  let w := withF w F.ID_STATUS_HOLDOVER (b2n (d.timeState == 2))
  let w := withF w F.ID_STATUS_JOURNAL_STOP (b2n d.stopAny)
  withF w F.ID_STATUS_CAPPED (b2n d.capped)

/-- Every stack trained and ON (R355). -/
def Dev.hbmReady (d : Dev) : Bool := (upto 8).all fun s => d.on F.HBM_STACK_STAT_TRAINED s && d.domain (80 + s) == 0

/-- The certificate EV_CERT_SEL selects (R222). -/
def Dev.cert (d : Dev) : List Byte :=
  match d.boot.fuses with
  | none => []
  | some f => if d.on F.EV_CERT_SEL_INDEX then f.certCa else f.certDev

/-- F as BUF_SHARED_FREE shows it: that of the start of the cell time, 0 while it is zero or less (R90, R111). -/
def Dev.sharedFree (d : Dev) : Nat := d.buf.freeStart.toNat

/-- The registers of an unconfigured port read zero, PORT_CFG apart (R360). -/
def portReg (r : Reg) : Bool :=
  match r with
  | .PORT_STATUS | .PORT_LANE_MAP | .PORT_SKEW | .PORT_TIMER | .PORT_PREEMPT_CFG | .PORT_PREEMPT_STAT | .PORT_LPI_CFG
  | .PORT_FEC_CFG | .PORT_CNT => true
  | _ => false

/-- The bits of a register that hold a value. -/
def RegRow.held (w : RegRow) : Nat := w.ro ||| w.rw ||| w.w1c ||| w.rc ||| w.rwl

/-- What a 32-bit register shows, without the effects of a read. -/
def Dev.shown (d : Dev) (h : RegHit) (m : Nat) : Nat :=
  let w := (d.get h.reg h.i h.j h.k m).toNat &&& h.reg.row.held
  if portReg h.reg && !d.configured h.i then 0 else
  match h.reg with
  | .ID_STATUS => d.idStatus w
  | .CTL_VLOG_STAT => withF w F.CTL_VLOG_STAT_LEVEL d.ctl.vlog.length
  | .BAT | .BAT_PEEK => d.batonValue h.i
  | .BAT_STAT => d.ctl.batons.length
  | .PWR_EVT_STAT => withF w F.PWR_EVT_STAT_LEVEL d.pwr.events.length
  | .TIME_NOW_NS => d.time.ns
  | .TIME_SLEW => d.slewRead
  | .EV_STATUS =>
    withF (withF w F.EV_STATUS_STOP_ANY (b2n d.stopAny)) F.EV_STATUS_CLOSE_BACKLOG d.closeBacklog
  | .EV_PART_STATUS => withF w F.EV_PART_STATUS_STOPPED (b2n (d.stopped h.i))
  | .EV_CERT_LEN => d.cert.length
  | .EV_CERT_DATA => beAt d.cert (4 * h.i) 4
  | .ADM_PORT_STATE => d.portState h.i
  | .BUF_SHARED_FREE => d.sharedFree
  | .BUF_STATUS => withF w F.BUF_STATUS_QEMPTY ((upto 4).foldl (fun a i => a + b2n (d.quadEmpty i) * 2 ^ i) 0)
  | .TBL_NOTICE_STAT => withF w F.TBL_NOTICE_STAT_LEVEL d.tbl.notices.length
  | .TBL_ERR_STAT => withF w F.TBL_ERR_STAT_LEVEL d.tbl.errors.length
  | .HBM_STATUS => withF (withF w F.HBM_STATUS_READY (b2n d.hbmReady)) F.HBM_STATUS_QUIET (b2n d.hbmQuiet)
  | .HBM_ERR_STAT => withF w F.HBM_ERR_STAT_LEVEL d.hbm.errors.length
  | .IVL_ENV_STAT => withF w F.IVL_ENV_STAT_LEVEL d.ivl.envRing.length
  | _ => w

/-- What a 64-bit quantity shows. -/
def Dev.shownQ (d : Dev) (h : RegHit) (m : Nat) : Nat :=
  if portReg h.reg && !d.configured h.i then 0 else d.q h.reg h.i h.j h.k m

/-- SMB_ALERT_N is driven low while one of these reads 1 (R537). -/
def Dev.smbAlert (d : Dev) : Bool :=
  d.on F.PWR_STATUS_WARN || d.on F.PWR_STATUS_THROTTLE || d.on F.PWR_STATUS_CAP_UNMET || d.tripped

end Sys2Proof.Machine
end

