-- ==== Sys2Proof/Machine/Steps.lean ====
section
/-! DEFINITION. The step of device time and the new epoch (R124 to R127). -/

namespace Sys2Proof.Machine

/-- Close the interval in progress at a tick, and start the next at device time `after` (R215). -/
def Dev.cutInterval (d : Dev) (before : Nat) (epochEnd stepEnd : Bool) (move : Dev → Dev) (seed : Nat) : Dev :=
  let had := d.ev.interval.isSome
  let us := d.intervalUs
  let d := move (d.closeInterval before epochEnd stepEnd)
  if !had then d
  else if d.evOn || d.openTotal != 0 then d.startInterval d.now8 us seed
  else { d with ev := { d.ev with draining := false } }

/-- Move device time to `n` ns (R124). -/
def Dev.moveTime (d : Dev) (n : Nat) (absolute : Bool) : Dev :=
  { d with time := { d.time with sec := n / 1000000000, ns := n % 1000000000, frac := if absolute then 0 else d.time.frac } }

/-- Does STEP_MARK block a new epoch? A step granted and waiting for its tick is ahead of the request (R29). -/
def Dev.stepMarked (d : Dev) : Bool := d.on F.TIME_STATUS_STEP_MARK || d.time.pendingStep.isSome

/-- A write of TIME_STEP_CTRL (R124 to R126). An accepted step waits for its tick. -/
def Dev.stepCtrl (d : Dev) (m val off seed : Nat) : Dev :=
  let go := bit val 31
  let epoch := bit val 30
  if epoch then
    if d.stepMarked then d.rejectStep 3
    else
      let r := d.stepReq true
      if go && (d.stepTarget r).isSome then { d with time := { d.time with pendingStep := some r } }
      else
        let d := d.cutInterval d.now8 true false Dev.startEpoch seed
        if go then d.rejectStep 4 else d
  else if go then
    if d.stepSpent then (d.rejectStep 2).logViolation 5 m false true off 2
    else
      let r := d.stepReq false
      if (d.stepTarget r).isSome then { d with time := { d.time with pendingStep := some r } } else d.rejectStep 4
  else d

/-! ### The step tick (R127) -/

/-- A copy the step refuses: timed, and not yet on its line. -/
def Copy.refusedByStep (c : Copy) : Bool := c.timed && c.stage != .line && c.stage != .discard

/-- A best-effort copy that is queued, on die or spilled; one a pipe has claimed and not begun to send stays queued. -/
def Copy.keptByStep (c : Copy) : Bool :=
  !c.timed && (c.stage == .queued || c.stage == .lane || c.stage == .overflow || c.stage == .spilled)

/-- Mark the tail of a queue. A fifth mark first discards the copies before the oldest. -/
def Dev.markQueue (d : Dev) (delta8 : Int) (q : Nat) : Dev :=
  let old := SMap.get d.time.marks q []
  let d := if old.length < 4 then d
    else (d.each (d.copiesOf ((old.head?.map (·.copies)).getD [])) fun d c => d.discard c rAGED)
  let old := SMap.get d.time.marks q []
  let old := if old.length < 4 then old else old.drop 1
  let ids := (d.copyList.filter fun c => c.keptByStep && queueOf c.egress c.served == q).map (·.id)
  { d with time := { d.time with marks := SMap.put d.time.marks q (if ids.isEmpty then old else old ++ [⟨ids, delta8⟩]) [] } }

/-- What is in flight when device time moves from `before` to its present value. -/
def Dev.disposeStep (d : Dev) (before : Nat) : Dev :=
  let d := d.each (d.copyList.filter Copy.refusedByStep) fun d c => match d.copy? c.id with
    | some c =>
      let undecided := c.stage == .align || c.stage == .hurdle
      (d.when_ undecided fun d => d.traceRefusal c rAGED).discard c rAGED aOVERDUE
    | none => d
  let qs := ((d.copyList.filter Copy.keptByStep).map fun c => queueOf c.egress c.served).eraseDups
  let d := d.each qs fun d q => d.markQueue ((d.now8 : Int) - before) q
  let d := d.each (upto 16) Dev.txqStepFlush
  let d := d.each (upto 8) fun d n => (d.capStepFlush n).pinStep n before d.now8
  let d := d.each (upto 16) fun d a => d.alarmStep a before d.now8
  { d with time := { d.time with preStepFrames := d.buf.nextFrame }, ivl := { d.ivl with steps := d.ivl.steps + 1 } }

/-- STEP_TICK: device time steps, in a new epoch where the same write asked for one. The epoch starts also where the step
is out of range by then (R126). -/
def Dev.stepTick (d : Dev) (seed : Nat) : Dev :=
  match d.time.pendingStep with
  | none => d
  | some r =>
    let d := { d with time := { d.time with pendingStep := none } }
    match d.stepTarget r with
    | none => (if r.newEpoch then d.cutInterval d.now8 true false Dev.startEpoch seed else d).rejectStep 4
    | some n =>
      let before := d.now8
      let d := d.cutInterval before r.newEpoch true (fun d => (d.when_ r.newEpoch Dev.startEpoch).moveTime n r.absolute) seed
      let d := ((d.setF F.TIME_STATUS_STEP_USED 1).setF F.TIME_STATUS_STEP_MARK 1).setF F.TIME_STEP_CTRL_STATUS 1
      ({ d with time := { d.time with stepAt := d.time.ticks } }).disposeStep before

/-- STEP_MARK stays 1 for 1.1 s (R127). -/
def Dev.stepMarkClear (d : Dev) : Dev :=
  if d.time.stepAt + 880000000 ≤ d.time.ticks then d.setF F.TIME_STATUS_STEP_MARK 0 else d

end Sys2Proof.Machine
end

