-- ==== Sys2Proof/Machine/Startup.lean ====
section
/-! DEFINITION. Resets, the early stages of start-up, firmware and the flash (R438 to R458, R466 to R470, R530, R539,
R540). The configuration image follows in Image.lean. -/

namespace Sys2Proof.Machine

/-! ### Resets (R449) -/

/-- What a device reset leaves: everything at reset but the fuses, the sampled straps (R531), the JTAG instruction
register, the clocks that run, and the model's count of free values. `held`: PWRGD holds it from now on; a hold lasts until a cold
start (R526, R528). -/
def Dev.resetDev (d : Dev) (held : Bool) : Dev :=
  let o := d.boot
  let b := { Boot.reset with
    fuses := o.fuses, floorRaises := o.floorRaises, ir := o.ir, jtagHeld := o.jtagHeld, iref := o.iref, lref := o.lref,
    inReset := held || o.inReset, unpowered := o.unpowered, cooling := o.cooling || d.tripped }
  let straps := d.get .ID_STRAP
  ({ Dev.reset with boot := b, draws := d.draws, out := d.out, last := d.last }).set .ID_STRAP straps

/-- A reset of the device: every content of the memories is lost. -/
def resetAll (d : Dev) (held : Bool) : Mem × Dev := (⟨[], []⟩, d.resetDev held)

/-- COLD_START: PWRGD rises, or the rails return with PWRGD high; the strap balls are sampled (R526, R531). -/
def coldStart (d : Dev) (x : ColdIn) : Mem × Dev :=
  let r := resetAll d false
  (r.1, { r.2 with boot := { r.2.boot with inReset := false, unpowered := false, iref := x.iref, lref := x.lref % 256 } }.set .ID_STRAP
    (word (x.straps % 128)))

/-- The undervoltage lockout: every rail is removed, and the device stays in reset until a cold start (R526). -/
def lockout (d : Dev) : Mem × Dev :=
  let r := resetAll d true
  (r.1, { r.2 with boot := { r.2.boot with unpowered := true } })

/-- Does a JTAG opcode select a test instruction that holds the device in reset (R540)? -/
def jtagTest (op : Nat) : Bool := op == 0x00 || op == 0x08 || op == 0x09 || op == 0x0A || op == 0x0B

/-- The data register an opcode selects: 0 BYPASS, 1 IDCODE, 2 boundary (R539). -/
def jtagReg (op : Nat) : Nat :=
  if op == 0x01 then 1 else if op == 0x00 || op == 0x02 || op == 0x08 || op == 0x09 then 2 else 0

/-- What IDCODE reads: version 0xB, part 0x2048, manufacturer 0x52F and a 1 (R539). -/
def jtagCode (op : Nat) : Option Nat := if op == 0x01 then some 0xB2048A5F else none

/-- JTAG_INSTRUCTION (R539, R540); without its rail the port does nothing. -/
def jtagLoad (mem : Mem) (d : Dev) (opcode : Nat) : Mem × Dev :=
  if d.boot.unpowered then (mem, d) else
  let op := opcode % 256
  let d := ({ d with boot := { d.boot with ir := op } }).emit (.jtag (jtagReg op) (jtagCode op))
  if jtagTest op then
    let r := resetAll d false
    (r.1, { r.2 with boot := { r.2.boot with jtagHeld := true } })
  else if d.boot.jtagHeld then
    let r := resetAll d false
    (r.1, { r.2 with boot := { r.2.boot with jtagHeld := false } })
  else (mem, d)

/-- A PCIe reset: H0 to H15 are reset as masters (R449). -/
def Dev.pcieReset (d : Dev) : Dev := d.each (upto 16) Dev.masterReset

/-- TREF stops for 1 µs, or returns (R530). -/
def Dev.trefLost (d : Dev) : Dev :=
  ((d.setF F.ID_CLK_STAT_TREF_LOST 1).setF F.ID_CLK_STAT_TREF_OK 0).setF F.ID_CLK_STAT_TIME_LOCK 0
def Dev.trefReturn (d : Dev) : Dev :=
  (d.setF F.ID_CLK_STAT_TREF_OK 1).setF F.ID_CLK_STAT_TIME_LOCK (b2n (d.f F.ID_STRAP_TREF_SEL != 3))

/-- Loss of LREFCLK[t] (0), IREFCLK (1), PCIE_REFCLK (2) or SYSREFCLK (3) (R530). -/
def refclkLost (mem : Mem) (d : Dev) (which tile : Nat) : Mem × Dev :=
  if which == 0 then
    if 8 ≤ tile then (mem, d) else
    let w := d.boot.lref
    let d := { d with boot := { d.boot with lref := if bit w tile then w - 2 ^ tile else w } }.clocksShown
    (mem, d.each ((upto 128).map (128 * tile + ·)) fun d e => d.linkDown e .lock)
  else if which == 1 then
    (mem, ({ d with boot := { d.boot with iref := false } }.clocksShown).each ((upto 4).filter fun k => (d.ivlCarrier k).isNone && d.ivlInStage k 5) fun d k => d.ivlLeave k 2)
  else if which == 2 then (mem, d.pcieReset)
  else if which == 3 then resetAll d false
  else (mem, d)

/-! ### Stages 0 to 2 (R451 to R458) -/

def Dev.setBootStage (d : Dev) (s : Nat) : Dev := d.setF F.ID_STATUS_STAGE s
def Dev.setCause (d : Dev) (c : Nat) : Dev := d.setF F.ID_BOOT_STATUS_CAUSE c
def Dev.setDetail (d : Dev) (c : Nat) : Dev := d.setF F.ID_BOOT_STATUS_DETAIL c

/-- PLL_LOCK: the clocks run and stage 0x0 ends, after a trip only once the sensors have cooled (R493); with TREF_SEL = 0b11 the time PLL never locks (R531). -/
def Dev.pllLock (d : Dev) : Dev :=
  if d.bootStage != 0 || d.boot.inReset || d.boot.jtagHeld || d.boot.cooling || d.f F.ID_STRAP_TREF_SEL == 3 then d
  else
    ((((d.setF F.ID_CLK_STAT_SYS_LOCK 1).setF F.ID_CLK_STAT_TIME_LOCK 1).setF F.ID_CLK_STAT_TREF_OK 1).clocksShown).setBootStage 1

/-- The private scalar of R454 from the device secret. -/
def identityScalar (secret : List Byte) : Nat :=
  let tag : List Byte := [0x4B, 0x58, 0x32, 0x30, 0x34, 0x38, 0x2D, 0x49, 0x44]
  let t := sha256 (secret ++ tag ++ [1]) ++ sha256 (secret ++ tag ++ [2])
  1 + ofBe t % (pN - 1)

/-- Fuses as read: those of an earlier start-up, with what the device has burnt since, or the ones given. -/
def Dev.fusesRead (d : Dev) (f : FuseIn) : FuseIn :=
  match d.boot.fuses with
  | some x => { x with parityOk := f.parityOk }
  | none => f

/-- Has start-up stopped at a failed check of its stage? It goes on only after a reset (R454 to R456). -/
def Dev.bootStopped (d : Dev) : Bool := d.f F.ID_BOOT_STATUS_CAUSE != 0

/-- FUSE_LOAD_DONE (R454, R455). -/
def Dev.fuseLoadDone (d : Dev) (f : FuseIn) : Dev :=
  if d.bootStage != 1 || d.bootStopped then d else
  let f := d.fusesRead f
  if !f.parityOk then d.setCause 1
  else
    let key := identityScalar f.secret
    let d := { d with boot := { d.boot with fuses := some f, keyD := key } }
    if p256Public key != (f.certKeyX, f.certKeyY) then d.setCause 2
    else
      let d := (d.setQ .EV_SERIAL f.serial).setBytes .EV_ROOT_DIGEST 8 f.rootDigest
      let d := (d.setF F.CTL_FW_STATUS_SEC_VER f.secVer).setF F.ID_IMG_INFO_FLOOR f.floor
      let d := d.each (upto 32) fun d b => d.setF F.SPD_BANK_STAT_SPARES_USED (f.spares.getD b 0) b
      d.setBootStage 2

/-- Is a copy of the flash directory good (R456)? -/
def directoryOk (bs : List Byte) : Bool :=
  decide (64 ≤ bs.length) && beAt bs 0 4 == 0x4B584644 && beAt bs 60 4 == crc32 (bs.take 60)

/-- The directory in force: the first copy, else the second. -/
def flashDirectory (f : FlashIn) : Option (List Byte) :=
  if directoryOk f.dir0 then some f.dir0 else if directoryOk f.dir1 then some f.dir1 else none

/-- RESULT of a container's checks after NOT_OWNER, or the slot it fills (R439, R440). -/
def Dev.container (d : Dev) (bs : List Byte) : Nat ⊕ FwSlot :=
  let n := beAt bs 8 4
  let entry := beAt bs 12 4
  let ver := beAt bs 4 2
  if beAt bs 0 4 != 0x4B584657 || n < 4 || 4194304 < n || n % 4 != 0 || n ≤ entry || bs.length < 80 + n then .inl 2
  else if ver < d.f F.CTL_FW_STATUS_SEC_VER then .inl 4
  else if !d.codeSigned (bs.take (16 + n)) (slice bs (16 + n) 64) then .inl 3
  else .inr ⟨ver, entry, slice bs 16 n, sha256 (slice bs 16 n)⟩

/-- The slot a directory entry's container fills; an empty or failing one leaves it empty (R457). -/
def Dev.slotOf (d : Dev) (len : Nat) (bs : List Byte) : Option FwSlot :=
  if len == 0 then none
  else match d.container (bs.take len) with
    | .inl _ => none
    | .inr x => some x

/-- Stage 0x3 begins: the HBM domains are woken, trained and zero-filled, and HBM_CTRL.EN is set (R465). -/
def Dev.imageStage (d : Dev) : Dev :=
  let d := d.each (upto 8) fun d s => d.setF F.HBM_STACK_STAT_TRAINED 1 s
  (d.setF F.HBM_CTRL_EN 1).setBootStage 3

/-- Give scratchpad banks 0 to 15 to a master. -/
def Dev.giveBanks (d : Dev) (m : Nat) : Dev := d.each (upto 16) fun d b => d.setF F.SPD_BANK_CFG_OWNER m b

/-- FIRMWARE_VERIFY_DONE (R456 to R458). -/
def Dev.firmwareVerifyDone (d : Dev) (f : FlashIn) : Dev :=
  if d.bootStage != 2 || d.on F.ID_BOOT_STATUS_FW_RECOVERY || d.bootStopped then d else
  match flashDirectory f with
  | none => d.setCause 4
  | some dir =>
    let a := d.slotOf (beAt dir 12 4) f.fwA
    let b := d.slotOf (beAt dir 20 4) f.fwB
    let d := { d with ctl := { d.ctl with slotA := a, slotB := b },
                      boot := { d.boot with images := [(beAt dir 24 4, beAt dir 28 4), (beAt dir 32 4, beAt dir 36 4)] } }
    let d := (d.setF F.ID_BOOT_STATUS_FW_A_OK (b2n a.isSome)).setF F.ID_BOOT_STATUS_FW_B_OK (b2n b.isSome)
    if a.isNone && b.isNone then ((d.setCause 3).setF F.ID_BOOT_STATUS_FW_RECOVERY 1).giveBanks mH0
    else d.imageStage

/-! ### The warm firmware switch (R440 to R442) -/

def Dev.fwState (d : Dev) : Nat := d.f F.CTL_FW_STATUS_STATE
def Dev.fwResult (d : Dev) (state result : Nat) : Dev := (d.setF F.CTL_FW_STATUS_STATE state).setF F.CTL_FW_STATUS_RESULT result

/-- GO was written to CTL_FW_CTRL: the container is verified. -/
def Dev.fwGo (d : Dev) : Dev := d.setF F.CTL_FW_STATUS_STATE 1

/-- Does H0 own every bank of a byte range of the scratchpad window? -/
def Dev.h0Owns (d : Dev) (off n : Nat) : Bool :=
  (upto ((off + n - 1) / 524288 - off / 524288 + 1)).all fun i =>
    let b := off / 524288 + i
    decide (b < 32) && d.bankOwner b == mH0

/-- The first byte of the container at CTL_FW_SRC that lies in a bank that is not ON, once H0 owns every bank: its header's, then
that of the whole (R435). -/
def Dev.fwOff (d : Dev) (mem : Mem) : Option Nat :=
  let off := d.f F.CTL_FW_SRC_OFFSET
  if !d.h0Owns off 16 then none
  else match d.spdOff off 16 with
    | some a => some a
    | none => let n := 80 + beAt (mem.spdRead off 16) 8 4; if d.h0Owns off n then d.spdOff off n else none

/-- The checks of R440 on the container at CTL_FW_SRC. A container that cannot be read whole because a bank is not ON has a
wrong format (assumption 146, DESIGN CHOICE). -/
def Dev.fwCheck (d : Dev) (mem : Mem) : Nat ⊕ FwSlot :=
  let off := d.f F.CTL_FW_SRC_OFFSET
  if !d.h0Owns off 16 then .inl 5
  else
    let n := beAt (mem.spdRead off 16) 8 4
    if !d.h0Owns off (80 + n) then .inl 5
    else if (d.fwOff mem).isSome then .inl 2
    else d.container (mem.spdRead off (80 + n))

/-- The other slot's name. -/
def Dev.otherSlot (d : Dev) : Nat := if d.f F.ID_STATUS_CP_SLOT == 0xA then 0xB else 0xA

/-- Put an image into a slot. -/
def Dev.loadSlot (d : Dev) (slot : Nat) (x : FwSlot) : Dev :=
  if slot == 0xA then { d with ctl := { d.ctl with slotA := some x } } else { d with ctl := { d.ctl with slotB := some x } }

/-- Switch the control processors to a slot: they are reset, and LOCKED time goes into holdover (R440, R128). -/
def Dev.switchTo (d : Dev) (slot : Nat) : Dev :=
  let d := (d.cpRestarts 15).setF F.ID_STATUS_CP_SLOT slot
  if d.timeState == 1 then d.setTimeState 2 else d

/-- FW_VERIFY_DONE: the verification that GO started ends; reading the container reclaims its banks (R437). In recovery the
image goes into slot A, which then counts as verified at start-up (assumption 141, DEDUCED), and start-up goes on (R458). -/
def Dev.fwVerifyDone (d : Dev) (mem : Mem) : Dev :=
  if d.fwState != 1 then d else
  let d := d.spdReach mH0 (d.f F.CTL_FW_SRC_OFFSET) (80 + beAt (mem.spdRead (d.f F.CTL_FW_SRC_OFFSET) 16) 8 4)
  let d := match d.fwOff mem with
    | some a => d.logNotOn mH0 false a
    | none => d
  match d.fwCheck mem with
  | .inl r => d.fwResult 0 r
  | .inr x =>
    if d.on F.ID_BOOT_STATUS_FW_RECOVERY then
      let d := (((d.loadSlot 0xA x).setF F.ID_BOOT_STATUS_FW_A_OK 1).setF F.ID_BOOT_STATUS_FW_RECOVERY 0).giveBanks mCP0
      (d.fwResult 0 1).imageStage
    else
      let slot := d.otherSlot
      let d := (d.loadSlot slot x).switchTo slot
      { d with ctl := { d.ctl with newSecVer := x.secVer } }.setF F.CTL_FW_STATUS_STATE 2

/-- RUNNING_ACK: SWITCHING ends, and the measurement is recomputed (R220, R440). -/
def Dev.runningAck (d : Dev) : Dev := if d.fwState == 2 then (d.setF F.CTL_FW_STATUS_STATE 3).remeasure else d

/-- RUNNING_ACK_TIMEOUT: the device goes back to the previous slot. -/
def Dev.runningAckTimeout (d : Dev) : Dev := if d.fwState == 2 then (d.switchTo d.otherSlot).fwResult 0 6 else d

/-- CONFIRM: the new firmware stays, and SEC_VER takes its version (R441). -/
def Dev.fwConfirm (d : Dev) : Dev :=
  if d.fwState == 3 then
    let v := d.ctl.newSecVer
    let d := { d with boot := { d.boot with fuses := d.boot.fuses.map fun (f : FuseIn) => { f with secVer := v } } }
    (d.setF F.CTL_FW_STATUS_SEC_VER v).fwResult 0 1
  else d

/-- CONFIRM_TIMEOUT: a second switch, back to the previous slot. -/
def Dev.confirmTimeout (d : Dev) : Dev :=
  if d.fwState == 3 then ((d.switchTo d.otherSlot).fwResult 0 6).remeasure else d

/-! ### The flash after start-up (R470) -/

/-- GO was written to ID_SPI_CMD. -/
def Dev.spiGo (d : Dev) : Dev :=
  let len := d.f F.ID_SPI_CMD_LEN
  let wr := d.on F.ID_SPI_CMD_WRITE
  let data := if wr then (d.bytesOf .ID_SPI_BUF 64).take len else []
  let d := { d with boot := { d.boot with spi := some (wr, len) } }.setF F.ID_SPI_CMD_BUSY 1
  d.emit (.spi (d.f F.ID_SPI_CMD_OPCODE) (if d.on F.ID_SPI_CMD_ADDR4 then 4 else 3) (d.get .ID_SPI_ADDR).toNat (d.f F.ID_SPI_CMD_WIDTH) len data)

/-- SPI_DONE: the command completes; a read's bytes go into the buffer. -/
def Dev.spiDone (d : Dev) (answered : Bool) (data : List Byte) : Dev :=
  match d.boot.spi with
  | none => d
  | some (wr, len) =>
    let d := { d with boot := { d.boot with spi := none } }
    let d := (d.setF F.ID_SPI_CMD_BUSY 0).setF F.ID_SPI_CMD_ERR (b2n !answered)
    if wr || !answered then d
    else d.setBytes .ID_SPI_BUF 64 (patchAt (d.bytesOf .ID_SPI_BUF 64) 0 (slice data 0 (min len 256)))

/-! ### Stages 5 and 6 (R466 to R468) -/

def Dev.onHold (d : Dev) : Bool := d.on F.ID_BOOT_STATUS_HELD

/-- Time acquisition ends, and the hold begins where HOLD_S is not 0. -/
def Dev.endAcquire (d : Dev) : Dev :=
  let d := { d with boot := { d.boot with acquired := true } }
  if d.boot.holdS != 0 then d.setF F.ID_BOOT_STATUS_HELD 1 else d

/-- TIME_ACQUIRED: the servo of a PTP or IVL source requests LOCKED once the bound is LOCK_NS or less; the stage ends at
LOCKED, or at once for NONE. -/
def Dev.timeAcquired (d : Dev) : Dev :=
  if d.bootStage != 5 || d.boot.acquired then d else
  let servo := (d.boot.timeSource == 1 || d.boot.timeSource == 2) && decide (d.errBound ≤ d.boot.lockNs)
  let d := if servo && d.timeState != 1 then d.stateReq 1 else d
  if d.timeState == 1 || d.boot.timeSource == 0 then d.endAcquire else d

/-- TIME_TIMEOUT: HOLDOVER if the step of epoch 0 has been applied, else FREE. LOCKED time or no source has ended the stage before
it, without a timeout. -/
def Dev.timeTimeout (d : Dev) : Dev :=
  if d.bootStage != 5 || d.boot.acquired then d else
  if d.timeState == 1 || d.boot.timeSource == 0 then d.endAcquire else
  let d := d.setF F.ID_BOOT_STATUS_TIME_TIMEOUT 1
  (if d.on F.TIME_STATUS_STEP_USED then d.setTimeState 2 else d).endAcquire

/-- The hold ends (R467). -/
def Dev.endHold (d : Dev) : Dev := d.setF F.ID_BOOT_STATUS_HELD 0

/-- ENTER_SERVICE (R468). -/
def Dev.enterService (d : Dev) (seed : Nat) : Dev :=
  if d.bootStage != 5 || !d.boot.acquired || d.onHold then d else
  let d := (d.setBootStage 6).set .ID_BOOT_MS (word (d.time.ticks / 800000))
  let d := if d.boot.heldEvEn || d.evOn then d.evEnable seed else d
  let d := d.setF F.CTL_LOCK_LOCK 1
  let v := d.boot.imageSecVer
  if d.boot.raiseFloor && decide (d.f F.ID_IMG_INFO_FLOOR < v) && decide (d.boot.floorRaises < 64) then
    { d with boot := { d.boot with floorRaises := d.boot.floorRaises + 1, fuses := d.boot.fuses.map fun (f : FuseIn) => { f with floor := v } } }.setF
      F.ID_IMG_INFO_FLOOR v
  else d

end Sys2Proof.Machine
end

