-- ==== Sys2Proof/Machine/Rights.lean ====
section
/-! DEFINITION. Who may make which access: the alias window (R414 to R416), the limits of start-up (R452), the rights of
each master over each register (R26, R33, R412, R415 and the rights of each block), and the reserved fields of R549. -/

namespace Sys2Proof.Machine

/-- The privileged offset that an offset of the alias window maps to (R414, R416). -/
def unalias (o : Nat) : Nat :=
  if o < 0x0C000000 || 0x10000000 ≤ o then o
  else if o < 0x0E800000 then o - 0x0C000000
  else if o < 0x0F000000 then o - 0x0E800000 + 0x05000000
  else o - 0x08000000

/-- The scratchpad window (R31). -/
def inSpd (o : Nat) : Bool := decide (0x08000000 ≤ o) && decide (o < 0x09000000)

/-- The ID_SPI_ registers (R473). -/
def inSpi (o : Nat) : Bool := decide (0x100 ≤ o) && decide (o < 0x300)

/-- Is the device in firmware recovery (R458)? -/
def Dev.inRecovery (d : Dev) : Bool := d.bootStage == 2 && d.on F.ID_BOOT_STATUS_FW_RECOVERY

/-- The limits of R452 before stage 0x6, on a privileged offset: may the access be made at all? -/
def Dev.bootAllows (d : Dev) (m : Nat) (write : Bool) (o : Nat) : Bool :=
  let st := d.bootStage
  let inId := decide (o < 0x100000)
  let inTime := decide (0x300000 ≤ o) && decide (o < 0x400000)
  let inPwr := decide (0x200000 ≤ o) && decide (o < 0x300000)
  if d.boot.inReset || d.boot.jtagHeld then false
  else if st == 6 then true
  else if m == mH0 then
    if inSpi o then st == 0xF
    else if d.onHold then true
    else if inId then !write || o == Reg.off .ID_RESET
    else if inTime then st == 5 && d.boot.timeSource == 3
    else if inSpd o then d.inRecovery && d.bankOwner ((o - spdBase) / spdBankSize) == mH0
    else d.inRecovery && (o == Reg.off .CTL_FW_CTRL || o == Reg.off .CTL_FW_SRC || o == Reg.off .CTL_FW_STATUS)
  else if m == mBMC then
    if write then o == Reg.off .PWR_BMC_CAP else (inId && !inSpi o) || inPwr
  else if isCp m then st == 4 || st == 5
  else false

/-- The register block an engine works in (R26). -/
def engineBlock (m o : Nat) : Bool :=
  (m == 0x21 && decide (0x400000 ≤ o) && decide (o < 0x500000)) ||
  (m == 0x22 && ((decide (0x200000 ≤ o) && decide (o < 0x300000)) || (decide (0x600100 ≤ o) && decide (o < 0x600140)))) ||
  (m == 0x23 && decide (0x300000 ≤ o) && decide (o < 0x400000))

/-- May a master use its side of a mailbox channel (R427, R428)? -/
def Dev.mbMay (d : Dev) (c m : Nat) : Bool := (d.mbSide c m).isSome && (!isIvl m || d.privileged m)

/-- The reserved words of a mailbox channel's block, at its offsets 0x0C to 0x1C, are reached by the two bound masters, as the
block is (R427); offsets of no channel block by every master. -/
def Dev.mbReserved (d : Dev) (m o : Nat) : Bool :=
  o < 0x102000 || 0x103000 ≤ o || d.mbMay ((o - 0x102000) / 64) m

/-- Read rights in the privileged view. Before stage 0x6 the BMC reads the whole ID_ block but the ID_SPI_ registers (R452,
R471). -/
def Dev.mayRead (d : Dev) (m o : Nat) (h : Option RegHit) : Bool :=
  let base := d.privileged m || m == mBMC || engineBlock m o
  match h with
  | none => base && d.mbReserved m o
  | some h =>
    match h.reg with
    | .ID_RESET | .ID_BOOT_CTRL => m == mH0 || (m == mBMC && d.bootStage != 6)
    | .ID_SPI_CMD | .ID_SPI_ADDR | .ID_SPI_BUF => m == mH0
    | .MB_STAT | .MB_DOORBELL | .MB_DATA => d.mbMay h.i m
    | .BUF_ALLOC_REQ | .BUF_ALLOC_RESP | .BUF_FREE => (requesterOf m).isSome
    | _ => base

/-- Write rights in the privileged view. The configuration image writes as H0 (assumption 30, DEDUCED). -/
def Dev.mayWrite (d : Dev) (m o : Nat) (h : Option RegHit) : Bool :=
  let std := m == mH0 || isCp m || engineBlock m o
  match h with
  | none => (std && d.mbReserved m o) || (d.privileged m && decide (0x09000000 ≤ o))
  | some h =>
    match h.reg with
    | .ID_RESET | .ID_BOOT_CTRL | .ID_SPI_CMD | .ID_SPI_ADDR | .ID_SPI_BUF => m == mH0
    | .CTL_THAW | .CTL_MASTER_RESET | .CTL_FW_CTRL | .CTL_CP_CTRL | .CTL_FN_MAP | .TIME_SPLIT_MAP => m == mH0
    | .CTL_FW_CONFIRM => isCp m
    | .BAT => d.privileged m
    | .MB_STAT | .MB_DOORBELL | .MB_DATA => d.mbMay h.i m
    | .BUF_ALLOC_REQ | .BUF_ALLOC_RESP | .BUF_FREE => (requesterOf m).isSome
    | .SPD_BANK_CFG => m == mH0 || isCp m || (d.privileged m && d.bankOwner h.i == m)
    | .PWR_BMC_CAP => std || m == mBMC
    | _ => std

/-- The reserved fields of R549, with those of R433, R437 and R443: would this write change one of another master's? -/
def Dev.fieldForbidden (d : Dev) (m : Nat) (h : RegHit) (new : Nat) : Bool :=
  let changes := fun (x : Fld) => x.ext new != d.f x h.i
  match h.reg with
  | .STG_GRP_CFG => m != mH0 && changes F.STG_GRP_CFG_XPART
  | .IVL_PORT_CFG => m != mH0 && changes F.IVL_PORT_CFG_MASTER_EN
  | .TEL_CTRL => m != mH0 && changes F.TEL_CTRL_UNPRIV_EN
  | .HBM_STACK_CFG => m != mH0 && changes F.HBM_STACK_CFG_AUTO_SR_EN
  | .TIME_TXQ_CTRL => m != mH0 && bit new 31
  | .SPD_BANK_CFG =>
    let own := d.bankOwner h.i == m
    (m != mH0 && changes F.SPD_BANK_CFG_PSTATE) || (m != mH0 && !own && changes F.SPD_BANK_CFG_OWNER) ||
    (!own && changes F.SPD_BANK_CFG_LEND)
  | _ => false

/-! ### The unprivileged view (R415, R516) -/

/-- Is a port in a partition (R21, R413)? An internal port belongs to that of its pipe's port block 64 (R263, assumption 81,
DEDUCED). -/
def Dev.portIn (d : Dev) (e P : Nat) : Bool :=
  (if e < 1024 then d.configured e else decide (e < 1028)) && d.portPartition e == P

/-- The port of a pipe-local number; 2047 where the pipe has no internal port. -/
def portAt (p n : Nat) : Nat := if n < 64 then 64 * p + n else (internalOf p).getD 2047

/-- The first counter of the chain that counter `k` belongs to (R514). -/
def Dev.chainHead (d : Dev) (k : Nat) : Nat :=
  ((upto 4).findSome? fun j => if d.on F.TEL_PC_CFG_CHAIN (k - j) then none else some (k - j)).getD k

/-- May a function of partition `P` see counter `k` (R516)? -/
def Dev.pcVisible (d : Dev) (k P : Nat) : Bool :=
  let z := d.chainHead k
  let sel := d.f F.TEL_PC_CFG_SEL z
  d.on F.TEL_PC_CFG_VIS k && d.f F.TEL_PC_CFG_PARTITION k == P &&
    (sel == 0 || (decide (sel ≤ 8) && d.portIn (d.f F.TEL_PC_CFG_INDEX z) P))

/-- What function `m` of partition `P` may read at a privileged offset that the window maps to. -/
def Dev.fnMayRead (d : Dev) (m P o : Nat) (h : Option RegHit) : Bool :=
  match h with
  | none =>
    o / 64 == 0x410000 / 64 + P || o / 64 == 0x420000 / 64 + P ||
      (decide (0x102000 ≤ o) && decide (o < 0x103000) && (d.mbSide ((o - 0x102000) / 64) m).isSome)
  | some h =>
    match h.reg with
    | .ID_IDENTITY | .ID_REVISION | .TIME_NOW_NS | .TIME_NOW_SEC_LO | .TIME_NOW_SEC_HI | .TIME_NOW_LAP_LO
    | .TIME_NOW_LAP_HI | .TIME_NOW_SHORT | .TIME_TXQ_POP_LO | .TIME_TXQ_POP_HI | .EV_SESS_SEL | .EV_SESS_DATA
    | .EV_SESS_CMD => true
    | .ADM_CNT => d.portIn (h.i / 4) P
    | .BUF_PCNT | .PORT_CNT => d.portIn h.i P
    | .PIPE_PORT_CNT | .PIPE_PFC_CNT => d.portIn (portAt h.i h.j) P
    | .PIPE_QCNT => d.portIn (portAt h.i (h.j / 8)) P
    | .FIN_CNT => d.f F.FIN_GRP_CFG_PARTITION h.i == P
    | .STG_CNT => d.f F.STG_GRP_CFG_PARTITION h.i == P
    | .EV_PART_CFG | .EV_PART_STATUS | .EV_PART_WRPOS | .EV_PART_RELPOS | .EV_PART_OVERWRITTEN | .EV_PART_UNJOURNALED
    | .EV_STR_CFG | .EV_STR_RATE | .EV_STR_MAC_LO | .EV_STR_MAC_HI | .EV_STR_DST_IP | .EV_STR_SRC_IP | .EV_STR_UDP
    | .EV_STR_WINDOW | .EV_STR_SENDPOS | .PWR_ENERGY => h.i == P
    | .MB_BIND | .MB_STAT | .MB_DOORBELL | .MB_DATA => (d.mbSide h.i m).isSome
    | .TEL_HIST | .TEL_HIST_MAX | .TEL_HIST_CFG => d.on F.TEL_CTRL_UNPRIV_EN && d.portIn (h.i / 4) P
    | .TEL_PC | .TEL_PC_SNAP | .TEL_PC_CFG => d.on F.TEL_CTRL_UNPRIV_EN && d.pcVisible h.i P
    | .TEL_SNAP_TIME_NS | .TEL_SNAP_TIME_SEC_LO | .TEL_SNAP_TIME_SEC_HI => d.on F.TEL_CTRL_UNPRIV_EN
    | _ => false

/-- What function `m` of partition `P` may write, and with which value. -/
def Dev.fnMayWrite (d : Dev) (m P : Nat) (h : Option RegHit) (val : Nat) : Bool :=
  match h with
  | none => false
  | some h =>
    match h.reg with
    | .EV_SESS_SEL | .EV_SESS_DATA => true
    | .EV_SESS_CMD =>
      let x := d.session (d.sessSel m)
      x.partition == P && bits val 1 0 != 0 && (bits val 1 0 != 2 || (x.withConfig (d.sessStaged m)).partition == P)
    | .MB_STAT | .MB_DOORBELL | .MB_DATA => (d.mbSide h.i m).isSome
    | _ => false

/-- Is an access within the master's rights? The word that holds its first byte decides, for an access that is wider than four
bytes or straddles two words too (assumption 145, DESIGN CHOICE). -/
def Dev.within (d : Dev) (m : Nat) (write : Option Nat) (off : Nat) : Bool :=
  let o := unalias (off - off % 4)
  let h := lookupReg o
  if isHostFn m then
    match d.fnPartition m with
    | none => false
    | some P =>
      decide (0x0C000000 ≤ off) && decide (off < 0x10000000) &&
        (match write with
         | none => d.fnMayRead m P o h
         | some v => d.fnMayWrite m P h v)
  else if inSpd o then d.bankServes ((o - spdBase) / spdBankSize) m && (!isIvl m || d.privileged m)
  else match write with
    | none => d.mayRead m o h
    | some _ => d.mayWrite m o h

end Sys2Proof.Machine
end

