-- ==== Sys2Proof/Machine/Conflict.lean ====
section
/-! DEFINITION. When a write returns CONFLICT (R3 and the rules that name a conflict), chapter by chapter. `d` is the device
before the write and `n` the device with the register's new value put in. -/

namespace Sys2Proof.Machine

/-- A port-number field that names no port or a reserved one (R3, R4, R17). A number of an unconfigured front-panel port is
a conflict when the write puts it there (assumption 31, DEDUCED). -/
def Dev.badPort (d : Dev) (was now : Nat) : Bool :=
  decide (1028 ≤ now) || (decide (now < 1024) && now != was && !d.configured now)

/-! ### ID_, CTL_, MB_, SPD_ -/

def isEnd (m : Nat) : Bool := decide (m ≤ 0x0F) || isCp m || isIvl m

def Dev.conflictCtl (d n : Dev) (h : RegHit) (val : Nat) : Bool :=
  let i := h.i
  match h.reg with
  | .ID_HEAT_CFG => n.f F.ID_HEAT_CFG_DRAIN_MAX_US < 100 || 1000000 < n.f F.ID_HEAT_CFG_DRAIN_MAX_US
  | .ID_SPI_CMD => n.f F.ID_SPI_CMD_WIDTH == 3 || 256 < n.f F.ID_SPI_CMD_LEN || (bit val 31 && d.on F.ID_SPI_CMD_BUSY)
  | .CTL_FN_MAP =>
    n.on F.CTL_FN_MAP_EN i && (upto 15).any fun j =>
      j != i && n.on F.CTL_FN_MAP_EN j && n.f F.CTL_FN_MAP_PARTITION j == n.f F.CTL_FN_MAP_PARTITION i
  | .CTL_FW_CTRL => n.f F.CTL_FW_CTRL_CONFIRM_S < 4 || (bit val 31 && d.fwState != 0)
  | .MB_BIND =>
    let a := n.f F.MB_BIND_A i
    let b := n.f F.MB_BIND_B i
    n.on F.MB_BIND_EN i && (a == b || !isEnd a || !isEnd b)
  | .SPD_BANK_CFG =>
    let o := n.f F.SPD_BANK_CFG_OWNER i
    let s := n.f F.SPD_BANK_CFG_PSTATE i
    !(o == mH0 || isCp o || isIvl o) || s == 3 ||
      (s != 0 && s != d.f F.SPD_BANK_CFG_PSTATE i && (d.on F.SPD_BANK_CFG_LEND i || n.on F.SPD_BANK_CFG_LEND i))
  | _ => false

/-! ### PWR_ -/

def Dev.conflictPwr (d n : Dev) (h : RegHit) : Bool :=
  let i := h.i
  match h.reg with
  | .PWR_CAP => n.f F.PWR_CAP_CAP_W < 640 || 1540 < n.f F.PWR_CAP_CAP_W
  | .PWR_BMC_CAP => n.f F.PWR_BMC_CAP_CAP_W < 640 || 1540 < n.f F.PWR_BMC_CAP_CAP_W
  | .PWR_CAP_CFG => n.f F.PWR_CAP_CFG_HYST_W == 0 || n.f F.PWR_CAP_CFG_THROTTLE_STEP_W == 0
  | .PWR_DROOP_CFG => n.f F.PWR_DROOP_CFG_DROOP_MV < 20 || 120 < n.f F.PWR_DROOP_CFG_DROOP_MV
  | .PWR_HINT_DURATION => n.f F.PWR_HINT_DURATION_MS == 0
  | .PWR_HINT_LOAD => n.f F.PWR_HINT_LOAD_PCT == 0 || 100 < n.f F.PWR_HINT_LOAD_PCT
  | .PWR_DOM_CMD =>
    let s := n.f F.PWR_DOM_CMD_STATE i
    d.tripped || s == 3 || (64 ≤ i && n.f F.PWR_DOM_CMD_SHED_RANK i != 0) || 
      (s != 0 && (d.heading i == 0 || (80 ≤ i && i < 88)) && !d.mayLeave i)
  | .PWR_PIPE_CFG =>
    n.f F.PWR_PIPE_CFG_STEP i < n.f F.PWR_PIPE_CFG_HINT_STEP i || n.f F.PWR_PIPE_CFG_FLOOR i < n.f F.PWR_PIPE_CFG_STEP i
  | _ => false

/-! ### TIME_ -/

/-- PTP domain entries: SERVO on two entries, two entries with one domainNumber, or SERVO beside the Ivgon servo
(R139, R399). -/
def Dev.ptpClash (n : Dev) : Bool :=
  let en := (upto 4).filter fun i => n.on F.TIME_PTP_DOM_EN i
  let sv := (upto 4).filter fun i => n.on F.TIME_PTP_DOM_SERVO i
  let num := en.map fun i => n.f F.TIME_PTP_DOM_DOMAIN i
  2 ≤ sv.length || num.eraseDups.length != num.length || (!sv.isEmpty && n.on F.IVL_TIME_CFG_SERVO_EN)

/-- The pin claims of R153: a pin that is the servo's or the image's reference is a PPS input or off, and is claimed once. -/
def Dev.pinClash (n : Dev) (i : Nat) : Bool :=
  let ext := b2n (n.on F.TIME_CTRL_PPS_REF_EN && n.f F.TIME_CTRL_PPS_REF_PIN == i) + b2n (n.boot.timePps == some i)
  2 ≤ ext || (ext == 1 && n.pinMode i != 0 && n.pinMode i != 5)

/-- PERIOD and WIDTH of a pin outside R150's limits for its MODE. -/
def Dev.pulseBad (n : Dev) (i : Nat) : Bool :=
  let w := n.f F.TIME_PIN_WIDTH_WIDTH i
  n.f F.TIME_PIN_PERIOD_PERIOD i < 10 || (if n.pinMode i == 1 then 1000000000 ≤ w else n.f F.TIME_PIN_PERIOD_PERIOD i ≤ w)

def Dev.conflictTime (d n : Dev) (h : RegHit) (m : Nat) (val : Nat) : Bool :=
  let i := h.i
  match h.reg with
  | .TIME_CTRL => (upto 8).any n.pinClash
  | .TIME_RATE => !rateOk (n.q .TIME_RATE)
  | .TIME_SLEW_RATE => 500000 < n.f F.TIME_SLEW_RATE_PPB
  | .TIME_PTP_DOM => n.f F.TIME_PTP_DOM_MODE i == 3 || n.ptpClash
  | .TIME_SPLIT_MAP =>
    let p := n.f F.TIME_SPLIT_MAP_PORT i
    1028 ≤ p || (n.on F.TIME_SPLIT_MAP_EN i &&
      (1024 ≤ p || p / 64 != i / 4 || !n.configured p ||
        (upto 64).any fun j => j != i && n.on F.TIME_SPLIT_MAP_EN j && n.f F.TIME_SPLIT_MAP_PORT j == p))
  | .TIME_PIN_CFG =>
    let leaves := d.pinMode i == 5 && n.pinMode i != 5
    let claimed := (n.on F.TIME_CTRL_PPS_REF_EN && n.f F.TIME_CTRL_PPS_REF_PIN == i) || n.boot.timePps == some i
    6 ≤ n.pinMode i || n.f F.TIME_PIN_CFG_EDGE i == 0 || n.pinClash i || n.pulseBad i || (leaves && claimed)
  | .TIME_PIN_PERIOD | .TIME_PIN_WIDTH => n.pulseBad i
  | .TIME_ALARM_CFG | .TIME_ALARM_T_NS | .TIME_ALARM_T_SEC_LO | .TIME_ALARM_T_SEC_HI =>
    let o := d.f F.TIME_ALARM_CFG_OWNER i
    o != mNone && o != m && !(m == mH0 && h.reg == .TIME_ALARM_CFG && !bit val 31)
  | .TIME_TXQ_CTRL => n.f F.TIME_TXQ_CTRL_PER_MASTER_MAX i == 0 || 64 < n.f F.TIME_TXQ_CTRL_PER_MASTER_MAX i
  | _ => false

/-! ### EV_ -/

/-- EtherTypes that the stamp tag and Ivgon over Ethernet may not take (R204, R390). -/
def etypeTaken (e other : Nat) : Bool := e == other || e == 0x8100 || e == 0x88A8 || e == 0x88F7

def Dev.ringMiB (n : Dev) : Nat := (upto 64).foldl (fun a k => a + n.f F.EV_PART_CFG_RING_MIB k) 0

def Dev.conflictEv (d n : Dev) (h : RegHit) (val : Nat) : Bool :=
  let i := h.i
  match h.reg with
  | .EV_SEAL_CFG => n.f F.EV_SEAL_CFG_INTERVAL_US < 1000 || 1000000 < n.f F.EV_SEAL_CFG_INTERVAL_US
  | .EV_TAG_CFG => etypeTaken (n.f F.EV_TAG_CFG_ETYPE) (n.f F.IVL_ETH_CFG_ETYPE)
  | .EV_ATTEST_CTRL => bit val 31 && d.on F.EV_ATTEST_CTRL_BUSY
  | .EV_PART_CFG => 65208 < n.ringMiB
  | .EV_STR_CFG => 1024 ≤ n.f F.EV_STR_CFG_PORT i || d.badPort (d.f F.EV_STR_CFG_PORT i) (n.f F.EV_STR_CFG_PORT i)
  | .EV_STR_RATE => n.f F.EV_STR_RATE_RATE i == 0 || 400000 < n.f F.EV_STR_RATE_RATE i
  | _ => false

/-! ### FIN_ and STG_ -/

def Dev.finOn (n : Dev) (g : Nat) : Bool := n.on F.FIN_GRP_CFG_EN g
def Dev.finPort (n : Dev) (g : Nat) : Nat := n.f F.FIN_GRP_CFG_PORT g
def Dev.stgMember (n : Dev) (r e : Nat) : Bool := decide (e < 1024) && bit (n.get .STG_MEMBERS r (e / 32)).toNat (e % 32)

/-- Is a port a finish group's destination or a release group's member, by enabled groups (R361, R372)? -/
def Dev.groupPort (n : Dev) (e : Nat) : Bool :=
  ((upto 64).any fun g => n.finOn g && n.finPort g == e) || (upto 256).any fun r => n.on F.STG_GRP_CFG_EN r && n.stgMember r e

def Dev.lpiTx (n : Dev) (e : Nat) : Bool := decide (e < 1024) && n.on F.PORT_CFG_LPI_TX_EN e

/-- A finish group's relations with the rest of the configuration, while it is enabled (R168, R170, R372). -/
def Dev.finBad (n : Dev) (g : Nat) : Bool :=
  n.finOn g &&
    (!n.timedOk (n.finPort g) || n.lpiTx (n.finPort g) ||
      ((upto 64).any fun k => k != g && n.finOn k && n.finPort k == n.finPort g && n.f F.FIN_GRP_CFG_CLASS k == n.f F.FIN_GRP_CFG_CLASS g) ||
      65536 < ((upto 64).filter n.finOn).foldl (fun a k => a + n.f F.FIN_GRP_HELD_MAX_HELD k) 0)

/-- A release group's relations, while it is enabled (R177, R372). -/
def Dev.stgBad (n : Dev) (r : Nat) : Bool :=
  n.on F.STG_GRP_CFG_EN r && ((upto 1024).filter (n.stgMember r)).any fun e =>
    !n.timedOk e || n.lpiTx e || (!n.on F.STG_GRP_CFG_XPART r && n.portPartition e != n.f F.STG_GRP_CFG_PARTITION r)

def Dev.conflictFin (d n : Dev) (h : RegHit) : Bool :=
  let i := h.i
  match h.reg with
  | .FIN_GRP_CFG =>
    let move := d.finPort i != n.finPort i || d.f F.FIN_GRP_CFG_CLASS i != n.f F.FIN_GRP_CFG_CLASS i
    1028 ≤ n.finPort i || (d.finOn i && n.finOn i && move) ||
      (d.finOn i && !n.finOn i && d.f F.FIN_GRP_HELD_HELD i != 0) || n.finBad i
  | .FIN_GRP_WINDOW =>
    let w := n.f F.FIN_GRP_WINDOW_W_NS i
    w < 40 || 4000 < w || (d.f F.FIN_GRP_WINDOW_W_NS i < w && d.f F.FIN_GRP_HELD_HELD i != 0) || n.finBad i
  | .FIN_GRP_HELD => n.f F.FIN_GRP_HELD_MAX_HELD i == 0 || 16384 < n.f F.FIN_GRP_HELD_MAX_HELD i || n.finBad i
  | .STG_GRP_CFG =>
    (d.on F.STG_GRP_CFG_EN i && !n.on F.STG_GRP_CFG_EN i && d.copyList.any fun c => c.releaseOf == some i && !c.started && c.stage != .discard) ||
      n.stgBad i
  | .STG_GRP_DELAY | .STG_GRP_GUARD | .STG_MEMBERS => n.stgBad i
  | .STG_TRIM =>
    let t := signed 16 (n.f F.STG_TRIM_TRIM i)
    t < -16000 || 16000 < t
  | _ => false

/-! ### ADM_ -/

/-- A bound that the port's mode does not allow (R45, R46, R372). -/
def Dev.boundBad (n : Dev) (i : Nat) : Bool :=
  let e := i / 4
  let b := n.f F.ADM_BOUND_BOUND_NS i
  b != 0 && (!n.timedOk e || b < 148 + n.tx e + n.f F.ADM_CTRL_MARGIN || n.lpiTx e)

/-- The bounds that have been written, by index. -/
def Dev.boundsSet (n : Dev) : List Nat :=
  (n.regs.filter fun p => 0x610000 ≤ p.1 && p.1 < 0x610000 + 4 * 4128).map fun p => (p.1 - 0x610000) / 4

/-- Reservations above the port rate (R53). -/
def Dev.ratesBad (n : Dev) (e : Nat) : Bool := n.rate e < n.sumRate e 4

def Dev.conflictAdm (n : Dev) (h : RegHit) : Bool :=
  match h.reg with
  | .ADM_CTRL => n.boundsSet.any n.boundBad
  | .ADM_BOUND => n.boundBad h.i
  | .ADM_RSV_RATE => n.ratesBad (h.i / 4)
  | .ADM_BE_MTU => n.f F.ADM_BE_MTU_MTU h.i < 64 || 9216 < n.f F.ADM_BE_MTU_MTU h.i
  | _ => false

/-! ### PIPE_ -/

def Dev.conflictPipe (d n : Dev) (h : RegHit) (val : Nat) : Bool :=
  let i := h.i
  let j := h.j
  let timedQ := j % 8 < 4
  match h.reg with
  | .PIPE_PATCH_CTRL => bit val 31 && d.on F.PIPE_PATCH_CTRL_BUSY i
  | .PIPE_SLOW_CFG => n.f F.PIPE_SLOW_CFG_ACTION i j == 3
  | .PIPE_ETYPE => n.f F.PIPE_ETYPE_ACTION i j == 3
  | .PIPE_PORT_CFG =>
    let e := portAt i j
    let was := d.f F.PIPE_PORT_CFG_PARTITION i j
    was != n.f F.PIPE_PORT_CFG_PARTITION i j && e < 1024 &&
      (((upto 64).any fun g => d.finOn g && d.finPort g == e && d.f F.FIN_GRP_CFG_PARTITION g == was) ||
       (upto 256).any fun r => d.on F.STG_GRP_CFG_EN r && d.stgMember r e && d.f F.STG_GRP_CFG_PARTITION r == was)
  | .PIPE_PORT_DEFAULT => d.badPort (d.f F.PIPE_PORT_DEFAULT_DEFAULT_PORT i j) (n.f F.PIPE_PORT_DEFAULT_DEFAULT_PORT i j)
  | .PIPE_PORT_MIRROR => d.badPort (d.f F.PIPE_PORT_MIRROR_MIRROR_PORT i j) (n.f F.PIPE_PORT_MIRROR_MIRROR_PORT i j)
  | .PIPE_QSCHED => if timedQ then val != 0 else n.f F.PIPE_QSCHED_QUANTUM i j == 0
  | .PIPE_QPACER_RATE | .PIPE_QPACER_BURST => timedQ && val != 0
  | .PIPE_ECN_CFG | .PIPE_ECN_THR =>
    if timedQ then val != 0
    else n.on F.PIPE_ECN_CFG_EN i j && n.f F.PIPE_ECN_THR_MAX i j ≤ n.f F.PIPE_ECN_THR_MIN i j
  | .PIPE_PFC_TIMING =>
    n.f F.PIPE_PFC_TIMING_REFRESH i j == 0 || n.f F.PIPE_PFC_TIMING_QUANTA i j < n.f F.PIPE_PFC_TIMING_REFRESH i j
  | .PIPE_PFC_THR_XOFF | .PIPE_PFC_THR_XON => n.f F.PIPE_PFC_THR_XOFF_SECTORS i j < n.f F.PIPE_PFC_THR_XON_SECTORS i j
  | .PIPE_METER_CFG | .PIPE_METER_CIR | .PIPE_METER_PIR =>
    (n.on F.PIPE_METER_CFG_MODE i j && n.f F.PIPE_METER_PIR_RATE i j < n.f F.PIPE_METER_CIR_RATE i j) ||
      n.f F.PIPE_METER_CFG_YELLOW_ACT i j == 3 || n.f F.PIPE_METER_CFG_RED_ACT i j == 3
  | _ => false

/-! ### BUF_, TBL_, HBM_ -/

/-- The blocks of P1 to P4 fit in 960 MiB, and those of P5 in the spill region (R95, R333, R334). -/
def Dev.poolsBad (n : Dev) : Bool :=
  let b := fun k => n.f F.BUF_POOL_CFG_BLOCKS k
  960 * 2 ^ 20 < (upto 4).foldl (fun a k => a + b (k + 1) * poolBlock (k + 1)) 0 || n.f F.HBM_SPILL_CFG_SPILL_GIB * 262144 < b 5

def Dev.conflictBuf (d n : Dev) (h : RegHit) (m val : Nat) : Bool :=
  let i := h.i
  match h.reg with
  | .BUF_TIMED_RESERVE | .BUF_HEADROOM => n.sharedSize < 0
  | .BUF_POOL_CFG => n.poolsBad
  | .BUF_QCFG => n.sharedSize < 0 || 12 ≤ n.f F.BUF_QCFG_ALPHA i || (i % 8 < 4 && n.on F.BUF_QCFG_SPILL_EN i)
  | .BUF_AGE => 1000000 < n.f F.BUF_AGE_LIMIT_US i
  | .TBL_LEARN_CFG => 1000000 < n.f F.TBL_LEARN_CFG_MOVE_DAMP_US
  | .TBL_AGE_CFG => 1 ≤ n.f F.TBL_AGE_CFG_PERIOD_MS && n.f F.TBL_AGE_CFG_PERIOD_MS ≤ 999
  | .TBL_CMD => bits val 31 29 == 6 && 1032 ≤ n.f F.TBL_CMD_INDEX_INDEX 0 0 0 m
  | .TBL_DMA_COUNT => n.f F.TBL_DMA_COUNT_COUNT == 0
  | .TBL_DMA_CFG => n.f F.TBL_DMA_CFG_LOCK_MAX_US == 0
  | .TBL_DMA_CTRL => bit val 31 && (d.on F.TBL_DMA_CTRL_BUSY || d.f F.TBL_DMA_COUNT_COUNT == 0)
  | .HBM_SPILL_CFG => 111 < n.f F.HBM_SPILL_CFG_SPILL_GIB || n.poolsBad
  | .HBM_FLOOR => n.f F.HBM_FLOOR_GBPS < 400 || 2000 < n.f F.HBM_FLOOR_GBPS
  | .HBM_RH_CFG =>
    let s := n.f F.HBM_RH_CFG_SHIFT
    (1 ≤ s && s ≤ 7) || 16 < s
  | .HBM_REQ_CFG => n.f F.HBM_REQ_CFG_TARGET i == 0
  | .HBM_STACK_CFG => n.f F.HBM_STACK_CFG_IDLE_US i == 0
  | _ => false

/-! ### LANE_ and PORT_ -/

/-- Is a lane's modulation NRZ in its port's mode (R360)? -/
def Dev.laneNrz (d : Dev) (l : Nat) : Bool :=
  match d.portOfLane l with
  | some e => d.mode e ≤ 2
  | none => false

/-- Alignment and overlap of a port's lanes against every other configured port (R17, R18). -/
def Dev.lanesBad (n : Dev) (e : Nat) : Bool :=
  let w := modeLanes (n.mode e)
  (w != 0 && e % w != 0) || ((upto 15).any fun k =>
    let x := e + k - 7
    7 ≤ e + k && x != e && x < 1024 && w != 0 && modeLanes (n.mode x) != 0 && x < e + w && e < x + modeLanes (n.mode x))

/-- PORT_CFG (R360, R361, R372). -/
def Dev.portCfgBad (d n : Dev) (e : Nat) : Bool :=
  let c := (d.get .PORT_CFG e).toNat
  let w := (n.get .PORT_CFG e).toNat
  let mode := n.mode e
  let lpi := n.on F.PORT_CFG_LPI_TX_EN e || n.on F.PORT_CFG_LPI_RX_EN e
  let rest := fun x => bits x 30 16
  12 ≤ mode || (n.portEn e && mode == 0) || n.f F.PORT_CFG_MEDIA e == 3 ||
    (d.portEn e && n.portEn e && rest c != rest w) ||
    (mode == 1 && !n.fecOff e) || (3 ≤ mode && n.fecOff e) || n.lanesBad e ||
    ((upto 4).any fun k => n.boundBad (4 * e + k)) || n.ratesBad e ||
    (n.groupPort e && !n.timedOk e) || (lpi && mode != 1 && mode != 2) || (n.lpiTx e && n.groupPort e)

def Dev.tapSum (n : Dev) (l : Nat) : Nat :=
  let mag := fun x => (signed 8 x).natAbs
  mag (n.f F.LANE_TXEQ_POST1 l) + n.f F.LANE_TXEQ_MAIN l + mag (n.f F.LANE_TXEQ_PRE1 l) + mag (n.f F.LANE_TXEQ_PRE2 l)

def Dev.inTraining (d : Dev) (l : Nat) : Bool :=
  match d.portOfLane l with
  | some e => d.portEn e && d.stageOf e == 3
  | none => false

def Dev.conflictPort (d n : Dev) (h : RegHit) (val : Nat) : Bool :=
  let i := h.i
  match h.reg with
  | .LANE_TXEQ => 128 < n.tapSum i || d.inTraining i
  | .LANE_SCAN_CFG =>
    n.f F.LANE_SCAN_CFG_EYE i == 3 || (d.laneNrz i && n.f F.LANE_SCAN_CFG_EYE i != 1) || 20 < n.f F.LANE_SCAN_CFG_DWELL i ||
      (bit val 31 && (d.on F.LANE_SCAN_STAT_BUSY i || !d.on F.LANE_STATUS_CDR_LOCK i))
  | .PORT_CFG => d.portCfgBad n i
  | .PORT_TIMER => n.f F.PORT_TIMER_TRAIN_MS i == 0 || n.f F.PORT_TIMER_LOCK_MS i == 0
  | .PORT_PREEMPT_CFG =>
    n.f F.PORT_PREEMPT_CFG_MODE i == 3 || n.f F.PORT_PREEMPT_CFG_VERIFY_MS i == 0 ||
      128 < n.f F.PORT_PREEMPT_CFG_VERIFY_MS i || n.f F.PORT_PREEMPT_CFG_VERIFY_LIMIT i == 0
  | .PORT_LPI_CFG => n.f F.PORT_LPI_CFG_HOLD_US i == 0
  | _ => false

/-! ### IVL_ and TEL_ -/

def Dev.ivlServoBad (n : Dev) : Bool :=
  n.on F.IVL_TIME_CFG_SERVO_EN &&
    (!n.on F.IVL_PORT_CFG_FOLLOW (n.f F.IVL_TIME_CFG_SERVO_PORT) ||
      (upto 4).any fun i => n.on F.TIME_PTP_DOM_EN i && n.on F.TIME_PTP_DOM_SERVO i)

def Dev.conflictIvl (d n : Dev) (h : RegHit) : Bool :=
  let i := h.i
  match h.reg with
  | .IVL_CTRL => n.f F.IVL_CTRL_ENV_HOPS == 0 || n.f F.IVL_CTRL_VER_MASK == 0
  | .IVL_DEVNUM => n.f F.IVL_DEVNUM_DEVNUM == 0x3FFFF
  | .IVL_ETH_CFG => etypeTaken (n.f F.IVL_ETH_CFG_ETYPE) (n.f F.EV_TAG_CFG_ETYPE)
  | .IVL_TIME_CFG => n.ivlServoBad
  | .IVL_ROUTE_LO | .IVL_ROUTE_HI => n.f F.IVL_ROUTE_HI_HIGH i < n.f F.IVL_ROUTE_LO_LOW i
  | .IVL_PORT_CFG =>
    let p := n.f F.IVL_PORT_CFG_ETH_PORT i
    n.f F.IVL_PORT_CFG_HOLD_US i == 0 || 1024 ≤ p ||
      (n.on F.IVL_PORT_CFG_CARRIER i && !n.configured p &&
        (p != d.f F.IVL_PORT_CFG_ETH_PORT i || !d.on F.IVL_PORT_CFG_CARRIER i)) || n.ivlServoBad
  | _ => false

/-- CHAIN = 1 on counter 0, or a run of more than three chained counters (R514). -/
def Dev.chainBad (n : Dev) (k : Nat) : Bool :=
  let c := fun j => decide (j < 1024) && n.on F.TEL_PC_CFG_CHAIN j
  c 0 || (upto 4).any fun a => 3 ≤ k + a && (upto 4).all fun b => c (k + a - 3 + b)

def Dev.conflictTel (d n : Dev) (h : RegHit) (val : Nat) : Bool :=
  let i := h.i
  match h.reg with
  | .TEL_RING_CFG =>
    n.f F.TEL_RING_CFG_BLOCKS == 0 || 4096 < n.f F.TEL_RING_CFG_BLOCKS ||
      d.ringOn
  | .TEL_RING_RELPOS => n.q .TEL_RING_RELPOS < d.q .TEL_RING_RELPOS || d.q .TEL_RING_WRPOS < n.q .TEL_RING_RELPOS
  | .TEL_PC_CLEAR => bit val 31 && d.on F.TEL_PC_CFG_CHAIN (bits val 9 0)
  | .TEL_PORT_TRACE => 24 < n.f F.TEL_PORT_TRACE_SHIFT i
  | .TEL_PC_CFG =>
    -- An INDEX directs no traffic, so it may name any port of R3, the reserved ones too (R4, R513; assumption 123, DEDUCED).
    let sel := n.f F.TEL_PC_CFG_SEL i
    let x := n.f F.TEL_PC_CFG_INDEX i
    11 ≤ sel || (1 ≤ sel && sel ≤ 8 && (1032 ≤ x ||
        ((x != d.f F.TEL_PC_CFG_INDEX i || sel != d.f F.TEL_PC_CFG_SEL i) && !n.namesPort x))) ||
      (sel == 9 && 4 ≤ x) || (sel == 10 && 8 ≤ x) || n.chainBad i
  | _ => false

/-- Does the write return CONFLICT? -/
def Dev.conflicts (d n : Dev) (h : RegHit) (m val : Nat) : Bool :=
  d.conflictCtl n h val || d.conflictPwr n h || d.conflictTime n h m val || d.conflictEv n h val || d.conflictFin n h ||
    n.conflictAdm h || d.conflictPipe n h val || d.conflictBuf n h m val || d.conflictPort n h val || d.conflictIvl n h ||
    d.conflictTel n h val

end Sys2Proof.Machine
end

