-- ==== Sys2Proof/Machine/Access.lean ====
section
/-! DEFINITION. A register access of a master: its checks in their order (R8, R28, R452, R549, R3), what a write stores
(R9, R10, R15), what it starts, and what a read returns and does. -/

namespace Sys2Proof.Machine

/-- The `i`-th choice of a command, or a fresh free value where it gives none (assumption 5, DESIGN CHOICE). -/
def Dev.choice (d : Dev) (aux : List Nat) (i : Nat) : Nat × Dev :=
  match aux[i]? with
  | some x => (x, d)
  | none => d.draw

/-! ### What a write stores -/

/-- The bits of a number outside a mask. -/
def clr (x mask : Nat) : Nat := x - (x &&& mask)

/-- The bits a write replaces, and those it clears by ones, of one instance (R9, R10 and the exceptions of its table). "k = 0 is
read-only and fixed" (R110) is read of the six pools of BUF_POOL_CFG: BUF_QUOTA is writable at every position of a requester
(assumption 161, DEDUCED). -/
def Dev.writeMasks (d : Dev) (h : RegHit) : Nat × Nat :=
  let w := h.reg.row
  let rw := if d.on F.CTL_LOCK_LOCK then w.rw else w.rw ||| w.rwl
  if portReg h.reg && !d.configured h.i then (0, 0) else
  match h.reg with
  | .EV_SESS_DATA => (if h.i < 8 then rw else 0, 0)
  | .TBL_SEED => (if 3 ≤ h.i && h.i ≤ 5 then 0 else rw, 0)
  | .BUF_POOL_CFG => (if h.i == 0 then 0 else rw, 0)
  | .BUF_QUOTA => (if 25 ≤ h.i then 0 else rw, 0)
  | .PIPE_TRAP_CFG => (if h.j == 10 then clr rw (2 ^ 31) else rw, 0)
  | _ => (rw, w.w1c)

/-- The value a 32-bit register holds after a write. -/
def Dev.newWord (d : Dev) (h : RegHit) (m : Nat) (val : Nat) : Nat :=
  let cur := (d.get h.reg h.i h.j h.k m).toNat
  let k := d.writeMasks h
  clr (clr cur k.1 ||| (val &&& k.1)) (val &&& k.2)

/-! ### What a write starts -/

/-- TEL_CTRL: the write that sets the first enable allocates the ring's blocks (R511); none where they cannot be had. -/
def Dev.ringAlloc (n pick : Nat) (d : Dev) : Option Dev :=
  match n with
  | 0 => some d
  | k + 1 =>
    match d.take 23 3 pick with
    | some (i, d) => Dev.ringAlloc k pick { d with tel := { d.tel with blocks := d.tel.blocks ++ [i] } }
    | none => none

/-- The ring after a write of TEL_CTRL; none where the write is a conflict. -/
def Dev.telCtrl (d n : Dev) (pick : Nat) : Option Dev :=
  if n.ringOn && !d.ringOn && d.tel.blocks.isEmpty then
    Dev.ringAlloc (n.f F.TEL_RING_CFG_BLOCKS) pick ((n.setQ .TEL_RING_WRPOS 0).setQ .TEL_RING_RELPOS 0)
  else some n.ringSettle

/-- Set a reservation's bucket after a change of ρ or β (R53). -/
def Dev.rsvReset (d : Dev) (e c : Nat) : Dev :=
  d.setRsv e c (if d.on F.ADM_POLICY_RSV_RESET (4 * e + c) then d.rsvBurst e c * 64000 else 0)

/-- Set a Pacer's bucket after a change of RATE, SCALE or BURST (R311). -/
def Dev.pacerReset (d : Dev) (port : Bool) (p i : Nat) : Dev :=
  if port then
    let t : Int := if d.on F.PIPE_PPACER_RATE_RESET p i then d.f F.PIPE_PPACER_BURST_BURST p i * pacerUnit else 0
    { d with egr := { d.egr with portPacers := SMap.set d.egr.portPacers (p * 128 + i) ⟨t, d.el8⟩ } }
  else
    let t : Int := if d.on F.PIPE_QPACER_RATE_RESET p i then d.f F.PIPE_QPACER_BURST_BURST p i * pacerUnit else 0
    { d with egr := { d.egr with pacers := SMap.set d.egr.pacers (p * 1024 + i) ⟨t, d.el8⟩ } }

/-- A write to any meter field sets every bucket of the meter full (R313): a bucket not held is full. -/
def Dev.meterFull (d : Dev) (m : Nat) : Dev :=
  { d with egr := { d.egr with meters := SMap.erase (SMap.erase d.egr.meters (2 * m)) (2 * m + 1) } }

/-- A pin was written: ARM arms it, and a new mode drops an armed time (assumption 32, DESIGN CHOICE). -/
def Dev.pinWritten (d : Dev) (n old val : Nat) : Dev :=
  let d := if F.TIME_PIN_CFG_MODE.ext old == d.pinMode n then d
    else { d with time := { d.time with pins := SMap.erase d.time.pins n } }.setF F.TIME_PIN_CFG_STATUS 0 n
  if bit val 24 then d.pinArm n else d

/-- PORT_CFG: a cleared EN takes the port down in the configuration it was up in; a set EN starts bring-up in the new. -/
def Dev.portWritten (d : Dev) (e new : Nat) : Dev :=
  let was := d.portEn e
  let d := if was && !bit new 31 then (d.setF F.PORT_CFG_EN 0 e).portCfgWritten e true else d
  let d := d.set .PORT_CFG (word new) e
  if was then d else d.portCfgWritten e false

/-- A stream's EN or ACK_MODE was written (R211, R212). A slot is released once sent while ACK_MODE is 0, those sent before too. -/
def Dev.streamWritten (d : Dev) (k : Nat) (was : Bool) : Dev :=
  let now := d.on F.EV_STR_CFG_EN k
  let d := d.when_ (was && now && !d.on F.EV_STR_CFG_ACK_MODE k) fun d =>
    d.setQ .EV_PART_RELPOS (max (d.q .EV_PART_RELPOS k) (d.q .EV_STR_SENDPOS k)) k
  if was && !now then d.setQ .EV_PART_RELPOS (d.q .EV_PART_WRPOS k) k
  else if !was && now then d.setQ .EV_STR_SENDPOS (max (d.q .EV_STR_SENDPOS k) (d.q .EV_PART_RELPOS k)) k
  else d

/-- A write of a pool's size moves its free count with it (R95). -/
def Dev.poolMoved (d : Dev) (k old : Nat) : Dev :=
  d.setF F.BUF_POOL_FREE_FREE (d.f F.BUF_POOL_FREE_FREE k + d.f F.BUF_POOL_CFG_BLOCKS k - F.BUF_POOL_CFG_BLOCKS.ext old) k

/-- EV_SESS_CMD (R197). -/
def Dev.sessCommand (d : Dev) (m op : Nat) : Dev :=
  match op with
  | 1 => d.sessRead m
  | 2 => d.sessWrite m
  | 3 => d.sessClear m
  | _ => d

/-- An alarm's CFG was written: EN = 1 arms it, EN = 0 releases it (R154). -/
def Dev.alarmWritten (d : Dev) (m a val : Nat) : Dev := if bit val 31 then d.alarmArm m a else d.alarmRelease a

/-- FLUSH of a TX timestamp queue (R148). -/
def Dev.txqFlush (d : Dev) (p : Nat) : Dev := d.setTxq p []

/-- The block an allocation register frees (R98, R113). -/
def Dev.freeWritten (d : Dev) (m val off : Nat) : Dev := d.freeBlock m (bits val 28 26) (bits val 25 0) off

/-- CTL_FW_CONFIRM (R440, R441): RUNNING_ACK, then CONFIRM. -/
def Dev.confirmWritten (d : Dev) (val : Nat) : Dev :=
  let d := if bit val 0 then d.runningAck else d
  if bit val 1 then d.fwConfirm else d

/-- FIN_GRP_WINDOW: the W of held copies in the cell time of the write is the one of its start (R176). -/
def Dev.windowWritten (d o : Dev) (g : Nat) : Dev :=
  { d with hold := { d.hold with windowOld := SMap.set d.hold.windowOld g (o.windowNs g, d.cell) } }

/-- What a write starts in the device: `d` holds the new value, `o` is the device before, `old` the old value; `off` is the BAR0
offset of the request. -/
def Dev.afterWrite (o d : Dev) (mem : Mem) (m : Nat) (h : RegHit) (off old val : Nat) (aux : List Nat) : Dev :=
  let i := h.i
  let j := h.j
  let x := d.choice aux 0
  match h.reg with
  | .ID_BOOT_CTRL => if bit val 31 && d.onHold then d.endHold else d
  | .ID_SPI_CMD => if bit val 31 then d.spiGo else d
  | .ID_HEAT_CTRL => d.heatOp (bits val 31 29)
  | .CTL_THAW => d.thaw (bits val 5 0)
  | .CTL_MASTER_RESET => if isHostFn (bits val 5 0) then d.masterReset (bits val 5 0) else d
  | .CTL_FW_CTRL => if bit val 31 then d.fwGo else d
  | .CTL_FW_CONFIRM => d.confirmWritten val
  | .CTL_CP_CTRL => d.cpRestarts (bits val 3 0)
  | .MB_BIND => if (d.get .MB_BIND i).toNat == old then d else d.mbPurge i
  | .SPD_BANK_CFG => d.bankCfgWritten i old
  | .PWR_CAP | .PWR_BMC_CAP | .PWR_CAP_CFG => d.syncCap
  | .PWR_HINT_PUSH =>
    let d := if bit val 30 then d.hintFlush else d
    if bit val 31 then d.hintPush else d
  | .PWR_DOM_CMD => d.domCommand i (d.f F.PWR_DOM_CMD_STATE i)
  | .PWR_PIPE_CFG => if d.pwr.hints.any fun x => bit x.pipes i then d else d.retarget i
  | .TIME_CTRL => d.stateReq (bits val 31 30)
  | .TIME_STEP_CTRL => let x := if bit val 30 then x else (0, d); x.2.stepCtrl m val off x.1
  | .TIME_SLEW => d.slewWrite val
  | .TIME_SLEW_RATE => d.slewRateWrite (d.f F.TIME_SLEW_RATE_PPB)
  | .TIME_ERR_BASE => d.errBaseWritten
  | .TIME_HOLD_CFG => d.errOver
  | .TIME_PIN_CFG => d.pinWritten i old val
  | .TIME_ALARM_CFG => d.alarmWritten m i val
  | .TIME_TXQ_CTRL => if bit val 31 then d.txqFlush i else d
  | .EV_CTRL =>
    let was := bit old 0
    let now := d.on F.EV_CTRL_EN
    if was == now then d else if now then x.2.evEnable x.1 else x.2.evDisable x.1
  | .EV_ATTEST_CTRL => if bit val 31 then d.attestGo m else d
  | .EV_SESS_CMD => d.sessCommand m (bits val 1 0)
  | .EV_STR_CFG => d.streamWritten i (bit old 31)
  | .ADM_RSV_RATE | .ADM_RSV_BURST => if (d.get h.reg i).toNat == old then d else d.rsvReset (i / 4) (i % 4)
  | .ADM_BE_MTU =>
    { d with adm := { d.adm with mtuOld := SMap.set d.adm.mtuOld i (d.slowWrite (SMap.get d.adm.mtuOld i []) (word old)) } }
  | .FIN_GRP_WINDOW => d.windowWritten o i
  | .PIPE_PATCH_CTRL => if bit val 31 then d.patchGo mem m i else d
  | .PIPE_QPACER_RATE | .PIPE_QPACER_BURST =>
    if clr (d.get h.reg i j).toNat (2 ^ 31) == clr old (2 ^ 31) then d else d.pacerReset false i j
  | .PIPE_PPACER_RATE | .PIPE_PPACER_BURST =>
    if clr (d.get h.reg i j).toNat (2 ^ 31) == clr old (2 ^ 31) then d else d.pacerReset true i j
  | .PIPE_METER_CFG | .PIPE_METER_CIR | .PIPE_METER_PIR | .PIPE_METER_CBS | .PIPE_METER_EBS_PBS | .PIPE_METER_DSCP =>
    d.meterFull (i * 4096 + j)
  | .BUF_TIMED_RESERVE | .BUF_HEADROOM | .BUF_QCFG => d.sharedMoved o
  | .BUF_ALLOC_REQ => x.2.allocReq m (d.f F.BUF_ALLOC_REQ_SIZE 0 0 0 m) x.1
  | .BUF_FREE => d.freeWritten m val off
  | .BUF_POOL_CFG => d.poolMoved i old
  | .HBM_FLOOR => { d with hbm := { d.hbm with floor := o.floorNow } }
  | .HBM_REQ_CFG => d.countUrgent
  | .TBL_CMD => d.tblCommand mem m (bits val 31 29)
  | .TBL_DMA_CTRL => if bit val 31 then d.dmaGo mem m else d
  | .LANE_SCAN_CFG =>
    if bit val 31 then d.scanStart i
    else if bit val 30 then
      let e := d.choice aux 0
      let c := e.2.choice aux 1
      c.2.scanStop i e.1 c.1
    else d
  | .LANE_CFG => d.laneCfgWritten i
  | .PORT_PREEMPT_CFG => d.preemptCfgWritten i
  | .IVL_CTRL => d.each (upto 4) Dev.ivlCfgWritten
  | .IVL_PORT_CFG => d.ivlCfgWritten i
  | .TEL_SNAP => if bit val 31 then d.telSnap else d
  | .TEL_PC_CLEAR => if bit val 31 then d.pcClear (bits val 9 0) else d
  | .TEL_DESC_SEL => d.descSel m (d.f F.TEL_DESC_SEL_INDEX 0 0 0 m)
  | .TEL_HIST_CFG => if bit val 31 || (d.get .TEL_HIST_CFG i).toNat != old then d.histClear i else d
  | _ => d

/-! ### A write -/

/-- Words of a register block that are not one stored register: Batons and mailboxes. The answer is none for every other
register. -/
def Dev.writeSpecial (d : Dev) (m : Nat) (h : RegHit) (off : Nat) (val : Word) : Option Dev :=
  let side := (d.mbSide h.i m).getD true
  match h.reg with
  | .BAT => some (d.batonWrite m h.i val.toNat off)
  | .MB_STAT => some ((d.mbStatWrite h.i side val.toNat).done m .ok)
  | .MB_DOORBELL => some ((d.mbDoorbell m h.i side (bits val.toNat 3 0) off).done m .ok)
  | .MB_DATA => some ((d.mbWrite h.i side h.j val).done m .ok)
  | _ => none

/-- A write of ADM_PIPE_DERATE: while PWC holds the register, a value of H0 or a CP is remembered and the write is a
conflict (R62, R484). -/
def Dev.derateWritten (d : Dev) (m p : Nat) (new : Nat) : Dev :=
  let old := SMap.get d.pwr.wrote p []
  let d := if m == mH0 || isCp m then
      { d with pwr := { d.pwr with wrote := SMap.set d.pwr.wrote p ((m, word new) :: old.filter fun x => x.1 != m) } } else d
  if d.pwcHolds p && m != 0x22 then { d with pwr := { d.pwr with request := SMap.set d.pwr.request p (word new) } }.done m .conflict
  else (d.writeDerate p (word new)).done m .ok

/-- The power state of a bank that leaves OFF zero-fills it; a device reset empties both memories. -/
def memAfterWrite (mem : Mem) (h : RegHit) (old new : Nat) : Mem :=
  if h.reg == .SPD_BANK_CFG then bankContents mem h.i old new else mem

/-- The status of a write that has acted: CONFLICT where EV_SESS_CMD turned its command away (R197, assumption 36, DEDUCED),
or where a command of the table engine found no Heat STAGING (R253). -/
def Dev.actedStatus (d : Dev) (m : Nat) (h : RegHit) (val : Nat) : Status :=
  if (h.reg == .EV_SESS_CMD && d.f F.EV_SESS_CMD_STATUS 0 0 0 m == 1) ||
    (h.reg == .TBL_CMD && 1 ≤ bits val 31 29 && bits val 31 29 ≤ 6 && d.f F.TBL_CMD_STATUS_STATUS 0 0 0 m == stNOHEAT) then .conflict else .ok

/-- A write of a 32-bit register, rights and form in order: R549, the conflicts of R3, the new value, and what it starts. -/
def writeWord (mem : Mem) (d : Dev) (m : Nat) (h : RegHit) (off : Nat) (val : Word) (aux : List Nat) : Mem × Dev :=
  let v := val.toNat
  let who := if d.boot.applying && h.reg == .TIME_ALARM_CFG then mCP0 else m
  let old := (d.get h.reg h.i h.j h.k m).toNat
  let new := d.newWord h m v
  if d.fieldForbidden m h (new ||| (v &&& h.reg.row.wo)) then (mem, d.violate m true off)
  else match d.writeSpecial m h off val with
  | some d => (mem, d)
  | none =>
    let n := d.set h.reg (word new) h.i h.j h.k m
    if d.conflicts n h (if d.boot.applying then mCP0 else m) v then (mem, d.done m .conflict)
    else match h.reg with
    | .ADM_PIPE_DERATE => (mem, d.derateWritten m h.i new)
    | .PORT_CFG => (mem, (d.portWritten h.i new).done m .ok)
    | .ID_RESET => if v == 0xC01DB007 then let r := resetAll d false; (r.1, r.2.done m .ok) else (mem, d.done m .ok)
    | .TEL_CTRL =>
      let x := d.choice aux 0
      match d.telCtrl n x.1 with
      | some n => (mem, { n with draws := if aux.isEmpty then x.2.draws else n.draws }.done m .ok)
      | none => (mem, d.done m .conflict)
    | _ =>
      let x := Dev.afterWrite d n mem who h off old v aux
      (memAfterWrite mem h old new, x.done m (x.actedStatus m h v))

/-- A write of one word of a 64-bit quantity (R15). -/
def writeWide (mem : Mem) (d : Dev) (m : Nat) (h : RegHit) (val : Word) : Mem × Dev :=
  let key := h.reg.off h.i h.j h.k
  let rw := (d.writeMasks h).1
  if !h.high then
    (mem, { d with ctl := { d.ctl with pendLow := SMap.set d.ctl.pendLow m (key, val) } }.done m .ok)
  else
    let pend := (SMap.find? d.ctl.pendLow m).filter fun p => p.1 == key
    let low := match pend with
      | some p => p.2.toNat
      | none => d.q h.reg h.i h.j h.k m % 2 ^ 32
    let d := if pend.isSome then { d with ctl := { d.ctl with pendLow := SMap.erase d.ctl.pendLow m } } else d
    let n := d.setQ h.reg (val.toNat * 2 ^ 32 + low) h.i h.j h.k m
    if rw == 0 then (mem, d.done m .ok)
    else if d.conflicts n h m 0 then (mem, d.done m .conflict)
    else (mem, n.done m .ok)

/-- A malformed access within the master's rights (R8). -/
def Dev.malformed (d : Dev) (m : Nat) (write : Bool) (off : Nat) : Dev := (d.logViolation 2 m false write off 0).done m .unsupported

/-- A master whose requests complete with the error of R28: it is frozen, or a halted control processor. -/
def Dev.turnedAway (d : Dev) (m : Nat) : Bool := d.frozen m || (isCp m && bit (d.f F.CTL_CP_CTRL_HALTED) (m - mCP0))

/-- The checks an access passes before it acts: what turns it away, if anything (R28, R452, R8). -/
def Dev.checkAccess (d : Dev) (m : Nat) (write : Option Nat) (off width : Nat) : Option Dev :=
  if d.turnedAway m then some (d.done m .aborted)
  else if !d.bootAllows m write.isSome (if isHostFn m then 0x0C000000 else unalias (off - off % 4)) then some (d.done m .unsupported)
  else if !d.within m write off then some (d.violate m write.isSome off)
  else if width != 4 || off % 4 != 0 then some (d.malformed m write.isSome off)
  else none

/-- Is this an identity that makes requests of its own (R26, R27)? -/
def issues (m : Nat) : Bool := masterExists m && !isDma m

/-- A register or scratchpad write at a BAR0 offset (REGISTER_WRITE and the writes of every chapter). -/
def regWrite (mem : Mem) (d : Dev) (m off width : Nat) (val : Word) (aux : List Nat) : Mem × Dev :=
  if !issues m then (mem, d) else
  match d.checkAccess m (some val.toNat) off width with
  | some d => (mem, d)
  | none =>
    let o := unalias off
    if inSpd o then spdAccess mem d m o (some val) 0
    else match lookupReg o with
    | none => (mem, d.done m .ok)
    | some h => if h.reg.row.wide then writeWide mem d m h val else writeWord mem d m h off val aux

/-! ### A read -/

/-- Latch the high word of a 64-bit quantity for a master (R15): one shadow for each master and quantity, so that a read of
another quantity's low word leaves it (assumption 122, DESIGN CHOICE). -/
def Dev.latchHigh (d : Dev) (m key : Nat) (v : Nat) : Dev :=
  { d with ctl := { d.ctl with shadow := SMap.set d.ctl.shadow (m * 2 ^ 28 + key) (word (v / 2 ^ 32)) } }

/-- The high word for a master: its shadow, used once, or the live word (R15). -/
def Dev.readHigh (d : Dev) (m key : Nat) (v : Nat) : Dev × Nat :=
  match SMap.find? d.ctl.shadow (m * 2 ^ 28 + key) with
  | some w => ({ d with ctl := { d.ctl with shadow := SMap.erase d.ctl.shadow (m * 2 ^ 28 + key) } }, w.toNat)
  | none => (d, v / 2 ^ 32)

/-- A read of one word of a 64-bit quantity. -/
def Dev.readWide (d : Dev) (m : Nat) (h : RegHit) : Dev × Nat :=
  let v := d.shownQ h m
  let key := h.reg.off h.i h.j h.k
  if h.high then d.readHigh m key v else (d.latchHigh m key v, v % 2 ^ 32)

/-- Clear the bits a read clears (R13). -/
def Dev.clearRc (d : Dev) (h : RegHit) (m : Nat) : Dev :=
  let rc := h.reg.row.rc
  if rc == 0 then d
  else
    let cur := (d.get h.reg h.i h.j h.k m).toNat
    if cur &&& rc == 0 then d else d.set h.reg (word (clr cur rc)) h.i h.j h.k m

/-- A read of a 32-bit register: the value, and what the read does. -/
def Dev.readWord (d : Dev) (mem : Mem) (m : Nat) (h : RegHit) : Dev × Nat :=
  let i := h.i
  let side := (d.mbSide i m).getD true
  match h.reg with
  | .TIME_NOW_NS => (d.latchNow m, d.shown h m)
  | .TIME_TXQ_POP_LO => d.txqPop m i
  | .TIME_PIN_CAP_NS => d.capPop m i
  | .BAT => if m == mBMC then (d, d.batonValue i) else d.batonTake m i
  | .MB_STAT => if (d.mbSide i m).isSome then d.mbStatRead i side else (d, 0)
  | .MB_DATA => if (d.mbSide i m).isSome then d.mbRead i side h.j else (d, 0)
  | .CTL_VLOG_POP0 =>
    let r := d.popWords d.ctl.vlog .CTL_VLOG_POP m 4 0
    ({ r.2.1 with ctl := { r.2.1.ctl with vlog := r.1 } }, r.2.2.toNat)
  | .TBL_NOTICE_POP0 =>
    let r := d.popWords d.tbl.notices .TBL_NOTICE_POP m 4 0
    ({ r.2.1 with tbl := { r.2.1.tbl with notices := r.1 } }, r.2.2.toNat)
  | .TBL_ERR_POP0 =>
    let r := d.popWords d.tbl.errors .TBL_ERR_POP m 4 0
    ({ r.2.1 with tbl := { r.2.1.tbl with errors := r.1 } }, r.2.2.toNat)
  | .HBM_ERR_POP0 => d.hbmErrPop m
  | .PWR_EVT_POP0 => d.pwrPop m
  | .IVL_ENV_POP0 => d.envPop m
  | .IVL_TT_POP0 => d.ttPop m i
  | .TEL_RING_RD_DATA0 => d.ringRead mem m
  | .TEL_PC => d.pcRead m i
  | .BUF_ALLOC_RESP =>
    (d, if (SMap.find? d.regs (regKey .BUF_ALLOC_RESP 0 0 0 m)).isSome then d.shown h m else 7 * 2 ^ 29)
  | _ => (d.clearRc h m, d.shown h m)

/-- How a read of a register completes: with an error where HBM has none of what it asks for (R349). -/
def Dev.readStatus (d : Dev) (m : Nat) (h : RegHit) : Status := if h.reg == .TEL_RING_RD_DATA0 && d.ringFails m then .unsupported else .ok

/-- A register or scratchpad read at a BAR0 offset. -/
def regRead (mem : Mem) (d : Dev) (m off width : Nat) : Mem × Dev :=
  if !issues m then (mem, d) else
  match d.checkAccess m none off width with
  | some d => (mem, d)
  | none =>
    let o := unalias off
    if inSpd o then spdAccess mem d m o none 0
    else match lookupReg o with
    | none => (mem, d.done m .ok)
    | some h =>
      let r := if h.reg.row.wide then d.readWide m h else d.readWord mem m h
      (mem, r.1.done m (d.readStatus m h) r.2)

end Sys2Proof.Machine
end

