-- ==== Sys2Proof/Machine/Fabric.lean ====
section
/-! DEFINITION. What an Ivgon message does when it arrives (R389, R390, R392, R393), the register requests of a remote master
(R404, R405), and the two management commands of the BMC (R536). -/

namespace Sys2Proof.Machine

/-! ### Register requests (R404) -/

/-- How a word of a request ended: done with its data, or refused with the reason of R405 (none: no code is stated). -/
inductive WordEnd where
  | ok (conflict : Bool) (data : Nat)
  | fail (reason : Option Nat)
  deriving DecidableEq, Repr

/-- One word of a request of master IVLk, as a register access. -/
def ivlWord (mem : Mem) (d : Dev) (m off : Nat) (write : Option Word) : Mem × Dev × WordEnd :=
  let r := match write with
    | none => regRead mem d m off 4
    | some v => regWrite mem d m off 4 v []
  match r.2.last.getLast? with
  | none => (r.1, r.2, .fail none)
  | some c =>
    match c.status with
    | .ok => (r.1, r.2, .ok false c.data)
    | .conflict => (r.1, r.2, .ok true 0)
    | .aborted => (r.1, r.2, .fail (some 1))
    | .unsupported => (r.1, r.2, .fail (some 3))
    | .notOn | .pcie => (r.1, r.2, .fail none)

/-- The words of a request in address order, until one fails: the failing word and its reason, or the data read and
whether a write was a conflict. -/
def ivlWords (mem : Mem) (d : Dev) (m : Nat) : List (Nat × Nat × Option Word) → Mem × Dev × ((Nat × Option Nat) ⊕ (Bool × List Byte))
  | [] => (mem, d, .inr (false, []))
  | (i, off, w) :: rest =>
    match ivlWord mem d m off w with
    | (mem, d, .fail r) => (mem, d, .inl (i, r))
    | (mem, d, .ok c v) =>
      match ivlWords mem d m rest with
      | (mem, d, .inl x) => (mem, d, .inl x)
      | (mem, d, .inr (c', bs)) => (mem, d, .inr (c || c', (if w.isSome then [] else be 4 v) ++ bs))

/-- REG_READ and REG_WRITE at their destination. The response's hop limit, and the status of a write that returned
CONFLICT, are free values (assumption 33, DESIGN CHOICE). -/
def ivlRegs (mem : Mem) (d : Dev) (k : Nat) (msg : IvlMsg) : Mem × Dev :=
  let m := mIVL0 + k
  let off := beAt msg.body 4 4
  let n := beAt msg.body 8 2
  let wr := msg.typ == 2
  if !d.serving then (mem, d.ivlRefuse 3 msg 0)
  else if d.frozen m then (mem, d.ivlNak k 2 msg 0)
  else
    match ivlWords mem d m ((upto n).map fun i =>
        (i, off + 4 * i, if wr then some (word (beAt msg.body (12 + 4 * i) 4)) else none)) with
    | (mem, d, .inl (i, r)) =>
      let f := d.draw
      let d := if r.isNone then f.2 else d
      (mem, d.ivlNak k (r.getD (f.1 % 256)) msg i)
    | (mem, d, .inr (c, bs)) =>
      let h := d.draw
      let s := h.2.draw
      let d := if c then s.2 else h.2
      (mem, d.ivlOriginate msg.src 2 3 (h.1 % 256) (be 4 (regTag msg) ++ be 1 (if c then s.1 % 256 else 0) ++ be 7 0 ++ bs))

/-! ### Consuming a message -/

/-- A notice or ECHO addressed to every device, seen for the first time or not (R393). `eth` names the Ethernet port of a
frame; `k` the logical port of arrival, if it has one. -/
def Dev.ivlBroadcast (d : Dev) (k : Option Nat) (arrival : Nat) (eth : Bool) (msg : IvlMsg) : Dev :=
  if d.ivlSeen msg.src msg.seq then d
  else
    let d := d.ivlRemember msg.src msg.seq
    let d := if msg.cls == 3 then d.envReceived arrival eth msg
      else let h := d.draw; h.2.ivlOriginate msg.src 2 6 (h.1 % 256) msg.body
    d.ivlFlood k msg

/-- A message for this device, by its type. -/
def ivlConsume (mem : Mem) (d : Dev) (k path8 turn8 : Nat) (msg : IvlMsg) : Mem × Dev :=
  match msg.cls, msg.typ with
  | 1, 1 => (mem, d.ttReq k path8 turn8 msg.body)
  | 1, 2 => (mem, d.ttResp k path8 msg.body)
  | 2, 1 | 2, 2 => ivlRegs mem d k msg
  | 2, 4 => (mem, d.ivlBump k 5)
  | 2, 5 => (mem, let h := d.draw; h.2.ivlOriginate msg.src 2 6 (h.1 % 256) msg.body)
  | 4, 1 => (mem, d.versionReceived k msg.body)
  | _, _ => (mem, d)

/-- A well-formed message on logical port `k`: consumed, broadcast or forwarded (R388, R392, R393). -/
def ivlAccept (mem : Mem) (d : Dev) (k arrival : Nat) (eth : Bool) (path8 turn8 : Nat) (msg : IvlMsg) : Mem × Dev :=
  if msg.cls == 1 || msg.cls == 4 then ivlConsume mem d k path8 turn8 msg
  else if msg.dst == broadcast then
    if msg.cls == 3 || (msg.cls == 2 && msg.typ == 5) then (mem, d.ivlBroadcast (some k) arrival eth msg)
    else (mem, d.ivlNak k 6 msg 0)
  else if msg.cls == 3 then (mem, d)
  else if msg.dst == d.devNum then ivlConsume mem d k path8 turn8 msg
  else (mem, d.ivlForward k msg)

/-- Is a message one of a type, in the form R388 gives it, on a logical port that takes that type now? -/
def Dev.ivlTakes (d : Dev) (k cls typ : Nat) (msg : IvlMsg) : Bool :=
  msg.cls == cls && msg.typ == typ && bodyOk msg msg.body.length &&
    (if cls == 4 then d.ivlInStage k 4 || d.ivlInStage k 5 else d.ivlInStage k 5 && decide (typeVersion cls typ ≤ d.ivlVersion k))

/-! ### Reception (R389, R390) -/

/-- A message with a good CRC on logical port `k`, whose body is `n` bytes by its header: it is counted, checked under R389, and
has its effect. A port in stage 4 has no agreed version, so that every type of another class lies above it. -/
def ivlChecked (mem : Mem) (d : Dev) (k arrival : Nat) (eth : Bool) (path8 turn8 : Nat) (msg : IvlMsg) (n : Nat) : Mem × Dev :=
  let d := d.ivlBump k 1
  let v := typeVersion msg.cls msg.typ
  if v == 0 || (msg.cls != 4 && (d.ivlInStage k 4 || d.ivlVersion k < v)) then (mem, d.ivlBump k 3)
  else if !bodyOk msg n then (mem, if msg.cls == 2 then d.ivlNak k 3 msg 0 else d.logViolation 8 mNone false false (2 ^ 31 + k) 3)
  else ivlAccept mem d k arrival eth path8 turn8 msg

/-- The bytes of a message on logical port `k`. The time a neighbour's TT_REQ waits for its answer is a free value within the
device's limit (R396). -/
def ivlReceive (mem : Mem) (d : Dev) (k arrival : Nat) (eth : Bool) (bs : List Byte) (path8 : Nat) : Mem × Dev :=
  let n := beAt bs 10 2
  let msg := ivlParse bs
  if bs.length < 20 + n || crc32Field (bs.take (16 + n)) != slice bs (16 + n) 4 then (mem, d.ivlBump k 2)
  else
    let t := d.draw
    let tt := msg.cls == 1 && msg.typ == 1 && bodyOk msg n
    ivlChecked mem (if tt then t.2 else d) k arrival eth path8 (if tt then t.1 % 16001 else 0) msg n

/-- One message of a type, with a good CRC, on a logical port in stage 4 or 5 (the rows VERSION to ENV_LIFT). -/
def ivlTyped (mem : Mem) (d : Dev) (k cls typ : Nat) (msg : IvlMsg) (path8 turn8 : Nat) : Mem × Dev :=
  if msg.cls == cls && msg.typ == typ && (d.ivlInStage k 4 || d.ivlInStage k 5) then
    ivlChecked mem d k k false path8 turn8 msg msg.body.length
  else (mem, d)

/-- Is the IVL block at work: enabled, with its domain ON (R407)? -/
def Dev.ivlOn (d : Dev) : Bool := d.on F.IVL_CTRL_EN && d.domain 92 == 0

/-- A frame that is not accepted under R390: before stage 0x6 it counts in ID_BOOT_DISCARD (R453). -/
def Dev.ivlTurnedAway (d : Dev) : Dev := if d.serving then d else d.setQ .ID_BOOT_DISCARD (d.q .ID_BOOT_DISCARD + 1)

/-- The logical port that a frame of Ethernet port `e` belongs to (R390). -/
def Dev.ivlPortOf (d : Dev) (e : Nat) : Option Nat :=
  (upto 4).find? fun k => d.ivlCarrier k == some e && (d.ivlInStage k 4 || d.ivlInStage k 5)

/-- A message with a good CRC in a frame of Ethernet port `e` that belongs to no logical port: only envelope messages are
accepted; one of a wrong form is a partner violation of the port (R389, R390). -/
def Dev.ivlPlain (d : Dev) (e : Nat) (msg : IvlMsg) (n : Nat) : Dev :=
  if msg.cls != 3 || typeVersion msg.cls msg.typ == 0 || msg.dst != broadcast then (d.bump F.IVL_ETH_PORT_RX_DROP e).ivlTurnedAway
  else if !bodyOk msg n then (d.logViolation 8 mNone false false e 3).ivlTurnedAway
  else d.ivlBroadcast none e true msg

/-- An envelope notice with a good CRC: on a logical port, or in a frame of an Ethernet port (R403). -/
def envArrives (mem : Mem) (d : Dev) (arrival : Nat) (eth : Bool) (typ : Nat) (msg : IvlMsg) : Mem × Dev :=
  if !eth then ivlTyped mem d arrival 3 typ msg 0 0
  else if 1024 ≤ arrival || msg.cls != 3 || msg.typ != typ then (mem, d)
  else if !d.ivlOn then (mem, d.ivlTurnedAway)
  else if !d.on F.IVL_ETH_PORT_RX_EN arrival then (mem, (d.bump F.IVL_ETH_PORT_RX_DROP arrival).ivlTurnedAway)
  else match d.ivlPortOf arrival with
  | some k => ivlChecked mem d k arrival true 0 0 msg msg.body.length
  | none => (mem, d.ivlPlain arrival msg msg.body.length)

/-- IVL_MESSAGE_RECEIVE: on a logical port of the Ivgon link itself. -/
def ivlMessage (mem : Mem) (d : Dev) (k : Nat) (bs : List Byte) (path8 : Nat) : Mem × Dev :=
  if (d.ivlCarrier k).isSome || !(d.ivlInStage k 4 || d.ivlInStage k 5) then (mem, d)
  else ivlReceive mem d k k false bs path8

/-- IVL_ETH_RECEIVE: a frame of the Ivgon EtherType, from its destination address. -/
def ivlFrame (mem : Mem) (d : Dev) (e : Nat) (bs : List Byte) (path8 : Nat) : Mem × Dev :=
  let o := 12
  if 1024 ≤ e || !d.mayArrive e || beAt bs o 2 != d.f F.IVL_ETH_CFG_ETYPE then (mem, d)
  else if !d.ivlOn then (mem, d.ivlTurnedAway)
  else if !d.on F.IVL_ETH_PORT_RX_EN e then (mem, (d.bump F.IVL_ETH_PORT_RX_DROP e).ivlTurnedAway)
  else
    let m := bs.drop (o + 2)
    match d.ivlPortOf e with
    | some k => ivlReceive mem d k e true m path8
    | none =>
      let n := beAt m 10 2
      let msg := ivlParse m
      if m.length < 20 + n || crc32Field (m.take (16 + n)) != slice m (16 + n) 4 then (mem, (d.bump F.IVL_ETH_PORT_RX_DROP e).ivlTurnedAway)
      else (mem, d.ivlPlain e msg n)

/-- A frame at an ingress port: one with the Ivgon EtherType directly after its source MAC is handed to the IVL block (R241, R390), every other takes the
path of R22. -/
def frameArrives (mem : Mem) (d : Dev) (f : FrameIn) : Mem × Dev :=
  if f.port < 1024 && beAt f.bytes 12 2 == d.f F.IVL_ETH_CFG_ETYPE then
    ivlFrame mem d f.port (slice f.bytes 0 (f.len - 4)) f.path8
  else (mem, d.frameReceive mem f)

/-! ### The BMC over SMBus (R536) -/

/-- CRC-8 with the polynomial x^8 + x^2 + x + 1: the packet error code of SMBus 3.1, which R535 names and the spec does not lay out
(assumption 153, PRESUMED). -/
def pecBit (c : Nat) : Nat := if 128 ≤ c then (2 * c % 256) ^^^ 7 else 2 * c
def pec (bs : List Byte) : Nat :=
  bs.foldl (fun c b => let x := c ^^^ b.toNat; pecBit (pecBit (pecBit (pecBit (pecBit (pecBit (pecBit (pecBit x)))))))) 0

/-- The 7-bit SMBus address (R531). -/
def Dev.smbAddr (d : Dev) : Nat := 0x58 + d.f F.ID_STRAP_SMB_ADDR

/-- The answer to a READ: the count, the data, and the PEC over the whole transaction. -/
def Dev.smbAnswer (d : Dev) (off data : Nat) : Dev :=
  let a := d.smbAddr
  let tail := be 1 4 ++ le 4 data
  let all := be 1 (2 * a) ++ be 1 0x02 ++ be 1 4 ++ le 4 off ++ be 1 (2 * a + 1) ++ tail
  d.emit (.smbus a (tail ++ be 1 (pec all)))

/-- A write transaction: the command byte, the offset, the data bytes counted, and whether the PEC was right. -/
def smbWrite (mem : Mem) (d : Dev) (cmd off count : Nat) (val : Word) (pecOk : Bool) : Mem × Dev :=
  if d.boot.inReset || d.boot.jtagHeld then (mem, d)
  else if d.frozen mBMC then (mem, d.done mBMC .aborted)
  else if cmd != 0x01 then (mem, d.malformed mBMC true 0)
  else match d.checkAccess mBMC (some val.toNat) off 4 with
  | some d => (mem, d)
  | none => if count != 8 then (mem, d.malformed mBMC true off) else if !pecOk then (mem, d) else regWrite mem d mBMC off 4 val []

/-- A read transaction: the access, and its data with the PEC. -/
def smbRead (mem : Mem) (d : Dev) (cmd off : Nat) : Mem × Dev :=
  if d.boot.inReset || d.boot.jtagHeld then (mem, d)
  else if d.frozen mBMC then (mem, d.done mBMC .aborted)
  else if cmd != 0x02 then (mem, d.malformed mBMC false 0)
  else
    let r := regRead mem d mBMC off 4
    (r.1, match r.2.last with
      | [⟨_, .ok, v⟩] => r.2.smbAnswer off v
      | _ => r.2)

end Sys2Proof.Machine
end

