-- ==== Sys2Proof/Machine/X509.lean ====
section
/-! DEFINITION. The X.509 v3 certificates of an image's signer chain (R461): the parts of DER they use, their extensions and
their signatures. The spec names X.509 and gives no layout of it: DER, the fields of a certificate and what makes a chain valid
are those of ITU-T X.690 and RFC 5280 (assumption 151, PRESUMED). -/

namespace Sys2Proof.Machine

/-- An element of DER: its tag, its contents, and the whole of it, header included. -/
structure Der where
  tag : Nat
  body : List Byte
  whole : List Byte
  deriving DecidableEq, Repr

/-- The length of the header of an element and of its contents; lengths of one to four bytes. -/
def derHead (bs : List Byte) : Option (Nat × Nat) :=
  let n := beAt bs 1 1
  if n < 128 then some (2, n)
  else if n < 133 && 128 < n then some (2 + (n - 128), beAt bs 2 (n - 128))
  else none

/-- The first element of a byte string, and what follows it. -/
def derNext (bs : List Byte) : Option (Der × List Byte) :=
  match derHead bs with
  | none => none
  | some (h, n) =>
    if bs.length < 2 || bs.length < h + n then none
    else some (⟨beAt bs 0 1, (bs.drop h).take n, bs.take (h + n)⟩, bs.drop (h + n))

/-- All elements of a byte string, `fuel` of them at most; none where it is not a row of whole elements. -/
def derAll : Nat → List Byte → Option (List Der)
  | _, [] => some []
  | 0, _ => none
  | fuel + 1, bs =>
    match derNext bs with
    | none => none
    | some (x, rest) => (derAll fuel rest).map (x :: ·)

/-- The elements of a constructed element. -/
def Der.parts (x : Der) : List Der := (derAll x.body.length x.body).getD []

/-- The header of a subjectPublicKeyInfo of id-ecPublicKey on prime256v1, before the point's coordinates. -/
def spkiHead : List Byte :=
  [0x30, 0x59, 0x30, 0x13, 0x06, 0x07, 0x2A, 0x86, 0x48, 0xCE, 0x3D, 0x02, 0x01, 0x06, 0x08, 0x2A, 0x86, 0x48, 0xCE, 0x3D, 0x03, 0x01,
    0x07, 0x03, 0x42, 0x00, 0x04]

/-- The point of a subjectPublicKeyInfo on P-256. -/
def spkiKey (spki : List Byte) : Option (Nat × Nat) :=
  if spki.length == 91 && spki.take 27 == spkiHead then some (beAt spki 27 32, beAt spki 59 32) else none

/-- What a chain's check uses of a certificate. -/
structure Cert where
  signed : List Byte
  issuer : List Byte
  subject : List Byte
  key : Nat × Nat
  /-- Object identifier and value of each extension. -/
  extensions : List (List Byte × List Byte)
  /-- r ‖ s. -/
  signature : List Byte
  deriving DecidableEq, Repr

/-- ecdsa-with-SHA256, as an AlgorithmIdentifier. -/
def ecdsaSha256 : List Byte := [0x30, 0x0A, 0x06, 0x08, 0x2A, 0x86, 0x48, 0xCE, 0x3D, 0x04, 0x03, 0x02]

/-- The r ‖ s of an ECDSA-Sig-Value in a BIT STRING. -/
def sigOf (body : List Byte) : Option (List Byte) :=
  match (derNext (body.drop 1)).map fun x => x.1.parts with
  | some [r, s] => if r.tag == 2 && s.tag == 2 then some (be 32 (ofBe r.body) ++ be 32 (ofBe s.body)) else none
  | _ => none

/-- The extensions of an extensions field: each is its identifier, whether it is critical, and its value. -/
def extensionsOf (x : Der) : List (List Byte × List Byte) :=
  (x.parts.flatMap Der.parts).filterMap fun e =>
    match e.parts with
    | [oid, v] => some (oid.body, v.body)
    | [oid, _, v] => some (oid.body, v.body)
    | _ => none

/-- A certificate of version 3, on P-256 and signed with ecdsa-with-SHA256. -/
def certOf (x : Der) : Option Cert :=
  match x.parts with
  | [tbs, alg, sig] =>
    match tbs.parts with
    | ver :: _ :: inner :: issuer :: _ :: subject :: spki :: rest =>
      match spkiKey spki.whole, sigOf sig.body with
      | some key, some s =>
        if ver.tag == 0xA0 && sig.tag == 3 && alg.whole == ecdsaSha256 && inner.whole == ecdsaSha256 then
          some ⟨tbs.whole, issuer.whole, subject.whole, key, (rest.filter fun r => r.tag == 0xA3).flatMap extensionsOf, s⟩
        else none
      | _, _ => none
    | _ => none
  | _ => none

/-- An extension of a certificate: keyUsage is 2.5.29.15, basicConstraints 2.5.29.19. -/
def Cert.extension (c : Cert) (n : Byte) : Option (List Byte) := (c.extensions.find? fun e => e.1 == [0x55, 0x1D, n]).map (·.2)

/-- keyUsage holds a bit, numbered from the first: 0 is digitalSignature, 5 keyCertSign. -/
def Cert.usage (c : Cert) (n : Nat) : Bool :=
  match (c.extension 0x0F).bind derNext with
  | some (x, _) => x.tag == 3 && bit (beAt x.body 1 1) (7 - n)
  | none => false

/-- The cA of basicConstraints, which is false where it is left out; none without the extension. -/
def Cert.cA (c : Cert) : Option Bool :=
  match (c.extension 0x13).bind derNext with
  | some (x, _) => some (x.parts.any fun y => y.tag == 1 && y.body == [0xFF])
  | none => none

def Cert.signedBy (c : Cert) (key : Nat × Nat) : Bool := ecdsaVerify key.1 key.2 c.signed c.signature

/-- The signer's key of a chain that is valid under a root key (R461): the signer carries digitalSignature and cA false, and is
signed by the root, or by an intermediate authority that the root has signed. -/
def chainKey (chain : List Byte) (root : Nat × Nat) : Option (Nat × Nat) :=
  match (derAll 3 chain).map (·.map certOf) with
  | some [some s] => if s.usage 0 && s.cA == some false && s.signedBy root then some s.key else none
  | some [some s, some i] =>
    if s.usage 0 && s.cA == some false && s.issuer == i.subject && s.signedBy i.key && i.cA == some true && i.usage 5 && i.signedBy root
    then some s.key else none
  | _ => none

end Sys2Proof.Machine
end

