-- ==== Sys2Proof/Machine/Image.lean ====
section
/-! DEFINITION. The configuration image (R459 to R466): its checks, its application section by section, its refusal, and
power-up. -/

namespace Sys2Proof.Machine

/-! ### Format (R459, R460) -/

/-- A directory entry: its index, type, offset and length. -/
structure Section where
  index : Nat
  typ : Nat
  off : Nat
  len : Nat
  deriving DecidableEq, Repr

/-- Signed length L. -/
def imageLen (bs : List Byte) : Nat := beAt bs 20 4

/-- The section directory. -/
def sectionsOf (bs : List Byte) : List Section :=
  (upto (beAt bs 24 2)).map fun i => ⟨i, beAt bs (40 + 12 * i) 2, beAt bs (44 + 12 * i) 4, beAt bs (48 + 12 * i) 4⟩

/-- Is a section's length possible for its type? -/
def Section.lengthOk (x : Section) : Bool :=
  match x.typ with
  | 1 => x.len == 132
  | 2 => x.len % 8 == 0
  | 5 => x.len % 36 == 0
  | 6 => x.len % 160 == 0
  | 7 => x.len == 12
  | _ => true

/-- Two byte ranges share no byte. -/
def apart (a n b m : Nat) : Bool := n == 0 || m == 0 || decide (a + n ≤ b) || decide (b + m ≤ a)

/-- Mark, version, lengths, offsets and directory (the second check of R462). -/
def imageFormatOk (bs : List Byte) : Bool :=
  let n := beAt bs 24 2
  let l := imageLen bs
  let co := beAt bs 32 4
  let cl := beAt bs 36 4
  let ss := sectionsOf bs
  let types := (ss.filter fun x => x.typ < 0x8000).map (·.typ)
  beAt bs 0 4 == 0x4B584347 && beAt bs 4 2 == 1 && decide (1 ≤ n) && decide (n ≤ 16) && decide (beAt bs 26 2 ≤ 1) &&
    decide (beAt bs 28 2 ≤ 600) && beAt bs 30 2 == 0 && decide (40 + 12 * n ≤ co) && co + cl == l && cl != 0 &&
    (types.all fun t => decide (1 ≤ t) && decide (t ≤ 7)) && types.contains 3 &&
    ((ss.map (·.typ)).eraseDups.length == ss.length) &&
    (ss.all fun x => beAt bs (42 + 12 * x.index) 2 == 0 && x.off % 4 == 0 && decide (40 + 12 * n ≤ x.off) && decide (x.off + x.len ≤ co) &&
      x.lengthOk && ss.all fun y => x.index == y.index || apart x.off x.len y.off y.len)

/-- Flash offset and length of an image's slot, by the directory; an empty slot has length 0 (R456). -/
def Dev.imageSlot (d : Dev) (x : ImageIn) : Nat × Nat := d.boot.images.getD (x.slot % 2) (0, 0)

/-- The key of an image's signer, where its chain is valid under the root (R461). -/
def Dev.signerKey (d : Dev) (bs : List Byte) : Option (Nat × Nat) :=
  match d.boot.fuses with
  | none => none
  | some f =>
    if sha256 f.rootSpki != d.bytesOf .EV_ROOT_DIGEST 8 then none
    else (spkiKey f.rootSpki).bind (chainKey (slice bs (beAt bs 32 4) (beAt bs 36 4)))

/-- The checks of R462 in order: DETAIL of the first that fails, or none. The flash holds at most 256 MiB. -/
def Dev.imageBad (d : Dev) (x : ImageIn) : Option Nat :=
  let bs := x.bytes
  let l := imageLen bs
  let at_ := d.imageSlot x
  if !x.readOk || bs.length < 24 || 224 * 2 ^ 20 < l + 64 || bs.length < l + 64 || at_.2 < l + 64 || 2 ^ 28 < at_.1 + at_.2 then some 1
  else if !imageFormatOk bs then some 2
  else if beAt bs 12 4 != d.f F.ID_REVISION_VALUE || beAt bs 16 4 != (d.get .PIPE_UCODE_ROM).toNat then some 3
  else if beAt bs 6 2 < d.f F.ID_IMG_INFO_FLOOR then some 4
  else match d.signerKey bs with
  | none => some 6
  | some k => if !ecdsaVerify k.1 k.2 (bs.take l) (slice bs l 64) then some 5 else none

/-! ### Entries (R463) -/

/-- DETAIL of a refusal. -/
def eCONFLICT : Nat := 7
def eFORBIDDEN : Nat := 8
def eNOGRAPH : Nat := 9
def ePATCH : Nat := 10

/-- The state after an entry, or the DETAIL it refuses the image with. -/
abbrev Applied := (Mem × Dev) ⊕ Nat

/-- Why a section refuses an image: the DETAIL and index of the entry that fails, and the device that the entries before it left. -/
structure Refused where
  detail : Nat
  entry : Nat
  left : Dev
  deriving DecidableEq, Repr

/-- Apply entries in order: the state after the last, or how the first that fails refuses the image. -/
def applyAll {α : Type} (g : Mem → Dev → α → Applied) : List α → Nat → Mem → Dev → (Mem × Dev) ⊕ Refused
  | [], _, mem, d => .inl (mem, d)
  | x :: rest, i, mem, d =>
    match g mem d x with
    | .inl r => applyAll g rest (i + 1) r.1 r.2
    | .inr e => .inr ⟨e, i, d⟩

/-- The entries of `n` bytes of a section. -/
def chunks (n : Nat) (bs : List Byte) : List (List Byte) := (upto (bs.length / n)).map fun i => slice bs (n * i) n

/-- Does the image command an HBM domain out of ON (R465)? -/
def Dev.imageHbmOff (d : Dev) : Bool := (upto 8).any fun s => d.f F.PWR_DOM_CMD_STATE (80 + s) != 0

/-- Index and state of each POWER entry: 96 domains, then 32 banks, then AUTO_SR_EN. -/
def powerEntries (bs : List Byte) : List (Nat × Nat) := (upto 129).map fun i => (i, beAt bs i 1)

/-- A POWER entry: a domain's state, with the condition of R476; a bank's; or AUTO_SR_EN, which follow in stage 0x4. -/
def powerEntry (mem : Mem) (d : Dev) (x : Nat × Nat) : Applied :=
  if x.1 < 96 then
    let n := d.setF F.PWR_DOM_CMD_STATE x.2 x.1
    if 2 < x.2 || d.conflictPwr n ⟨.PWR_DOM_CMD, x.1, 0, 0, false⟩ then .inr eCONFLICT else .inl (mem, n.domCommand x.1 x.2)
  else if x.1 < 128 then
    if 2 < x.2 then .inr eCONFLICT else .inl (mem, { d with boot := { d.boot with banks := d.boot.banks ++ [x.2] } })
  else .inl (mem, { d with boot := { d.boot with autoSr := x.2 } })

/-- Operation and pop registers that the image may not write. -/
def Reg.imageForbids (r : Reg) : Bool :=
  let w := r.row
  (w.rw == 0 && w.rwl == 0 && w.w1c == 0 && (w.rc != 0 || w.wo != 0)) ||
  match r with
  | .ID_RESET | .ID_BOOT_CTRL | .ID_HEAT_CTRL | .TIME_STEP_CTRL | .CTL_THAW | .CTL_MASTER_RESET | .CTL_FW_CTRL | .CTL_FW_SRC
  | .CTL_FW_STATUS | .CTL_FW_CONFIRM | .CTL_CP_CTRL => true
  | _ => false

/-- Is a write FORBIDDEN: such a register, a WO field other than ARM of a time pin, or a state request. -/
def imageForbidden (h : RegHit) (val : Nat) : Bool :=
  h.reg.imageForbids || (h.reg != .TIME_PIN_CFG && val &&& h.reg.row.wo != 0) || (h.reg == .TIME_CTRL && bits val 31 30 != 0)

/-- Fields that an image with HBM off may not set (R465). -/
def needsHbm (h : RegHit) (val : Nat) : Bool :=
  match h.reg with
  | .BUF_CTRL => F.BUF_CTRL_SPILL_EN.ext val != 0
  | .EV_CTRL => F.EV_CTRL_EN.ext val != 0
  | .TEL_CTRL => F.TEL_CTRL_TRACE_EN.ext val != 0 || F.TEL_CTRL_TIMED_EN.ext val != 0
  | _ => false

/-- A write of the sequencer: neither logged nor answered; none when it would not complete normally. -/
def quietWrite (mem : Mem) (d : Dev) (h : RegHit) (val : Word) : Option (Mem × Dev) :=
  let q := { d with last := [] }
  let r := if h.reg.row.wide then writeWide mem q mH0 h val else writeWord mem q mH0 h (h.reg.off h.i h.j h.k) val []
  if r.2.last.all fun c => c.status == .ok then
    some (r.1, { r.2 with last := d.last, ctl := { r.2.ctl with vlog := d.ctl.vlog } })
  else none

/-- ADM_PIPE_DERATE, whose writers R72 names without the image. -/
def isDerate (off : Nat) : Bool :=
  match lookupReg (unalias off) with
  | some h => h.reg == .ADM_PIPE_DERATE
  | none => false

/-- A REGISTERS entry. -/
def registerEntry (mem : Mem) (d : Dev) (x : List Byte) : Applied :=
  let off := beAt x 0 4
  let val := beAt x 4 4
  if off % 4 != 0 then .inr eCONFLICT
  else match lookupReg (unalias off) with
  | none => if d.within mH0 (some val) off then .inl (mem, d) else .inr eCONFLICT
  | some h =>
    if imageForbidden h val then .inr eFORBIDDEN
    else if !d.within mH0 (some val) off || isDerate off then .inr eCONFLICT
    else if d.imageHbmOff && needsHbm h val then .inr eCONFLICT
    else match h.reg with
    | .CTL_LOCK => .inl (mem, d)
    | .EV_CTRL =>
      let d := { d with boot := { d.boot with heldEvEn := F.EV_CTRL_EN.ext val == 1 } }
      match quietWrite mem d h (word (F.EV_CTRL_EN.ins val 0)) with
      | some r => .inl r
      | none => .inr eCONFLICT
    | _ => match quietWrite mem d h (word val) with
      | some r => .inl r
      | none => .inr eCONFLICT

/-- Bytes an action takes of its pipe's egress-stage SRAM: one, and its operands (R267; assumption 54, DESIGN CHOICE). -/
def EgressAct.size : EgressAct → Nat
  | .mac _ _ => 7
  | .vlanSet _ => 3
  | .vlanPush _ _ => 5
  | .dscp _ => 2
  | .stamp _ _ => 5
  | .count _ => 3
  | .vlanPop | .ttl => 1

/-- A pipe's rewrites or egress-stage entries with those of a section put in. -/
def withEntries (m : SMap (List EgressAct)) (pipe : Nat) (l : List (Nat × List EgressAct)) : SMap (List EgressAct) :=
  l.foldl (fun m x => SMap.set m (pipe * 65536 + x.1) x.2) m

/-- Bytes the entries of a pipe take. -/
def entryBytes (m : SMap (List EgressAct)) (pipe : Nat) : Nat :=
  m.foldl (fun a x => if x.1 / 65536 == pipe then x.2.foldl (fun a y => a + EgressAct.size y) a else a) 0

/-- A pipe's graph (R234, R238), with the rewrites and the egress-stage entries Psitos laid out for it, which take at most
64 KiB (R267; assumption 54, DESIGN CHOICE). -/
def graphEntry (mem : Mem) (d : Dev) (g : GraphIn) : Applied :=
  let rewrites := withEntries d.parse.rewrites g.pipe g.rewrites
  let egress := withEntries d.parse.egress g.pipe g.egress
  if 65536 < entryBytes rewrites g.pipe + entryBytes egress g.pipe || ((g.rewrites ++ g.egress).any fun x => decide (65536 ≤ x.1)) ||
      16 ≤ g.pipe || 256 < g.nodes.length || 4096 < g.trans.length || (g.trans.any fun t => decide (0x4200 ≤ t.2.2.1)) ||
      (g.nodes.any fun n => decide (256 ≤ n.1)) || (g.trans.any fun t => decide (256 ≤ t.1) || decide (256 ≤ t.2.2.2)) then .inr eNOGRAPH
  else
    let nodes := g.nodes.foldl (fun (m : SMap (Nat × Nat)) n => SMap.set m (g.pipe * 256 + n.1) n.2) d.parse.nodes
    let trans := g.trans.map fun t => ({ node := t.1, key := t.2.1, addr := t.2.2.1, next := t.2.2.2, add := none, del := none } : Trans)
    .inl (mem, { d with parse := { d.parse with nodes := nodes, trans := SMap.set d.parse.trans g.pipe trans, rewrites := rewrites, egress := egress } })

/-- The containers of a PATCH section, each with its signature; a rest too short for one is one more, which fails. -/
def patchesOf : Nat → List Byte → List (List Byte)
  | 0, _ => []
  | n + 1, bs =>
    if bs.isEmpty then []
    else
      let size := patchSize bs + 64
      if bs.length < size then [bs.take 1] else bs.take size :: patchesOf n (bs.drop size)

/-- A PATCH entry: loaded into each pipe of its mask and switched at once. -/
def patchEntry (mem : Mem) (d : Dev) (x : List Byte) : Applied :=
  let size := patchSize x
  let ps := pipesOf (beAt x 10 2)
  if x.length != size + 64 || ps.isEmpty || ps.any (fun p => (d.patchBad p (x.take size) (x.drop size)).isSome) then .inr ePATCH
  else .inl (mem, d.each ps fun d p => (d.patchLoad p (x.take size)).patchSwitch p)

/-- A SESSIONS entry (R194, R197). -/
def sessionEntry (mem : Mem) (d : Dev) (x : List Byte) : Applied :=
  let n := beAt x 0 2
  let s := d.session n
  let y := s.withConfig (slice x 4 32)
  if 32768 ≤ n || beAt x 2 2 != 0 || 16367 < y.excerpt || (s.en && y.partition != s.partition) then .inr eCONFLICT
  else .inl (mem, d.updSession n fun _ => y)

/-- A TABLES entry: an ADD that succeeds (R291). -/
def tableEntry (mem : Mem) (d : Dev) (x : List Byte) : Applied :=
  let t := beAt x 1 1
  let r := d.engine mem mH0 (beAt x 0 1) t (ofLe (slice x 4 4)) (ofLe (slice x 2 2)) (ofLe (slice x 8 144))
  if beAt x 0 1 != 1 || (d.imageHbmOff && (t == 3 || t == 6)) || r.2.status != stOK then .inr eCONFLICT else .inl (mem, r.1)

/-- The TIME section (R466). -/
def timeEntry (mem : Mem) (d : Dev) (x : List Byte) : Applied :=
  let src := beAt x 0 1
  let idx := beAt x 1 1
  let b := beAt x 2 1
  let ms := beAt x 4 4
  let pps := if bit b 7 then some (b % 8) else none
  let d := { d with boot := { d.boot with timeSource := src, timeIndex := idx, timePps := pps, timeoutMs := ms, lockNs := beAt x 8 4 } }
  if 3 < src || 3 < idx || bits b 6 3 != 0 || beAt x 3 1 != 0 || ms == 0 || 600000 < ms ||
      (src == 1 && !(d.on F.TIME_PTP_DOM_EN idx && d.on F.TIME_PTP_DOM_SERVO idx)) ||
      (src == 2 && !(d.on F.IVL_PORT_CFG_FOLLOW idx && d.on F.IVL_TIME_CFG_SERVO_EN && d.f F.IVL_TIME_CFG_SERVO_PORT == idx)) ||
      (match pps with
       | some p => d.pinClash p
       | none => false) then .inr eCONFLICT
  else .inl (mem, d)

/-- Apply one section. -/
def applySection (x : ImageIn) (s : Section) (mem : Mem) (d : Dev) : (Mem × Dev) ⊕ Refused :=
  let bs := slice x.bytes s.off s.len
  match s.typ with
  | 1 => applyAll powerEntry (powerEntries bs) 0 mem d
  | 2 => applyAll registerEntry (chunks 8 bs) 0 mem d
  | 3 => if x.graphs.isEmpty then .inr ⟨eNOGRAPH, 0, d⟩ else applyAll graphEntry x.graphs 0 mem d
  | 4 => applyAll patchEntry (patchesOf (bs.length + 1) bs) 0 mem d
  | 5 => applyAll sessionEntry (chunks 36 bs) 0 mem d
  | 6 => applyAll tableEntry (chunks 160 bs) 0 mem d
  | 7 => applyAll timeEntry [bs] 0 mem d
  | _ => .inl (mem, d)

/-- Apply the sections of types 1 to 7 in order, or the refusal and its section's index. -/
def applySections (x : ImageIn) : List Nat → Mem → Dev → (Mem × Dev) ⊕ (Refused × Nat)
  | [], mem, d => .inl (mem, d)
  | t :: rest, mem, d =>
    match (sectionsOf x.bytes).find? fun s => s.typ == t with
    | none => applySections x rest mem d
    | some s =>
      match applySection x s mem d with
      | .inl r => applySections x rest r.1 r.2
      | .inr e => .inr (e, s.index)

/-! ### Acceptance and refusal (R462 to R464) -/

/-- Registers that stay in stage 0xF: the identity, control, power and time blocks, all of them always on. -/
def staysOn (k : Nat) : Bool :=
  let o := k % 2 ^ 28
  decide (o < 0x1000) || (decide (0x100000 ≤ o) && decide (o < 0x102000)) || (decide (0x200000 ≤ o) && decide (o < 0x400000))

/-- Stage 0xF (R464). The registers of R472 name the cause. -/
def Dev.stageF (d : Dev) (cause detail : Nat) : Dev :=
  let kept := { Time.reset with sec := d.time.sec, ns := d.time.ns, frac := d.time.frac, ticks := d.time.ticks, stretched := d.time.stretched }
  let keep : Dev := { Dev.reset with
    regs := d.regs.filter (fun p => staysOn p.1), wide := d.wide.filter (fun p => staysOn p.1),
    ctl := { d.ctl with mail := [] }, time := kept,
    boot := { d.boot with applying := false }, pwr := { d.pwr with wakeQ := [], moving := [], recorded := [] },
    draws := d.draws, out := d.out, last := d.last }
  let keep := ((keep.setCause cause).setDetail detail).setBootStage 0xF
  keep.each (upto 96) fun d n => (d.setF F.PWR_DOM_CMD_STATE 2 n).setF F.PWR_DOM_STAT_STATE 2 n

/-- The slot the control processors start in (R457): the higher security version, or A. -/
def Dev.startSlot (d : Dev) : Nat :=
  match d.ctl.slotA, d.ctl.slotB with
  | some a, some b => if a.secVer < b.secVer then 0xB else 0xA
  | none, some _ => 0xB
  | _, _ => 0xA

/-- Stage 0x4 begins: the control processors start (R451, R457). -/
def Dev.stageFour (d : Dev) : Dev := (d.setF F.ID_STATUS_CP_SLOT d.startSlot).setBootStage 4

/-- A verified image is applied: stage 0x4, or 0xF when an entry refuses it. What the entries before that one wrote into blocks of the
always-on domain stays (R464). -/
def applyImage (mem : Mem) (d : Dev) (x : ImageIn) : Mem × Dev :=
  let bs := x.bytes
  let ver := beAt bs 6 2
  let digest := sha256 (bs.take (imageLen bs + 64))
  let b := { d.boot with imageSecVer := ver, raiseFloor := bit (beAt bs 26 2) 0, holdS := beAt bs 28 2, imageDigest := digest }
  let d := { d with boot := { b with applying := true, timeSource := 0, timePps := none, autoSr := 0, banks := [] } }
  let d := ((d.setF F.ID_IMG_INFO_SEC_VER ver).set .ID_IMG_SEQ (word (beAt bs 8 4))).setBytes .ID_IMG_DIGEST 8 digest
  match applySections x [1, 2, 3, 4, 5, 6, 7] mem d with
  | .inl r => (r.1, { r.2 with boot := { r.2.boot with applying := false } }.stageFour)
  | .inr e =>
    let f := (e.1.left.setF F.ID_BOOT_WHERE_SECTION e.2).setF F.ID_BOOT_WHERE_ENTRY e.1.entry
    (⟨[], []⟩, (f.stageF 6 e.1.detail).setF F.ID_STATUS_CP_SLOT d.startSlot)

/-- The copy of an image in the staging area, at device address 0 of the spill region (R462). -/
def Mem.stage (mem : Mem) (bs : List Byte) : Mem :=
  let cells := (upto bs.length).filterMap fun i => if bs.getD i 0 == 0 then none else some ((i, bs.getD i 0) : Host.Cell)
  { mem with hbm := cells ++ mem.hbm.filter fun c => decide (bs.length ≤ c.1) }

/-- Try the image slots in turn (R462): each is copied once from the flash and checked in its copy. -/
def tryImages (mem : Mem) (d : Dev) (detail : Nat) : List ImageIn → Mem × Dev
  | [] => (⟨[], []⟩, (d.stageF 5 detail).setF F.ID_STATUS_CP_SLOT d.startSlot)
  | x :: rest =>
    let d := d.setF F.ID_BOOT_STATUS_IMG_SLOT (x.slot % 2)
    let mem := mem.stage x.bytes
    match d.imageBad x with
    | some e => tryImages mem d e rest
    | none => applyImage mem d x

/-- The slots in the order they are tried: the higher sequence number first, slot 0 on a tie. -/
def imageOrder (a b : Option ImageIn) : List ImageIn :=
  match a, b with
  | some x, some y => if beAt x.bytes 8 4 < beAt y.bytes 8 4 then [y, x] else [x, y]
  | some x, none => [x]
  | none, some y => [y]
  | none, none => []

/-- IMAGE_LOAD_DONE. -/
def imageLoadDone (mem : Mem) (d : Dev) (a b : Option ImageIn) : Mem × Dev :=
  if d.bootStage != 3 then (mem, d) else tryImages mem d 0 ((imageOrder a b).filter fun x => (d.imageSlot x).2 != 0)

/-! ### Power-up (R465) -/

/-- The order in which the remaining domains are woken, and then the HBM domains. -/
def powerOrder : List Nat :=
  (upto 4).map (88 + ·) ++ (upto 16).map (64 + ·) ++ [93, 94, 95, 92] ++ upto 64 ++ (upto 8).map (80 + ·)

/-- A domain reaches its commanded state. -/
def Dev.powerUp (d : Dev) (n : Nat) : Dev :=
  let s := d.f F.PWR_DOM_CMD_STATE n
  let d := d.setF F.PWR_DOM_STAT_STATE s n
  if s == 0 then
    let d := if n < 64 then d.groupOn n else if n == 92 then d.ivdOn else d
    if 80 ≤ n && n < 88 then d else d.logPower 1 wHOST n 0
  else if 80 ≤ n && n < 88 then (if s == 2 then d.setF F.HBM_STACK_STAT_TRAINED 0 (n - 80) else d).logPower 2 wHOST n 0
  else d

/-- The bank states of the POWER section. -/
def Dev.powerBanks (d : Dev) : Dev := d.each (upto d.boot.banks.length) fun d b => d.setF F.SPD_BANK_CFG_PSTATE (d.boot.banks.getD b 0) b

/-- POWER_UP_DONE. -/
def Dev.powerUpDone (d : Dev) : Dev :=
  if d.bootStage != 4 then d else
  let d := ((d.each powerOrder Dev.powerUp).powerIrq).powerBanks
  let d := d.each (upto 8) fun d s => d.setF F.HBM_STACK_CFG_AUTO_SR_EN (bits d.boot.autoSr s s) s
  let x := d.measure
  let d := { d with ev := { d.ev with measurement := x, measNext := none, measFresh := true } }.setBytes .EV_MEAS 8 x
  d.setBootStage 5

end Sys2Proof.Machine
end

