-- ==== Sys2Proof/Machine/Registers.lean ====
section
/-! DEFINITION. The commands that are register accesses of no other chapter (R9 to R15, R28, R536), and the access that a
command naming one register makes. -/

namespace Sys2Proof.Machine

/-! ### An access to one named register -/

/-- The alias offset of a privileged offset (R414, R416); an offset outside the window stands for itself. -/
def aliasOf (o : Nat) : Nat :=
  if o < 0x02800000 then o + 0x0C000000
  else if 0x05000000 ≤ o && o < 0x05800000 then o - 0x05000000 + 0x0E800000
  else if 0x07000000 ≤ o && o < 0x08000000 then o + 0x08000000
  else o

/-- The offset at which a master addresses a register: a host function through its window. -/
def offsetFor (m o : Nat) : Nat := if isHostFn m then aliasOf o else o

/-- Are the indices within a register's instances? -/
def Reg.has (r : Reg) (i j : Nat) : Bool :=
  match r.row.dims with
  | [] => i == 0 && j == 0
  | [a] => decide (i < a.2) && j == 0
  | a :: b :: _ => decide (i < a.2) && decide (j < b.2)

/-- A master writes one instance of a register; an instance that does not exist is not written. -/
def writeReg (r : Reg) (i j m : Nat) (val : Nat) (aux : List Nat) (mem : Mem) (d : Dev) : Mem × Dev :=
  if r.has i j then regWrite mem d m (offsetFor m (r.off i j)) 4 (word val) aux else (mem, d)

/-- A master reads one instance of a register. -/
def readReg (r : Reg) (i j m : Nat) (mem : Mem) (d : Dev) : Mem × Dev :=
  if r.has i j then regRead mem d m (offsetFor m (r.off i j)) 4 else (mem, d)

/-- A master writes a 64-bit quantity, low word first. -/
def writePair (r : Reg) (m : Nat) (lo hi : Word) (mem : Mem) (d : Dev) : Mem × Dev :=
  let a := regWrite mem d m (offsetFor m (r.off)) 4 lo []
  regWrite a.1 a.2 m (offsetFor m (r.off) + 4) 4 hi []

/-- A value with a bit set, and with a bit cleared. -/
def setBit (w : Word) (i : Nat) : Nat := w.toNat ||| 2 ^ i
def clearBit (w : Word) (i : Nat) : Nat := if bit w.toNat i then w.toNat - 2 ^ i else w.toNat

/-- A value with an operation code in its bits 31:29. -/
def setOp (w : Word) (op : Nat) : Nat := op * 2 ^ 29 + w.toNat % 2 ^ 29

/-! ### The commands -/

/-- The register-fabric arbiter's pointer: 0 after a device reset, one identity on every management cycle of 1 ns (R30). The
cycle is taken from the time clock's ticks (assumption 108, DESIGN CHOICE). -/
def Dev.arbiter (d : Dev) : Nat := d.mgmtCycle % 64

/-- The writes of one management cycle in the order they are taken: by identity from the pointer upwards, each master's own
in the order it issued them (R29, R30). -/
def arbitrated (ptr : Nat) (ws : List RegWrite) : List RegWrite :=
  sortBy (fun a b => decide ((a.m % 64 + 64 - ptr) % 64 < (b.m % 64 + 64 - ptr) % 64)) ws

/-- Events of the cycle in which a register's bits are cleared: what they set prevails, and what they count is counted after
the clear (R12, R13). The access went through. -/
def Dev.cycleEvents (d : Dev) (h : RegHit) (m events : Nat) : Dev :=
  let e := events &&& (h.reg.row.w1c ||| h.reg.row.rc)
  if e == 0 then d
  else match h.reg with
    | .MB_STAT => d.mbCycle h.i ((d.mbSide h.i m).getD true) e
    | _ => d.set h.reg (word ((d.get h.reg h.i h.j h.k m).toNat ||| e)) h.i h.j h.k m

/-- A request of a PCIe function that breaks the rules of PCIe 5.0: no effect, a PARTNER_PCIE entry, and the completion that
PCIe 5.0 prescribes (R420). No rule gives the port the entry holds: a free value (assumption 144, DESIGN CHOICE). -/
def Dev.partnerPcie (d : Dev) (m : Nat) (write : Bool) : Dev :=
  let r := d.draw
  (r.2.logViolation 9 mNone false write (r.1 % 2048) 0).done m .pcie

/-- One write, with the events of its core cycle (R12). -/
def cycleWrite (mem : Mem) (d : Dev) (w : RegWrite) : Mem × Dev :=
  if !w.pcieOk && w.m ≤ 0x0F then (mem, d.partnerPcie w.m true) else
  let r := regWrite mem d w.m w.off w.width w.val []
  match lookupReg (unalias w.off) with
  | none => r
  | some h => if h.reg.row.wide || !((r.2.last.getLast?.map (·.status == .ok)).getD false) then r else (r.1, r.2.cycleEvents h w.m w.events)

/-- REGISTER_WRITE: the writes of one management cycle, in the arbiter's order (R30). -/
def registerWrites (mem : Mem) (d : Dev) (ws : List RegWrite) : Mem × Dev :=
  (arbitrated d.arbiter ws).foldl (fun r w => cycleWrite r.1 r.2 w) (mem, d)

def execRegisterWrite (ws : List RegWrite) (s : State) : Host.Outcome State Fault Refusal :=
  onMem (fun mem d => registerWrites mem d ws) s

/-- REGISTER_READ. -/
def execRegisterRead (m off width : Nat) (s : State) : Host.Outcome State Fault Refusal :=
  onMem (fun mem d => regRead mem d m off width) s

/-- Registers whose read pops, latches or acts: their RC words are no counters. -/
def Reg.pops (r : Reg) : Bool :=
  match r with
  | .CTL_VLOG_POP0 | .TBL_NOTICE_POP0 | .TBL_ERR_POP0 | .HBM_ERR_POP0 | .PWR_EVT_POP0 | .IVL_ENV_POP0 | .IVL_TT_POP0
  | .TEL_RING_RD_DATA0 | .TIME_TXQ_POP_LO | .TIME_PIN_CAP_NS | .TEL_PC => true
  | _ => false

/-- RC_READ: what is counted in the cycle of a read that cleared its register is counted after it (R13). -/
def rcRead (mem : Mem) (d : Dev) (m off setBits : Nat) : Mem × Dev :=
  let r := regRead mem d m off 4
  match lookupReg (unalias off) with
  | none => r
  | some h =>
    if h.reg.row.wide || h.reg.pops || !(r.2.last.all fun c => c.status == .ok) || r.2.last.isEmpty then r
    else (r.1, r.2.cycleEvents h m (setBits &&& h.reg.row.rc))

def execRcRead (m off setBits : Nat) (s : State) : Host.Outcome State Fault Refusal :=
  onMem (fun mem d => rcRead mem d m off setBits) s

/-- Does an offset name the low word (false) or the high word (true) of a 64-bit quantity? -/
def wideWord (off : Nat) (high : Bool) : Bool :=
  match lookupReg (unalias off) with
  | some h => h.reg.row.wide && h.high == high
  | none => false

/-- LOW_WORD_READ, LOW_WORD_WRITE and HIGH_WORD_WRITE (R15). -/
def execLowWordRead (m off : Nat) (s : State) : Host.Outcome State Fault Refusal :=
  onMem (fun mem d => if wideWord off false then regRead mem d m off 4 else (mem, d)) s

def execLowWordWrite (m off : Nat) (val : Word) (s : State) : Host.Outcome State Fault Refusal :=
  onMem (fun mem d => if wideWord off false then regWrite mem d m off 4 val [] else (mem, d)) s

def execHighWordWrite (m off : Nat) (val : Word) (s : State) : Host.Outcome State Fault Refusal :=
  onMem (fun mem d => if wideWord off true then regWrite mem d m off 4 val [] else (mem, d)) s

/-- SMBUS_WRITE and SMBUS_READ (R535, R536). -/
def execSmbusWrite (cmd off count : Nat) (val : Word) (pecOk : Bool) (s : State) : Host.Outcome State Fault Refusal :=
  onMem (fun mem d => smbWrite mem d cmd off count val pecOk) s

def execSmbusRead (cmd off : Nat) (s : State) : Host.Outcome State Fault Refusal := onMem (fun mem d => smbRead mem d cmd off) s

end Sys2Proof.Machine
end

