-- ==== Sys2Proof/Machine/Boot.lean ====
section
/-! DEFINITION. The commands of reset, start-up and the reference clocks (R449 to R473, R526 to R540). -/

namespace Sys2Proof.Machine

/-- COLD_START (R449, R531). -/
def execColdStart (x : ColdIn) (s : State) : Host.Outcome State Fault Refusal :=
  onMem (fun _ d => coldStart d x) s

/-- DEVICE_RESET (R449). -/
def execDeviceReset (s : State) : Host.Outcome State Fault Refusal :=
  onMem (fun _ d => resetAll d false) s

/-- ID_RESET (R450). -/
def execIdReset (m : Nat) (val : Word) (s : State) : Host.Outcome State Fault Refusal := onMem (writeReg .ID_RESET 0 0 m val.toNat []) s

/-- PCIE_RESET (R449). -/
def execPcieReset (s : State) : Host.Outcome State Fault Refusal := onDev (fun _ d => d.pcieReset) s

/-- PLL_LOCK (R451). -/
def execPllLock (s : State) : Host.Outcome State Fault Refusal := onDev (fun _ d => d.pllLock) s

/-- FUSE_LOAD_DONE (R454). -/
def execFuseLoadDone (f : FuseIn) (s : State) : Host.Outcome State Fault Refusal := onDev (fun _ d => d.fuseLoadDone f) s

/-- FIRMWARE_VERIFY_DONE (R457). -/
def execFirmwareVerifyDone (f : FlashIn) (s : State) : Host.Outcome State Fault Refusal := onDev (fun _ d => d.firmwareVerifyDone f) s

/-- IMAGE_LOAD_DONE (R462). -/
def execImageLoadDone (a b : Option ImageIn) (s : State) : Host.Outcome State Fault Refusal :=
  onMem (fun mem d => imageLoadDone mem d a b) s

/-- POWER_UP_DONE (R465). -/
def execPowerUpDone (s : State) : Host.Outcome State Fault Refusal := onDev (fun _ d => d.powerUpDone) s

/-- TIME_ACQUIRED (R466). -/
def execTimeAcquired (s : State) : Host.Outcome State Fault Refusal := onDev (fun _ d => d.timeAcquired) s

/-- TIME_TIMEOUT (R466). -/
def execTimeTimeout (s : State) : Host.Outcome State Fault Refusal := onDev (fun _ d => d.timeTimeout) s

/-- RELEASE (R467). -/
def execHoldRelease (m : Nat) (val : Word) (s : State) : Host.Outcome State Fault Refusal := onMem (writeReg .ID_BOOT_CTRL 0 0 m (setBit val 31) []) s

/-- HOLD_EXPIRY (R467). -/
def execHoldExpiry (s : State) : Host.Outcome State Fault Refusal := onDev (fun _ d => d.endHold) s

/-- ENTER_SERVICE (R468). -/
def execEnterService (seed : Nat) (s : State) : Host.Outcome State Fault Refusal := onDev (fun _ d => d.enterService seed) s

/-- SPI_GO (R470). -/
def execSpiGo (m : Nat) (val : Word) (s : State) : Host.Outcome State Fault Refusal := onMem (writeReg .ID_SPI_CMD 0 0 m (setBit val 31) []) s

/-- SPI_DONE (R470). -/
def execSpiDone (answered : Bool) (data : List Byte) (s : State) : Host.Outcome State Fault Refusal := onDev (fun _ d => d.spiDone answered data) s

/-- UNDERVOLTAGE_LOCKOUT (R526): every rail is removed, and the device stays in reset until the next cold start. -/
def execUndervoltageLockout (s : State) : Host.Outcome State Fault Refusal :=
  onMem (fun _ d => lockout d) s

/-- PWRGD_LOW (R528): reset, held until PWRGD rises. -/
def execPwrgdLow (s : State) : Host.Outcome State Fault Refusal :=
  onMem (fun _ d => resetAll d true) s

/-- TREF_LOST (R530). -/
def execTrefLost (s : State) : Host.Outcome State Fault Refusal := onDev (awake fun _ d => d.trefLost) s

/-- TREF_RETURN (R530). -/
def execTrefReturn (s : State) : Host.Outcome State Fault Refusal := onDev (awake fun _ d => d.trefReturn) s

/-- REFCLK_LOST (R530). -/
def execRefclkLost (which tile : Nat) (s : State) : Host.Outcome State Fault Refusal :=
  onMem (awakeMem fun mem d => refclkLost mem d which tile) s

/-- JTAG_INSTRUCTION (R540). -/
def execJtagInstruction (opcode : Nat) (s : State) : Host.Outcome State Fault Refusal :=
  onMem (fun mem d => jtagLoad mem d opcode) s

end Sys2Proof.Machine
end

