-- ==== Sys2Proof/Machine/Clock.lean ====
section
/-! DEFINITION. The commands of the time base: rate, slew, steps, states, stamps, pins and alarms (R119 to R165). -/

namespace Sys2Proof.Machine

/-- TIME_TICK (R119): `n` ticks of the time clock. -/
def execTimeTick (n : Nat) (s : State) : Host.Outcome State Fault Refusal := onDev (awake fun _ d => d.advance n) s

/-- TIME_RATE_WRITE (R120). -/
def execTimeRateWrite (m : Nat) (lo hi : Word) (s : State) : Host.Outcome State Fault Refusal := onMem (writePair .TIME_RATE m lo hi) s

/-- TIME_SLEW_WRITE (R121). -/
def execTimeSlewWrite (m : Nat) (val : Word) (s : State) : Host.Outcome State Fault Refusal := onMem (writeReg .TIME_SLEW 0 0 m val.toNat []) s

/-- TIME_SLEW_RATE_WRITE (R121). -/
def execTimeSlewRateWrite (m : Nat) (val : Word) (s : State) : Host.Outcome State Fault Refusal := onMem (writeReg .TIME_SLEW_RATE 0 0 m val.toNat []) s

/-- SLEW_COMPLETE (R121). -/
def execSlewComplete (s : State) : Host.Outcome State Fault Refusal := onDev (fun _ d => d.slewComplete) s

/-- TIME_NOW_NS_READ (R123). -/
def execTimeNowNsRead (m : Nat) (s : State) : Host.Outcome State Fault Refusal := onMem (readReg .TIME_NOW_NS 0 0 m) s

/-- TIME_STEP_GO (R124): a write of TIME_STEP_CTRL with GO and without NEW_EPOCH. -/
def execTimeStepGo (m : Nat) (val : Word) (s : State) : Host.Outcome State Fault Refusal := onMem (writeReg .TIME_STEP_CTRL 0 0 m (setBit (word (clearBit val 30)) 31) []) s

/-- NEW_EPOCH (R126): a write of TIME_STEP_CTRL with NEW_EPOCH. -/
def execNewEpoch (m : Nat) (val : Word) (seed : Nat) (s : State) : Host.Outcome State Fault Refusal := onMem (writeReg .TIME_STEP_CTRL 0 0 m (setBit val 30) [seed]) s

/-- STEP_TICK (R127). -/
def execStepTick (seed : Nat) (s : State) : Host.Outcome State Fault Refusal := onDev (fun _ d => d.stepTick seed) s

/-- STEP_MARK_CLEAR (R127). -/
def execStepMarkClear (s : State) : Host.Outcome State Fault Refusal := onDev (fun _ d => d.stepMarkClear) s

/-- STATE_REQ_LOCKED (R128). -/
def execStateReqLocked (m : Nat) (val : Word) (s : State) : Host.Outcome State Fault Refusal := onMem (writeReg .TIME_CTRL 0 0 m (2 ^ 30 + val.toNat % 2 ^ 30) []) s

/-- STATE_REQ_HOLDOVER (R128). -/
def execStateReqHoldover (m : Nat) (val : Word) (s : State) : Host.Outcome State Fault Refusal := onMem (writeReg .TIME_CTRL 0 0 m (2 ^ 31 + val.toNat % 2 ^ 30) []) s

/-- WDOG (R128). -/
def execWdog (s : State) : Host.Outcome State Fault Refusal := onDev (fun _ d => d.watchdog) s

/-- TIME_ERR_BASE_WRITE (R129). -/
def execTimeErrBaseWrite (m : Nat) (val : Word) (s : State) : Host.Outcome State Fault Refusal := onMem (writeReg .TIME_ERR_BASE 0 0 m val.toNat []) s

/-- ERR_BOUND_UPDATE (R129). -/
def execErrBoundUpdate (s : State) : Host.Outcome State Fault Refusal := onDev (fun _ d => d.errUpdate) s

/-- RESIDENCE_ENTRY_TIMEOUT (R141). -/
def execResidenceEntryTimeout (p : Nat) (s : State) : Host.Outcome State Fault Refusal := onDev (fun _ d => d.residenceTimeout p) s

/-- TIME_TXQ_POP (R148). -/
def execTimeTxqPop (m p : Nat) (s : State) : Host.Outcome State Fault Refusal := onMem (readReg .TIME_TXQ_POP_LO p 0 m) s

/-- TXQ_ENTRY_AGED (R149). -/
def execTxqEntryAged (p : Nat) (s : State) : Host.Outcome State Fault Refusal := onDev (fun _ d => d.txqAged p) s

/-- TXQ_FLUSH (R165). -/
def execTxqFlush (m p : Nat) (val : Word) (s : State) : Host.Outcome State Fault Refusal := onMem (writeReg .TIME_TXQ_CTRL p 0 m (setBit val 31) []) s

/-- PIN_ARM (R152). -/
def execPinArm (m n : Nat) (val : Word) (s : State) : Host.Outcome State Fault Refusal := onMem (writeReg .TIME_PIN_CFG n 0 m (setBit val 24) []) s

/-- PIN_FIRE (R150). -/
def execPinFire (n : Nat) (s : State) : Host.Outcome State Fault Refusal := onDev (fun _ d => d.pinFire n) s

/-- PPS_EDGE (R150). -/
def execPpsEdge (n : Nat) (s : State) : Host.Outcome State Fault Refusal := onDev (awake fun _ d => d.ppsEdge n) s

/-- PIN_CAPTURE (R151). -/
def execPinCapture (n : Nat) (rising : Bool) (s : State) : Host.Outcome State Fault Refusal := onDev (awake fun _ d => d.pinCapture n rising) s

/-- PIN_CAP_POP (R163). -/
def execPinCapPop (m n : Nat) (s : State) : Host.Outcome State Fault Refusal := onMem (readReg .TIME_PIN_CAP_NS n 0 m) s

/-- ALARM_ENABLE (R154). -/
def execAlarmEnable (m a : Nat) (val : Word) (s : State) : Host.Outcome State Fault Refusal := onMem (writeReg .TIME_ALARM_CFG a 0 m (setBit val 31) []) s

/-- ALARM_RELEASE (R154). -/
def execAlarmRelease (m a : Nat) (val : Word) (s : State) : Host.Outcome State Fault Refusal := onMem (writeReg .TIME_ALARM_CFG a 0 m (clearBit val 31) []) s

/-- ALARM_FIRE (R154). -/
def execAlarmFire (a : Nat) (s : State) : Host.Outcome State Fault Refusal := onDev (fun _ d => d.alarmFire a) s

end Sys2Proof.Machine
end

