-- ==== Sys2Proof/Machine/Control.lean ====
section
/-! DEFINITION. The commands of the control plane: violations, Batons, mailboxes, scratchpad and firmware (R412 to R448). -/

namespace Sys2Proof.Machine

/-- The requests to a Baton in one management cycle: readers and a releaser whose accesses the stage or their state turns
away complete with an error, and the rest are taken in the order of R423. -/
def Dev.batonCycle (d : Dev) (n : Nat) (release : Option Nat) (readers : Readers) : Dev :=
  let off := Reg.off .BAT n
  let rs := readers.eraseDups.filter issues
  let able := rs.filter fun m => d.bootAllows m false off && !d.turnedAway m
  let e := d.each (rs.filter fun m => !able.contains m) fun d m => d.done m (if d.turnedAway m then .aborted else .unsupported)
  let go := release.filter issues
  match go.filter fun m => d.turnedAway m || !d.bootAllows m true off with
  | some m => (e.done m (if d.turnedAway m then .aborted else .unsupported)).batonRead n none able
  | none => e.batonRead n go able

/-- A doorbell, after the receiver's read of the last word in the same cycle (R429). -/
def doorbell (mem : Mem) (d : Dev) (m c : Nat) (val : Word) (readFirst : Bool) : Mem × Dev :=
  let a := (d.mbSide c m).getD true
  let x := d.mbDir (mbOut c a)
  let r := if readFirst && x.full then readReg .MB_DATA c (x.len - 1) (d.mbMaster c !a) mem d else (mem, d)
  writeReg .MB_DOORBELL c 0 m val.toNat [] r.1 r.2

/-- An access to the scratchpad window, which waited for `waited` others (R434). -/
def scratchpad (mem : Mem) (d : Dev) (m off : Nat) (write : Option Word) (waited : Nat) : Mem × Dev :=
  if !issues m || !inSpd (unalias off) then (mem, d) else
  match d.checkAccess m (write.map (·.toNat)) off 4 with
  | some d => (mem, d)
  | none => spdAccess mem d m (unalias off) write waited

/-- CTL_THAW (R418). -/
def execCtlThaw (m : Nat) (val : Word) (s : State) : Host.Outcome State Fault Refusal := onMem (writeReg .CTL_THAW 0 0 m val.toNat []) s

/-- CTL_MASTER_RESET (R419). -/
def execCtlMasterReset (m : Nat) (val : Word) (s : State) : Host.Outcome State Fault Refusal := onMem (writeReg .CTL_MASTER_RESET 0 0 m val.toNat []) s

/-- CTL_VLOG_POP (R420). -/
def execCtlVlogPop (m : Nat) (s : State) : Host.Outcome State Fault Refusal := onMem (readReg .CTL_VLOG_POP0 0 0 m) s

/-- BATON_READ (R421, R423). -/
def execBatonRead (n : Nat) (release : Option Nat) (readers : Readers) (s : State) : Host.Outcome State Fault Refusal := onDev (fun _ d => d.batonCycle n release readers) s

/-- BATON_RELEASE (R424). -/
def execBatonRelease (m n : Nat) (val : Word) (s : State) : Host.Outcome State Fault Refusal := onMem (writeReg .BAT n 0 m val.toNat []) s

/-- BATON_PEEK (R425). -/
def execBatonPeek (m n : Nat) (s : State) : Host.Outcome State Fault Refusal := onMem (readReg .BAT_PEEK n 0 m) s

/-- MB_DATA_WRITE (R428). -/
def execMbDataWrite (m c i : Nat) (val : Word) (s : State) : Host.Outcome State Fault Refusal := onMem (writeReg .MB_DATA c i m val.toNat []) s

/-- MB_DOORBELL (R428, R429). -/
def execMbDoorbell (m c : Nat) (val : Word) (readFirst : Bool) (s : State) : Host.Outcome State Fault Refusal :=
  onMem (fun mem d => doorbell mem d m c val readFirst) s

/-- MB_DATA_READ (R429). -/
def execMbDataRead (m c i : Nat) (s : State) : Host.Outcome State Fault Refusal := onMem (readReg .MB_DATA c i m) s

/-- SPD_OWNER_WRITE (R433). -/
def execSpdOwnerWrite (m b : Nat) (val : Word) (s : State) : Host.Outcome State Fault Refusal := onMem (writeReg .SPD_BANK_CFG b 0 m val.toNat []) s

/-- SCRATCHPAD_ACCESS (R434). -/
def execScratchpadAccess (m off : Nat) (write : Option Word) (waited : Nat) (s : State) : Host.Outcome State Fault Refusal :=
  onMem (fun mem d => scratchpad mem d m off write waited) s

/-- PSTATE_WRITE (R435). -/
def execPstateWrite (m b : Nat) (val : Word) (s : State) : Host.Outcome State Fault Refusal := onMem (writeReg .SPD_BANK_CFG b 0 m val.toNat []) s

/-- BANK_WAKE_DONE (R435). -/
def execBankWakeDone (b : Nat) (s : State) : Host.Outcome State Fault Refusal := onDev (fun _ d => d.bankWakeDone b) s

/-- LEND (R437). -/
def execLend (m b : Nat) (val : Word) (s : State) : Host.Outcome State Fault Refusal := onMem (writeReg .SPD_BANK_CFG b 0 m (setBit val 29) []) s

/-- RECLAIM (R437). -/
def execReclaim (m b : Nat) (val : Word) (s : State) : Host.Outcome State Fault Refusal := onMem (writeReg .SPD_BANK_CFG b 0 m (clearBit val 29) []) s

/-- BIST_PASS_DONE (R437). -/
def execBistPassDone (b : Nat) (failCol : Option Nat) (s : State) : Host.Outcome State Fault Refusal := onDev (fun _ d => d.bistPassDone b failCol) s

/-- CTL_FW_GO (R440). -/
def execCtlFwGo (m : Nat) (val : Word) (s : State) : Host.Outcome State Fault Refusal := onMem (writeReg .CTL_FW_CTRL 0 0 m (setBit val 31) []) s

/-- FW_VERIFY_DONE (R440). -/
def execFwVerifyDone (s : State) : Host.Outcome State Fault Refusal := onDev (fun mem d => d.fwVerifyDone mem) s

/-- RUNNING_ACK (R440). -/
def execRunningAck (m : Nat) (s : State) : Host.Outcome State Fault Refusal := onMem (writeReg .CTL_FW_CONFIRM 0 0 m 1 []) s

/-- RUNNING_ACK_TIMEOUT (R440). -/
def execRunningAckTimeout (s : State) : Host.Outcome State Fault Refusal := onDev (fun _ d => d.runningAckTimeout) s

/-- CONFIRM (R441). -/
def execFwConfirm (m : Nat) (s : State) : Host.Outcome State Fault Refusal := onMem (writeReg .CTL_FW_CONFIRM 0 0 m 2 []) s

/-- CONFIRM_TIMEOUT (R441). -/
def execConfirmTimeout (s : State) : Host.Outcome State Fault Refusal := onDev (fun _ d => d.confirmTimeout) s

/-- RESTART (R442). -/
def execCpRestart (m : Nat) (val : Word) (s : State) : Host.Outcome State Fault Refusal := onMem (writeReg .CTL_CP_CTRL 0 0 m val.toNat []) s

/-- CTL_LOCK_SET (R427). -/
def execCtlLockSet (m : Nat) (val : Word) (s : State) : Host.Outcome State Fault Refusal := onMem (writeReg .CTL_LOCK 0 0 m (setBit val 0) []) s

end Sys2Proof.Machine
end

