-- ==== Sys2Proof/Machine/Frames.lean ====
section
/-! DEFINITION. The commands of the frame path: arrival, Hurdle, buffer, merge, launch, egress, spill and notices (R22 to R118, R166 to
R193, R304 to R329). -/

namespace Sys2Proof.Machine

/-- A MAC control frame of a front-panel port: before stage 0x6 it is discarded and counted (R453). -/
def Dev.macFrame (d : Dev) (e : Nat) (g : Dev → Dev) : Dev :=
  if 1024 ≤ e || !d.mayArrive e then d
  else if !d.serving then d.setQ .ID_BOOT_DISCARD (d.q .ID_BOOT_DISCARD + 1)
  else g d

/-- Does an offset name a Pacer's register, or a meter's? -/
def isPacerReg (off : Nat) : Bool :=
  match ((lookupReg (unalias off)).map (fun h => h.reg) : Option Reg) with
  | some .PIPE_QPACER_RATE | some .PIPE_QPACER_BURST | some .PIPE_PPACER_RATE | some .PIPE_PPACER_BURST => true
  | _ => false

def isMeterReg (off : Nat) : Bool :=
  match ((lookupReg (unalias off)).map (fun h => h.reg) : Option Reg) with
  | some .PIPE_METER_CFG | some .PIPE_METER_CIR | some .PIPE_METER_PIR | some .PIPE_METER_CBS | some .PIPE_METER_EBS_PBS
  | some .PIPE_METER_DSCP => true
  | _ => false

/-- FRAME_RECEIVE (R22, R241). -/
def execFrameReceive (f : FrameIn) (s : State) : Host.Outcome State Fault Refusal :=
  onMem (awakeMem fun mem d => frameArrives mem d f) s

/-- PFC_FRAME_RECEIVE (R316). -/
def execPfcFrameReceive (e enables : Nat) (times : List Nat) (s : State) : Host.Outcome State Fault Refusal := onDev (fun _ d => d.macFrame e fun d => d.pfcReceive e enables times) s

/-- PAUSE_RX (R317). -/
def execPauseRx (e : Nat) (s : State) : Host.Outcome State Fault Refusal := onDev (fun _ d => d.macFrame e fun d => d.pauseRx e) s

/-- PAUSE_EXPIRY (R316). -/
def execPauseExpiry (e k : Nat) (s : State) : Host.Outcome State Fault Refusal := onDev (fun _ d => d.pauseExpiry e k) s

/-- HBM_LOOKUP_RETURN (R280). -/
def execHbmLookupReturn (fid bad : Nat) (s : State) : Host.Outcome State Fault Refusal := onDev (fun mem d => d.hbmReturn mem fid bad) s

/-- HBM_LOOKUP_SHED (R280). -/
def execHbmLookupShed (fid : Nat) (s : State) : Host.Outcome State Fault Refusal := onDev (fun mem d => d.hbmShed mem fid) s

/-- ALIGN_RELEASE (R57). -/
def execAlignRelease (p : Nat) (s : State) : Host.Outcome State Fault Refusal := onDev (fun _ d => d.alignRelease p) s

/-- HURDLE_BATCH (R56). -/
def execHurdleBatch (s : State) : Host.Outcome State Fault Refusal := onDev (fun _ d => d.hurdleBatch) s

/-- BUFFER_WRITE (R91). -/
def execBufferWrite (cid pick : Nat) (s : State) : Host.Outcome State Fault Refusal := onDev (fun _ d => d.bufferWrite cid pick) s

/-- ENQUEUE_OVERFLOW_LINK (R81). -/
def execEnqueueOverflowLink (q : Nat) (s : State) : Host.Outcome State Fault Refusal := onDev (fun _ d => d.linkOverflow q) s

/-- MERGE_FIFO_ENTRY (R169). -/
def execMergeFifoEntry (cid : Nat) (s : State) : Host.Outcome State Fault Refusal := onDev (fun _ d => d.mergeFifoEntry cid) s

/-- MERGE_RELEASE (R171). -/
def execMergeRelease (s : State) : Host.Outcome State Fault Refusal := onDev (fun _ d => d.mergeRelease) s

/-- LAUNCH_ELIGIBLE (R181). -/
def execLaunchEligible (cid : Nat) (s : State) : Host.Outcome State Fault Refusal := onDev (fun _ d => d.launchEligible cid) s

/-- LAUNCH (R181). -/
def execLaunch (cid : Nat) (s : State) : Host.Outcome State Fault Refusal := onDev (fun _ d => d.launch cid) s

/-- READ_MATCHING (R87). -/
def execReadMatching (s : State) : Host.Outcome State Fault Refusal := onDev (fun _ d => d.readMatching) s

/-- BANK_READ (R88). -/
def execBankRead (bank ptr ecc : Nat) (s : State) : Host.Outcome State Fault Refusal := onDev (fun _ d => d.bankRead bank ptr ecc) s

/-- QUEUE_SELECT (R306). -/
def execQueueSelect (q draw : Nat) (s : State) : Host.Outcome State Fault Refusal := onDev (fun _ d => d.queueSelect q draw) s

/-- AGEING_PASS (R104). -/
def execAgeingPass (s : State) : Host.Outcome State Fault Refusal := onDev (fun _ d => d.ageingPass) s

/-- TIMED_HEAD_CHECK (R60). -/
def execTimedHeadCheck (s : State) : Host.Outcome State Fault Refusal := onDev (fun _ d => d.timedHeadCheck) s

/-- TRANSMIT_START (R307). -/
def execTransmitStart (e : Nat) (s : State) : Host.Outcome State Fault Refusal := onDev (fun _ d => d.transmitStart e) s

/-- PREEMPT_FRAME (R307). -/
def execPreemptFrame (e : Nat) (s : State) : Host.Outcome State Fault Refusal := onDev (fun _ d => d.preemptFrame e) s

/-- COPY_DEPARTURE (R36). -/
def execCopyDeparture (cid : Nat) (s : State) : Host.Outcome State Fault Refusal := onDev (fun _ d => d.copyDeparture cid) s

/-- PFC_REFRESH (R318). -/
def execPfcRefresh (i k : Nat) (s : State) : Host.Outcome State Fault Refusal := onDev (fun _ d => d.pfcRefresh i k) s

/-- BAD_TAIL (R106). -/
def execBadTail (x : BadFrame) (s : State) : Host.Outcome State Fault Refusal := onDev (fun _ d => d.badTail x.fid x.frag) s

/-- FRAME_NOT_ACCEPTED (R107). -/
def execFrameNotAccepted (x : BadFrame) (s : State) : Host.Outcome State Fault Refusal := onDev (fun _ d => d.frameNotAccepted x.fid x.frag) s

/-- DISCARD_WALK (R81). -/
def execDiscardWalk (p : Nat) (s : State) : Host.Outcome State Fault Refusal := onDev (fun _ d => d.discardWalk p) s

/-- LINK_HOLD_EXPIRY (R108). -/
def execLinkHoldExpiry (e : Nat) (s : State) : Host.Outcome State Fault Refusal := onDev (fun _ d => d.linkHoldExpiry e) s

/-- NOTICE_SEND (R63). -/
def execNoticeSend (s : State) : Host.Outcome State Fault Refusal := onDev (fun _ d => d.noticeSend) s

/-- RECENT_CLEAR_PASS (R65). -/
def execRecentClearPass (s : State) : Host.Outcome State Fault Refusal := onDev (fun _ d => d.recentPass) s

/-- ADM_PIPE_DERATE_WRITE (R62). -/
def execAdmPipeDerateWrite (m p : Nat) (val : Word) (s : State) : Host.Outcome State Fault Refusal := onMem (writeReg .ADM_PIPE_DERATE p 0 m val.toNat []) s

/-- BUF_ALLOC_REQ (R96). -/
def execBufAllocReq (m : Nat) (val : Word) (pick : Nat) (s : State) : Host.Outcome State Fault Refusal := onMem (writeReg .BUF_ALLOC_REQ 0 0 m val.toNat [pick]) s

/-- BUF_ALLOC_RESP (R99). -/
def execBufAllocResp (m : Nat) (s : State) : Host.Outcome State Fault Refusal := onMem (readReg .BUF_ALLOC_RESP 0 0 m) s

/-- BUF_FREE (R98). -/
def execBufFree (m : Nat) (val : Word) (s : State) : Host.Outcome State Fault Refusal := onMem (writeReg .BUF_FREE 0 0 m val.toNat []) s

/-- SPILL_PAGE_WRITE (R101). -/
def execSpillPageWrite (q pick : Nat) (s : State) : Host.Outcome State Fault Refusal := onDev (fun _ d => d.spillPageWrite q pick) s

/-- SPILL_REFILL (R103). -/
def execSpillRefill (q : Nat) (bad : List Nat) (pick : Nat) (s : State) : Host.Outcome State Fault Refusal := onDev (fun _ d => d.spillRefill q bad pick) s

/-- RECLAIM_PASS (R351). -/
def execReclaimPass (s : State) : Host.Outcome State Fault Refusal := onDev (fun _ d => d.reclaimPass) s

/-- PACER_WRITE (R311): a write of a Pacer register. -/
def execPacerWrite (m off : Nat) (val : Word) (s : State) : Host.Outcome State Fault Refusal :=
  onMem (fun mem d => if isPacerReg off then regWrite mem d m off 4 val [] else (mem, d)) s

/-- METER_WRITE (R313): a write of a meter register. -/
def execMeterWrite (m off : Nat) (val : Word) (s : State) : Host.Outcome State Fault Refusal :=
  onMem (fun mem d => if isMeterReg off then regWrite mem d m off 4 val [] else (mem, d)) s

end Sys2Proof.Machine
end

