-- ==== Sys2Proof/Machine/Receipts.lean ====
section
/-! DEFINITION. The receipt streams of the partitions (R211 to R213): their datagrams, resends, acknowledgements and seal
frames. -/

namespace Sys2Proof.Machine

/-- Where a stream's datagrams go, and what they carry (R231); `free` holds the tag's priority, which no rule states
(assumption 113, DESIGN CHOICE). -/
def Dev.streamTo (d : Dev) (k free : Nat) : UdpTo :=
  let v6 := d.on F.EV_STR_CFG_IPV6 k
  let addr := fun (r : Reg) => (upto (if v6 then 4 else 1)).flatMap fun i => be 4 (d.get r k i).toNat
  { dstMac := be 2 (d.f F.EV_STR_MAC_HI_MAC_HI k) ++ be 4 (d.f F.EV_STR_MAC_LO_MAC_LO k),
    tag := if d.on F.EV_STR_MAC_HI_VLAN_EN k then be 2 0x8100 ++ be 2 (free % 16 * 4096 + d.f F.EV_STR_MAC_HI_VID k) else [],
    ver := if v6 then 6 else 4, srcIp := addr .EV_STR_SRC_IP, dstIp := addr .EV_STR_DST_IP,
    srcPort := d.f F.EV_STR_UDP_SPORT k, dstPort := d.f F.EV_STR_UDP_DPORT k, dscp := 0, ttl := 64 }

/-- Send one receipt frame: the header of R211 and a body, as a datagram that enters on port 1027 for the stream's port and
class. -/
def Dev.sendReceipt (d : Dev) (k typ n : Nat) (epoch field16 : Nat) (body : List Byte) : Dev :=
  let seq := (d.stream k).frameSeq
  let hdr := be 1 1 ++ be 1 typ ++ be 1 k ++ be 1 n ++ be 4 d.devNum ++ be 4 epoch ++ be 4 seq ++ be 8 field16 ++
    be 8 (d.q .EV_PART_WRPOS k)
  let e := d.f F.EV_STR_CFG_PORT k
  let r := d.draw
  let bytes := udpFrame e (d.streamTo k (r.1 / 2 ^ 20)) r.1 (hdr ++ body)
  (r.2.builtFrame 1027 e (d.f F.EV_STR_CFG_CLASS k) bytes).updStream k fun x => { x with frameSeq := (seq + 1) % 2 ^ 32 }

/-- Records of a partition at positions `p` to `p + n − 1`, read through port JRN. -/
def Dev.jrnRead (d : Dev) (mem : Mem) (k p n : Nat) : List Byte :=
  (upto n).flatMap fun i => d.hbmRead mem 1 (d.jrnAddr k (p + i)) 64

/-- The end of what a stream may send now (R212). -/
def Dev.sendLimit (d : Dev) (k : Nat) : Nat :=
  let w := d.q .EV_PART_WRPOS k
  if d.on F.EV_STR_CFG_ACK_MODE k then
    min w ((d.stream k).ackPos + (d.stream k).window)
  else w

/-- A record lost on export to an uncorrectable word: a GAP frame, OVERWRITTEN, and GAP in the seal (R349). -/
def Dev.recordLost (d : Dev) (k p : Nat) : Dev :=
  ((d.updStream k fun x => { x with gaps := x.gaps ++ [(p, 1)] }).bumpQ .EV_PART_OVERWRITTEN k).onInterval fun i =>
    { i with gap := true, ovw := SMap.upd i.ovw k 0 (· + 1) }

/-- Send `c` records from position `p` in one frame, up to the first whose read finds an uncorrectable word, which is lost.
The answer says how many positions are done. -/
def Dev.exportRecords (d : Dev) (mem : Mem) (k p c : Nat) (bad : List Nat) : Dev × Nat :=
  let ok := ((upto c).takeWhile fun i => !(bad.contains (p + i) || d.knownBad (d.jrnAddr k (p + i)) 64)).length
  let d := d.askRead 1 (d.jrnAddr k p) (64 * min c (ok + 1)) k
  let d := if ok == 0 then d else d.sendReceipt k 1 ok (d.f F.TIME_EPOCH_EPOCH) p (d.jrnRead mem k p ok)
  if ok < c then (d.recordLost k (p + ok), ok + 1) else (d, c)

/-- The next frame of a stream: a GAP, a resend, or new records in position order (R211 to R213). Positions of a resend
overwritten by then are answered with a GAP. `bad` names the positions whose slot the read finds uncorrectable (R349). -/
def Dev.recordsSend (d : Dev) (mem : Mem) (k : Nat) (bad : List Nat) : Dev :=
  if !d.on F.EV_STR_CFG_EN k || k ≥ 64 then d else
  let st := d.stream k
  let epoch := d.f F.TIME_EPOCH_EPOCH
  match st.gaps, st.resend with
  | (p, n) :: rest, _ => (d.sendReceipt k 4 0 epoch p (be 8 n)).updStream k fun x => { x with gaps := rest }
  | [], (p, n) :: rest =>
    let lost := min n (d.q .EV_PART_WRPOS k - d.jrnCapacity k - p)
    let left := fun (c : Nat) (x : Stream) => { x with resend := if n ≤ c then rest else (p + c, n - c) :: rest }
    if lost != 0 then (d.sendReceipt k 4 0 epoch p (be 8 lost)).updStream k (left lost) else
    let r := d.exportRecords mem k p (min n 22) bad
    r.1.updStream k (left r.2)
  | [], [] =>
    let p := d.q .EV_STR_SENDPOS k
    let c := min 22 (d.sendLimit k - p)
    if c == 0 then d else
    let r := d.exportRecords mem k p c bad
    let d := r.1.setQ .EV_STR_SENDPOS (p + r.2) k
    if d.on F.EV_STR_CFG_ACK_MODE k then d else d.setQ .EV_PART_RELPOS (p + r.2) k

/-- The destination address of a stream. -/
def Dev.streamDst (d : Dev) (k : Nat) : Nat :=
  if d.on F.EV_STR_CFG_IPV6 k then ofBe ((upto 4).flatMap fun i => be 4 (d.get .EV_STR_DST_IP k i).toNat)
  else (d.get .EV_STR_DST_IP k 0).toNat

/-- Is a collector's message from the stream's destination, on its egress port (R213)? -/
def Dev.collectorOk (d : Dev) (k : Nat) (c : Collector) : Bool :=
  c.port == d.f F.EV_STR_CFG_PORT k && c.srcIp == d.streamDst k && c.srcPort == d.f F.EV_STR_UDP_DPORT k

def Dev.badAck (d : Dev) (k : Nat) : Dev := d.bump F.EV_STR_WINDOW_BAD_ACK k

/-- The partition a message of the form of R213 names, when its type byte is `typ`. -/
def collectorPart (c : Collector) (typ : Nat) : Option Nat :=
  if beAt c.body 0 1 == 1 && beAt c.body 1 1 == typ && beAt c.body 2 1 < 64 then some (beAt c.body 2 1) else none

/-- A collector's ACK (R213). The window granted has 32 bits; its register shows what 24 bits hold (assumption 127,
DESIGN CHOICE). -/
def Dev.ack (d : Dev) (c : Collector) : Dev :=
  match collectorPart c 0x81 with
  | none => d
  | some k =>
    let w := d.q .EV_PART_WRPOS k
    let p := beAt c.body 8 8
    if !d.collectorOk k c || w < p then d.badAck k
    else
      let r := d.q .EV_PART_RELPOS k
      let p := max p r
      let d := d.setF F.EV_STR_WINDOW_WINDOW (min (beAt c.body 4 4) (2 ^ 24 - 1)) k
      let d := d.updStream k fun x => { x with ackPos := p, window := beAt c.body 4 4 }
      if d.on F.EV_STR_CFG_ACK_MODE k then
        (d.setQ .EV_PART_RELPOS p k).setQ .EV_STR_SENDPOS (max p (d.q .EV_STR_SENDPOS k)) k
      else d

/-- A collector's RESEND (R213): positions still in the ring are queued, overwritten ones answered with a GAP. -/
def Dev.resend (d : Dev) (c : Collector) : Dev :=
  match collectorPart c 0x82 with
  | none => d
  | some k =>
    let w := d.q .EV_PART_WRPOS k
    let p := beAt c.body 8 8
    let n := beAt c.body 16 8
    if !d.collectorOk k c || w < p || n == 0 || 65536 < n then d.badAck k
    else
      let stop := min w (p + n)
      let first := max p (w - d.jrnCapacity k)
      let d := if p < first then d.updStream k fun x => { x with gaps := x.gaps ++ [(p, min first stop - p)] } else d
      if first < stop then d.updStream k fun x => { x with resend := x.resend ++ [(first, stop - first)] } else d

/-! ### Seal frames -/

/-- Send the frames of the oldest seal due on a stream: SEAL and both ROOTS (R211). They wait during a warm firmware
switch. A seal whose read ends with an error (R349) is not sent on the stream, which goes on to the next (assumption 134,
DESIGN CHOICE). -/
def Dev.sealFrameSend (d : Dev) (mem : Mem) (k : Nat) (bad : Bool) : Dev :=
  let st := d.stream k
  match st.sealsDue with
  | [] => d
  | (slot, num, epoch) :: rest =>
    if d.f F.CTL_FW_STATUS_STATE == 2 || !d.on F.EV_STR_CFG_EN k then d else
    let a := journalBase + 72 * 2 ^ 20 + slot * 4096
    let sl := d.hbmRead mem 1 a 256
    let sums := (upto 64).map fun j => d.hbmRead mem 1 (a + 256 + 48 * j) 48
    let mask := beAt sl 72 8
    let roots := fun h => (upto 32).flatMap fun j => if bit mask (32 * h + j) then (sums.getD (32 * h + j) []).take 32 else []
    let d := d.askRead 1 a 4096
    let d := if bad || d.knownBad a 4096 then d else
      let d := d.sendReceipt k 2 0 epoch num (sl ++ sums.getD k [])
      let d := d.sendReceipt k 3 0 epoch num (be 8 mask ++ roots 0)
      d.sendReceipt k 3 1 epoch num (be 8 mask ++ roots 1)
    d.updStream k fun x => { x with sealsDue := rest }

end Sys2Proof.Machine
end

