-- ==== Sys2Proof/Machine/Journal.lean ====
section
/-! DEFINITION. The commands of the evidence engines: sessions, records, receipts, seals and attestation (R194 to R231). -/

namespace Sys2Proof.Machine

/-- SESS_READ (R197). -/
def execSessRead (m : Nat) (s : State) : Host.Outcome State Fault Refusal := onMem (writeReg .EV_SESS_CMD 0 0 m 1 []) s

/-- SESS_WRITE (R197). -/
def execSessWrite (m : Nat) (s : State) : Host.Outcome State Fault Refusal := onMem (writeReg .EV_SESS_CMD 0 0 m 2 []) s

/-- SESS_CLEAR (R197). -/
def execSessClear (m : Nat) (s : State) : Host.Outcome State Fault Refusal := onMem (writeReg .EV_SESS_CMD 0 0 m 3 []) s

/-- RECORD_NUMBERING (R206). -/
def execRecordNumbering (s : State) : Host.Outcome State Fault Refusal := onDev (fun _ d => d.numberRecord) s

/-- RECORDS_SEND (R212). -/
def execRecordsSend (x : StreamSend) (s : State) : Host.Outcome State Fault Refusal := onDev (fun mem d => d.recordsSend mem x.k x.bad) s

/-- ACK (R213). -/
def execAck (c : Collector) (s : State) : Host.Outcome State Fault Refusal := onDev (fun _ d => d.ack c) s

/-- RESEND (R213). -/
def execResend (c : Collector) (s : State) : Host.Outcome State Fault Refusal := onDev (fun _ d => d.resend c) s

/-- SEAL_CLOSE (R214). -/
def execSealClose (seed : Nat) (s : State) : Host.Outcome State Fault Refusal := onDev (fun _ d => d.sealClose seed) s

/-- SEAL_FRAME_SEND (R211). -/
def execSealFrameSend (x : SealSend) (s : State) : Host.Outcome State Fault Refusal := onDev (fun mem d => d.sealFrameSend mem x.k x.bad) s

/-- EV_ENABLE (R215). -/
def execEvEnable (m seed : Nat) (s : State) : Host.Outcome State Fault Refusal := onMem (writeReg .EV_CTRL 0 0 m 1 [seed]) s

/-- EV_DISABLE (R215). -/
def execEvDisable (m seed : Nat) (s : State) : Host.Outcome State Fault Refusal := onMem (writeReg .EV_CTRL 0 0 m 0 [seed]) s

/-- MEASUREMENT_CHANGE (R220). -/
def execMeasurementChange (seed : Nat) (s : State) : Host.Outcome State Fault Refusal := onDev (fun _ d => d.measurementChange seed) s

/-- ATTEST_GO (R223). -/
def execAttestGo (m : Nat) (val : Word) (s : State) : Host.Outcome State Fault Refusal := onMem (writeReg .EV_ATTEST_CTRL 0 0 m (setBit val 31) []) s

/-- ATTEST_DONE (R223). -/
def execAttestDone (s : State) : Host.Outcome State Fault Refusal := onDev (fun _ d => d.attestDone) s

end Sys2Proof.Machine
end

