-- ==== Sys2Proof/Machine/LinkMsgs.lean ====
section
/-! DEFINITION. The commands of the Ivgon link (R382 to R411). -/

namespace Sys2Proof.Machine

/-- IVL_SYMBOL_LOCK (R384). -/
def execIvlSymbolLock (k : Nat) (s : State) : Host.Outcome State Fault Refusal := onDev (fun _ d => d.ivlSymbolLock k) s

/-- IVL_LOCK_TIMEOUT (R384). -/
def execIvlLockTimeout (k : Nat) (s : State) : Host.Outcome State Fault Refusal := onDev (fun _ d => d.ivlLockTimeout k) s

/-- IVL_TRAINING_COMPLETE (R385). -/
def execIvlTrainingComplete (k invMask : Nat) (reversed : Bool) (skew : Nat) (s : State) : Host.Outcome State Fault Refusal := onDev (fun _ d => d.ivlTrained k invMask reversed skew) s

/-- IVL_TRAIN_TIMEOUT (R384). -/
def execIvlTrainTimeout (k : Nat) (s : State) : Host.Outcome State Fault Refusal := onDev (fun _ d => d.ivlTrainTimeout k) s

/-- IVL_LINK_DOWN (R384). -/
def execIvlLinkDown (k : Nat) (s : State) : Host.Outcome State Fault Refusal := onDev (fun _ d => d.ivlLinkDown k) s

/-- IVL_SLEEP (R386). -/
def execIvlSleep (k : Nat) (s : State) : Host.Outcome State Fault Refusal := onDev (fun _ d => d.ivlSleep k) s

/-- IVL_WAKE (R386). -/
def execIvlWake (k : Nat) (s : State) : Host.Outcome State Fault Refusal := onDev (fun _ d => d.ivlWake k) s

/-- WAKE_TIMEOUT (R386). -/
def execWakeTimeout (k : Nat) (s : State) : Host.Outcome State Fault Refusal := onDev (fun _ d => d.wakeTimeout k) s

/-- IVL_RX_SLEEP (R386). -/
def execIvlRxSleep (k : Nat) (s : State) : Host.Outcome State Fault Refusal := onDev (fun _ d => d.ivlRxSleep k true) s

/-- IVL_RX_WAKE (R386). -/
def execIvlRxWake (k : Nat) (s : State) : Host.Outcome State Fault Refusal := onDev (fun _ d => d.ivlRxSleep k false) s

/-- SKIP_SET_RECEIVE (R383). -/
def execSkipSetReceive (k : Nat) (drift : SkipIn) (s : State) : Host.Outcome State Fault Refusal := onDev (fun _ d => d.skipSet k drift) s

/-- IVL_MESSAGE_RECEIVE (R389). -/
def execIvlMessageReceive (k : Nat) (bytes : List Byte) (path8 : Nat) (s : State) : Host.Outcome State Fault Refusal :=
  onMem (fun mem d => ivlMessage mem d k bytes path8) s

/-- IVL_ETH_RECEIVE (R390). -/
def execIvlEthReceive (e : Nat) (bytes : List Byte) (path8 : Nat) (s : State) : Host.Outcome State Fault Refusal :=
  onMem (fun mem d => ivlFrame mem d e bytes path8) s

/-- VERSION_SEND (R394). -/
def execVersionSend (k : Nat) (s : State) : Host.Outcome State Fault Refusal := onDev (fun _ d => d.versionSend k) s

/-- VERSION (R395). -/
def execVersion (k : Nat) (msg : IvlMsg) (s : State) : Host.Outcome State Fault Refusal :=
  onMem (fun mem d => ivlTyped mem d k 4 1 msg 0 0) s

/-- TT_REQ_SEND (R396). -/
def execTtReqSend (k : Nat) (s : State) : Host.Outcome State Fault Refusal := onDev (fun _ d => d.ttReqSend k) s

/-- TT_REQ (R396). -/
def execTtReq (k : Nat) (msg : IvlMsg) (path8 turn8 : Nat) (s : State) : Host.Outcome State Fault Refusal :=
  onMem (fun mem d => ivlTyped mem d k 1 1 msg path8 turn8) s

/-- TT_RESP (R398). -/
def execTtResp (k : Nat) (msg : IvlMsg) (path8 : Nat) (s : State) : Host.Outcome State Fault Refusal :=
  onMem (fun mem d => ivlTyped mem d k 1 2 msg path8 0) s

/-- TT_TIMEOUT (R396). -/
def execTtTimeout (k : Nat) (s : State) : Host.Outcome State Fault Refusal := onDev (fun _ d => d.ttTimeout k) s

/-- IVL_TT_POP (R410). -/
def execIvlTtPop (m k : Nat) (s : State) : Host.Outcome State Fault Refusal := onMem (readReg .IVL_TT_POP0 k 0 m) s

/-- REG_READ (R404). -/
def execIvlRegRead (k : Nat) (msg : IvlMsg) (s : State) : Host.Outcome State Fault Refusal :=
  onMem (fun mem d => ivlTyped mem d k 2 1 msg 0 0) s

/-- REG_WRITE (R404). -/
def execIvlRegWrite (k : Nat) (msg : IvlMsg) (s : State) : Host.Outcome State Fault Refusal :=
  onMem (fun mem d => ivlTyped mem d k 2 2 msg 0 0) s

/-- NAK (R405). -/
def execNak (k : Nat) (msg : IvlMsg) (s : State) : Host.Outcome State Fault Refusal :=
  onMem (fun mem d => ivlTyped mem d k 2 4 msg 0 0) s

/-- ECHO (R388). -/
def execEcho (k : Nat) (msg : IvlMsg) (s : State) : Host.Outcome State Fault Refusal :=
  onMem (fun mem d => ivlTyped mem d k 2 5 msg 0 0) s

/-- ECHO_REPLY (R388). -/
def execEchoReply (k : Nat) (msg : IvlMsg) (s : State) : Host.Outcome State Fault Refusal :=
  onMem (fun mem d => ivlTyped mem d k 2 6 msg 0 0) s

/-- ENV_DERATE (R403). -/
def execEnvDerate (arrival : Nat) (eth : Bool) (msg : IvlMsg) (s : State) : Host.Outcome State Fault Refusal := onMem (fun mem d => envArrives mem d arrival eth 1 msg) s

/-- ENV_LIFT (R403). -/
def execEnvLift (arrival : Nat) (eth : Bool) (msg : IvlMsg) (s : State) : Host.Outcome State Fault Refusal := onMem (fun mem d => envArrives mem d arrival eth 2 msg) s

/-- ENVELOPE_NOTICE_SEND (R402). -/
def execEnvelopeNoticeSend (s : State) : Host.Outcome State Fault Refusal := onDev (fun _ d => d.envelopeSend) s

/-- IVL_ENV_POP (R406). -/
def execIvlEnvPop (m : Nat) (s : State) : Host.Outcome State Fault Refusal := onMem (readReg .IVL_ENV_POP0 0 0 m) s

end Sys2Proof.Machine
end

