-- ==== Sys2Proof/Machine/Links.lean ====
section
/-! DEFINITION. The commands of the HBM controller, the lanes and the ports (R330 to R381). -/

namespace Sys2Proof.Machine

/-- HBM_COMMAND_SLOT (R337). -/
def execHbmCommandSlot (pc : Nat) (ecc : EccIn) (s : State) : Host.Outcome State Fault Refusal :=
  onMem (fun mem d => commandSlot mem d pc ecc.fixed ecc.bad) s

/-- SELF_REFRESH_ENTRY (R344). -/
def execSelfRefreshEntry (stk : Nat) (s : State) : Host.Outcome State Fault Refusal := onDev (fun _ d => d.selfRefreshEntry stk) s

/-- SELF_REFRESH_EXIT (R344). -/
def execSelfRefreshExit (stk : Nat) (s : State) : Host.Outcome State Fault Refusal := onDev (fun _ d => d.selfRefreshExit stk) s

/-- NEIGHBOUR_REFRESH (R346). -/
def execNeighbourRefresh (stk draw : Nat) (s : State) : Host.Outcome State Fault Refusal := onDev (awake fun _ d => d.neighbourRefresh stk draw) s

/-- SCRUB_PASS (R348). -/
def execScrubPass (granule : Nat) (ecc : EccIn) (s : State) : Host.Outcome State Fault Refusal := onDev (awake fun mem d => d.scrubPass mem granule ecc.fixed ecc.bad) s

/-- HBM_ZERO_FILL_DONE (R345). -/
def execHbmZeroFillDone (s : State) : Host.Outcome State Fault Refusal :=
  onMem (fun mem d => zeroFillDone mem d) s

/-- HBM_ERR_POP (R353). -/
def execHbmErrPop (m : Nat) (s : State) : Host.Outcome State Fault Refusal := onMem (readReg .HBM_ERR_POP0 0 0 m) s

/-- PORT_ENABLE (R361). -/
def execPortEnable (m e : Nat) (val : Word) (s : State) : Host.Outcome State Fault Refusal := onMem (writeReg .PORT_CFG e 0 m (setBit val 31) []) s

/-- PORT_DISABLE (R361). -/
def execPortDisable (m e : Nat) (val : Word) (s : State) : Host.Outcome State Fault Refusal := onMem (writeReg .PORT_CFG e 0 m (clearBit val 31) []) s

/-- AN_COMPLETE (R364). -/
def execAnComplete (e : Nat) (s : State) : Host.Outcome State Fault Refusal := onDev (fun _ d => d.anComplete e) s

/-- NO_COMMON (R364). -/
def execNoCommon (e : Nat) (s : State) : Host.Outcome State Fault Refusal := onDev (fun _ d => d.noCommon e) s

/-- TRAINING_COMPLETE (R364). -/
def execTrainingComplete (e : Nat) (swapped taps : List Nat) (s : State) : Host.Outcome State Fault Refusal := onDev (fun _ d => d.trainingComplete e swapped taps) s

/-- TRAIN_TIMEOUT (R364). -/
def execTrainTimeout (e : Nat) (s : State) : Host.Outcome State Fault Refusal := onDev (fun _ d => d.trainTimeout e) s

/-- LANE_LOCK_COMPLETE (R364). -/
def execLaneLockComplete (e : Nat) (lanes : List LaneIn) (s : State) : Host.Outcome State Fault Refusal := onDev (fun _ d => d.laneLockComplete e lanes) s

/-- LOCK_TIMEOUT (R364). -/
def execLockTimeout (e : Nat) (s : State) : Host.Outcome State Fault Refusal := onDev (fun _ d => d.lockTimeout e) s

/-- ALIGN_COMPLETE (R366). -/
def execAlignComplete (e map skew8 : Nat) (swapped : List Nat) (s : State) : Host.Outcome State Fault Refusal := onDev (fun _ d => d.alignComplete e map skew8 swapped) s

/-- ALIGN_TIMEOUT (R364). -/
def execAlignTimeout (e : Nat) (s : State) : Host.Outcome State Fault Refusal := onDev (fun _ d => d.alignTimeout e) s

/-- DEBOUNCE_EXPIRY (R367). -/
def execDebounceExpiry (e : Nat) (s : State) : Host.Outcome State Fault Refusal := onDev (fun _ d => d.debounceExpiry e) s

/-- FAULT_RECEIVED (R364). -/
def execFaultReceived (e : Nat) (remote lossOfAlign : Bool) (s : State) : Host.Outcome State Fault Refusal := onDev (fun _ d => d.faultReceived e remote lossOfAlign) s

/-- FAULT_CLEARED (R367). -/
def execFaultCleared (e : Nat) (s : State) : Host.Outcome State Fault Refusal := onDev (fun _ d => d.faultCleared e) s

/-- LINK_DOWN (R367). -/
def execLinkDown (e : Nat) (cause : LinkLoss) (s : State) : Host.Outcome State Fault Refusal := onDev (fun _ d => d.linkDown e cause) s

/-- FEC_DEGRADE_WINDOW (R363). -/
def execFecDegradeWindow (e corrCw uncorrCw corrSym : Nat) (s : State) : Host.Outcome State Fault Refusal := onDev (fun _ d => d.fecWindow e corrCw uncorrCw corrSym) s

/-- VERIFY_START (R369). -/
def execVerifyStart (e : Nat) (s : State) : Host.Outcome State Fault Refusal := onDev (fun _ d => d.verifyStart e) s

/-- VERIFY_RESPONSE (R369). -/
def execVerifyResponse (e : Nat) (s : State) : Host.Outcome State Fault Refusal := onDev (fun _ d => d.verifyResponse e) s

/-- VERIFY_TIMEOUT (R369). -/
def execVerifyTimeout (e : Nat) (s : State) : Host.Outcome State Fault Refusal := onDev (fun _ d => d.verifyTimeout e) s

/-- VERIFY_RECEIVED (R369). -/
def execVerifyReceived (e : Nat) (s : State) : Host.Outcome State Fault Refusal := onDev (fun _ d => d.verifyReceived e) s

/-- LLDP_TLV_RECEIVED (R370). -/
def execLldpTlvReceived (e : Nat) (enabled : Bool) (addFrag : Nat) (s : State) : Host.Outcome State Fault Refusal := onDev (fun _ d => d.lldpTlv e enabled addFrag) s

/-- LPI_ENTRY (R372). -/
def execLpiEntry (e : Nat) (s : State) : Host.Outcome State Fault Refusal := onDev (fun _ d => d.lpiEntry e) s

/-- LPI_WAKE (R372). -/
def execLpiWake (e : Nat) (s : State) : Host.Outcome State Fault Refusal := onDev (fun _ d => d.lpiWake e) s

/-- LPI_RX_ENTRY (R372). -/
def execLpiRxEntry (e : Nat) (s : State) : Host.Outcome State Fault Refusal := onDev (fun _ d => d.lpiRx e true) s

/-- LPI_RX_EXIT (R372). -/
def execLpiRxExit (e : Nat) (s : State) : Host.Outcome State Fault Refusal := onDev (fun _ d => d.lpiRx e false) s

/-- SCAN_GO (R374). -/
def execScanGo (m lane : Nat) (val : Word) (s : State) : Host.Outcome State Fault Refusal := onMem (writeReg .LANE_SCAN_CFG lane 0 m (setBit (word (clearBit val 30)) 31) []) s

/-- SCAN_STOP (R374). -/
def execScanStop (m lane : Nat) (val : Word) (err cmp : Nat) (s : State) : Host.Outcome State Fault Refusal := onMem (writeReg .LANE_SCAN_CFG lane 0 m (setBit (word (clearBit val 31)) 30) [err, cmp]) s

/-- SCAN_DONE (R374). -/
def execScanDone (lane err : Nat) (s : State) : Host.Outcome State Fault Refusal := onDev (fun _ d => d.scanDone lane err) s

/-- SCAN_ABORTED (R375). -/
def execScanAborted (lane err cmp : Nat) (s : State) : Host.Outcome State Fault Refusal := onDev (fun _ d => d.scanAborted lane err cmp) s

end Sys2Proof.Machine
end

