-- ==== Sys2Proof/Machine/Supply.lean ====
section
/-! DEFINITION. The commands of the power controller (R474 to R500). -/

namespace Sys2Proof.Machine

/-- VIN_SAMPLE (R474). -/
def execVinSample (mv : Nat) (s : State) : Host.Outcome State Fault Refusal := onDev (awake fun _ d => d.vinSample mv) s

/-- PWR_DOM_CMD (R477). -/
def execPwrDomCmd (m dom : Nat) (val : Word) (s : State) : Host.Outcome State Fault Refusal := onMem (writeReg .PWR_DOM_CMD dom 0 m val.toNat []) s

/-- WAKE_SLOT (R478). -/
def execWakeSlot (s : State) : Host.Outcome State Fault Refusal := onDev (fun _ d => d.wakeSlot) s

/-- DOMAIN_TRANSITION_DONE (R478). -/
def execDomainTransitionDone (dom : Nat) (s : State) : Host.Outcome State Fault Refusal := onDev (fun _ d => d.transitionDone dom) s

/-- CAP_EVALUATION (R487). -/
def execCapEvaluation (dieDw iinDa : Nat) (pipeDw : List Nat) (s : State) : Host.Outcome State Fault Refusal := onDev (awake fun _ d => d.capEvaluation dieDw iinDa pipeDw) s

/-- STEP_DOWN (R483). -/
def execStepDown (p : Nat) (s : State) : Host.Outcome State Fault Refusal := onDev (fun _ d => d.stepDown p) s

/-- STEP_UP (R485). -/
def execStepUp (p : Nat) (s : State) : Host.Outcome State Fault Refusal := onDev (fun _ d => d.stepUp p) s

/-- DROOP_STRETCH (R490). -/
def execDroopStretch (s : State) : Host.Outcome State Fault Refusal := onDev (awake fun _ d => d.droopStretch) s

/-- DROOP_END (R490). -/
def execDroopEnd (ns : Nat) (s : State) : Host.Outcome State Fault Refusal := onDev (awake fun _ d => d.droopEnd ns) s

/-- THERMAL_SAMPLE (R491). -/
def execThermalSample (x : ThermalIn) (s : State) : Host.Outcome State Fault Refusal :=
  onMem (awakeMem fun mem d => thermalSample mem d x.die x.hbm) s

/-- THROTTLE (R492). -/
def execThrottle (s : State) : Host.Outcome State Fault Refusal := onDev (awake fun _ d => d.throttle) s

/-- ENERGY_UPDATE (R494). -/
def execEnergyUpdate (lg pp bq hb other : List Nat) (s : State) : Host.Outcome State Fault Refusal := onDev (awake fun _ d => d.energyUpdate lg pp bq hb other) s

/-- PUSH (R495). -/
def execHintPush (m : Nat) (val : Word) (s : State) : Host.Outcome State Fault Refusal := onMem (writeReg .PWR_HINT_PUSH 0 0 m (setBit val 31) []) s

/-- FLUSH (R499). -/
def execHintFlush (m : Nat) (val : Word) (s : State) : Host.Outcome State Fault Refusal := onMem (writeReg .PWR_HINT_PUSH 0 0 m (setBit val 30) []) s

/-- HINT_START (R495). -/
def execHintStart (s : State) : Host.Outcome State Fault Refusal := onDev (fun _ d => d.hintStart) s

/-- HINT_END (R495). -/
def execHintEnd (s : State) : Host.Outcome State Fault Refusal := onDev (fun _ d => d.hintEnd) s

/-- PWR_EVT_POP (R496). -/
def execPwrEvtPop (m : Nat) (s : State) : Host.Outcome State Fault Refusal := onMem (readReg .PWR_EVT_POP0 0 0 m) s

end Sys2Proof.Machine
end

