-- ==== Sys2Proof/Machine/TableOps.lean ====
section
/-! DEFINITION. The commands of parser patches, Heats and the forwarding tables (R238 to R303). -/

namespace Sys2Proof.Machine

/-- PATCH_GO (R240). -/
def execPatchGo (m p : Nat) (val : Word) (s : State) : Host.Outcome State Fault Refusal := onMem (writeReg .PIPE_PATCH_CTRL p 0 m (setBit val 31) []) s

/-- PATCH_SWITCH (R240). -/
def execPatchSwitch (p : Nat) (s : State) : Host.Outcome State Fault Refusal := onDev (fun _ d => d.patchSwitch p) s

/-- OPEN (R255). -/
def execHeatOpen (m : Nat) (s : State) : Host.Outcome State Fault Refusal := onMem (writeReg .ID_HEAT_CTRL 0 0 m (1 * 2 ^ 29) []) s

/-- COMMIT_NOW (R255). -/
def execCommitNow (m : Nat) (s : State) : Host.Outcome State Fault Refusal := onMem (writeReg .ID_HEAT_CTRL 0 0 m (2 * 2 ^ 29) []) s

/-- COMMIT_AT (R255). -/
def execCommitAt (m : Nat) (s : State) : Host.Outcome State Fault Refusal := onMem (writeReg .ID_HEAT_CTRL 0 0 m (3 * 2 ^ 29) []) s

/-- ABORT (R255). -/
def execHeatAbort (m : Nat) (s : State) : Host.Outcome State Fault Refusal := onMem (writeReg .ID_HEAT_CTRL 0 0 m (4 * 2 ^ 29) []) s

/-- ABORT_CLEANUP_DONE (R255). -/
def execAbortCleanupDone (s : State) : Host.Outcome State Fault Refusal := onDev (fun _ d => d.abortCleanup) s

/-- HEAT_COMMIT (R255). -/
def execHeatCommit (s : State) : Host.Outcome State Fault Refusal := onDev (fun _ d => d.heatCommit) s

/-- HEAT_RETIRE (R256). -/
def execHeatRetire (s : State) : Host.Outcome State Fault Refusal := onDev (fun _ d => d.heatRetire) s

/-- HEAT_CLEANUP_DONE (R256). -/
def execHeatCleanupDone (s : State) : Host.Outcome State Fault Refusal := onDev (fun _ d => d.heatCleanup) s

/-- HEAT_PROMOTION (R256). -/
def execHeatPromotion (s : State) : Host.Outcome State Fault Refusal := onDev (fun _ d => d.heatPromotion) s

/-- LEARN_COMMIT (R282). -/
def execLearnCommit (s : State) : Host.Outcome State Fault Refusal := onDev (fun mem d => d.learnCommit mem) s

/-- UNPIN (R285). -/
def execUnpin (s : State) : Host.Outcome State Fault Refusal := onDev (fun mem d => d.unpin mem) s

/-- TRACKER_EXPIRY (R284). -/
def execTrackerExpiry (s : State) : Host.Outcome State Fault Refusal := onDev (fun _ d => d.trackerExpiry) s

/-- SWEEPER_VISIT (R287). -/
def execSweeperVisit (t index : Nat) (hitBehind : Bool) (s : State) : Host.Outcome State Fault Refusal := onDev (fun mem d => d.sweeperVisit mem t index hitBehind) s

/-- ADD (R289). -/
def execTblAdd (m : Nat) (cmd : Word) (s : State) : Host.Outcome State Fault Refusal := onMem (writeReg .TBL_CMD 0 0 m (setOp cmd 1) []) s

/-- DELETE (R289). -/
def execTblDelete (m : Nat) (cmd : Word) (s : State) : Host.Outcome State Fault Refusal := onMem (writeReg .TBL_CMD 0 0 m (setOp cmd 2) []) s

/-- REPLACE (R259). -/
def execTblReplace (m : Nat) (cmd : Word) (s : State) : Host.Outcome State Fault Refusal := onMem (writeReg .TBL_CMD 0 0 m (setOp cmd 3) []) s

/-- READ (R289). -/
def execTblRead (m : Nat) (cmd : Word) (s : State) : Host.Outcome State Fault Refusal := onMem (writeReg .TBL_CMD 0 0 m (setOp cmd 4) []) s

/-- SEARCH (R289). -/
def execTblSearch (m : Nat) (cmd : Word) (s : State) : Host.Outcome State Fault Refusal := onMem (writeReg .TBL_CMD 0 0 m (setOp cmd 5) []) s

/-- FLUSH_PORT (R289). -/
def execFlushPort (m : Nat) (cmd : Word) (s : State) : Host.Outcome State Fault Refusal := onMem (writeReg .TBL_CMD 0 0 m (setOp cmd 6) []) s

/-- TBL_DMA_GO (R291). -/
def execTblDmaGo (m : Nat) (val : Word) (s : State) : Host.Outcome State Fault Refusal := onMem (writeReg .TBL_DMA_CTRL 0 0 m (setBit val 31) []) s

/-- TBL_DMA_INSTALL (R292). -/
def execTblDmaInstall (s : State) : Host.Outcome State Fault Refusal :=
  onMem (fun mem d => dmaInstall mem d) s

/-- TBL_DMA_DONE (R291). -/
def execTblDmaDone (s : State) : Host.Outcome State Fault Refusal :=
  onMem (fun mem d => dmaDone mem d) s

/-- TIMEOUT (R292). -/
def execTblTimeout (s : State) : Host.Outcome State Fault Refusal := onDev (fun mem d => d.dmaTimeout mem) s

/-- CORRUPT_ENTRY (R294). -/
def execCorruptEntry (t structure_ pipe index foundBy : Nat) (s : State) : Host.Outcome State Fault Refusal := onDev (fun mem d => d.corruptEntry mem t structure_ pipe index foundBy) s

/-- LPM_REBUILD_DONE (R294). -/
def execLpmRebuildDone (node : Nat) (s : State) : Host.Outcome State Fault Refusal := onDev (fun _ d => d.lpmRebuilt node) s

/-- TCAM_SCRUB (R278). -/
def execTcamScrub (p index : Nat) (bad : Bool) (s : State) : Host.Outcome State Fault Refusal := onDev (fun mem d => d.tcamScrub mem p index bad) s

/-- TBL_NOTICE_POP (R301). -/
def execTblNoticePop (m : Nat) (s : State) : Host.Outcome State Fault Refusal := onMem (readReg .TBL_NOTICE_POP0 0 0 m) s

/-- TBL_ERR_POP (R301). -/
def execTblErrPop (m : Nat) (s : State) : Host.Outcome State Fault Refusal := onMem (readReg .TBL_ERR_POP0 0 0 m) s

end Sys2Proof.Machine
end

