-- ==== Sys2Proof/Machine/Traces.lean ====
section
/-! DEFINITION. The commands of telemetry (R501 to R521). -/

namespace Sys2Proof.Machine

/-- TEL_CTRL_WRITE (R511). -/
def execTelCtrlWrite (m : Nat) (val : Word) (pick : Nat) (s : State) : Host.Outcome State Fault Refusal := onMem (writeReg .TEL_CTRL 0 0 m val.toNat [pick]) s

/-- TEL_RING_RELPOS_WRITE (R511). -/
def execTelRingRelposWrite (m : Nat) (lo hi : Word) (s : State) : Host.Outcome State Fault Refusal := onMem (writePair .TEL_RING_RELPOS m lo hi) s

/-- TEL_RING_RD_DATA (R512). -/
def execTelRingRdData (m : Nat) (s : State) : Host.Outcome State Fault Refusal := onMem (readReg .TEL_RING_RD_DATA0 0 0 m) s

/-- TEL_HIST_CFG_WRITE (R504). -/
def execTelHistCfgWrite (m n : Nat) (val : Word) (s : State) : Host.Outcome State Fault Refusal := onMem (writeReg .TEL_HIST_CFG n 0 m val.toNat []) s

/-- TEL_SNAP (R515). -/
def execTelSnap (m : Nat) (val : Word) (s : State) : Host.Outcome State Fault Refusal := onMem (writeReg .TEL_SNAP 0 0 m (setBit val 31) []) s

/-- TEL_PC_CLEAR (R515). -/
def execTelPcClear (m : Nat) (val : Word) (s : State) : Host.Outcome State Fault Refusal := onMem (writeReg .TEL_PC_CLEAR 0 0 m (setBit val 31) []) s

/-- TEL_PC_READ (R514). -/
def execTelPcRead (m k : Nat) (s : State) : Host.Outcome State Fault Refusal := onMem (readReg .TEL_PC k 0 m) s

/-- TEL_DESC_SEL (R517). -/
def execTelDescSel (m : Nat) (val : Word) (s : State) : Host.Outcome State Fault Refusal := onMem (writeReg .TEL_DESC_SEL 0 0 m val.toNat []) s

end Sys2Proof.Machine
end

