-- ==== Sys2Proof/Machine/Dispatch.lean ====
section
/-! DEFINITION. The dispatcher: one arm for each command, a direct call of its meaning. -/

namespace Sys2Proof.Machine

/-- The effect of a command on everything but the queue. -/
def exec (i : Instr) (s : State) : Host.Outcome State Fault Refusal :=
  match i with
  | .registerWrite ws => Sys2Proof.Machine.execRegisterWrite ws s
  | .rcRead m off setBits => Sys2Proof.Machine.execRcRead m off setBits s
  | .lowWordRead m off => Sys2Proof.Machine.execLowWordRead m off s
  | .lowWordWrite m off val => Sys2Proof.Machine.execLowWordWrite m off val s
  | .highWordWrite m off val => Sys2Proof.Machine.execHighWordWrite m off val s
  | .frameReceive f => Sys2Proof.Machine.execFrameReceive f s
  | .pfcFrameReceive e enables times => Sys2Proof.Machine.execPfcFrameReceive e enables times s
  | .pauseRx e => Sys2Proof.Machine.execPauseRx e s
  | .pauseExpiry e k => Sys2Proof.Machine.execPauseExpiry e k s
  | .hbmLookupReturn fid bad => Sys2Proof.Machine.execHbmLookupReturn fid bad s
  | .hbmLookupShed fid => Sys2Proof.Machine.execHbmLookupShed fid s
  | .alignRelease p => Sys2Proof.Machine.execAlignRelease p s
  | .bufferWrite cid pick => Sys2Proof.Machine.execBufferWrite cid pick s
  | .enqueueOverflowLink q => Sys2Proof.Machine.execEnqueueOverflowLink q s
  | .mergeFifoEntry cid => Sys2Proof.Machine.execMergeFifoEntry cid s
  | .launchEligible cid => Sys2Proof.Machine.execLaunchEligible cid s
  | .launch cid => Sys2Proof.Machine.execLaunch cid s
  | .bankRead bank ptr ecc => Sys2Proof.Machine.execBankRead bank ptr ecc s
  | .queueSelect q draw => Sys2Proof.Machine.execQueueSelect q draw s
  | .transmitStart e => Sys2Proof.Machine.execTransmitStart e s
  | .preemptFrame e => Sys2Proof.Machine.execPreemptFrame e s
  | .copyDeparture cid => Sys2Proof.Machine.execCopyDeparture cid s
  | .pfcRefresh e k => Sys2Proof.Machine.execPfcRefresh e k s
  | .badTail x => Sys2Proof.Machine.execBadTail x s
  | .frameNotAccepted x => Sys2Proof.Machine.execFrameNotAccepted x s
  | .discardWalk p => Sys2Proof.Machine.execDiscardWalk p s
  | .linkHoldExpiry e => Sys2Proof.Machine.execLinkHoldExpiry e s
  | .admPipeDerateWrite m p val => Sys2Proof.Machine.execAdmPipeDerateWrite m p val s
  | .bufAllocReq m val pick => Sys2Proof.Machine.execBufAllocReq m val pick s
  | .bufAllocResp m => Sys2Proof.Machine.execBufAllocResp m s
  | .bufFree m val => Sys2Proof.Machine.execBufFree m val s
  | .spillPageWrite q pick => Sys2Proof.Machine.execSpillPageWrite q pick s
  | .spillRefill q bad pick => Sys2Proof.Machine.execSpillRefill q bad pick s
  | .timeRateWrite m lo hi => Sys2Proof.Machine.execTimeRateWrite m lo hi s
  | .timeSlewWrite m val => Sys2Proof.Machine.execTimeSlewWrite m val s
  | .timeSlewRateWrite m val => Sys2Proof.Machine.execTimeSlewRateWrite m val s
  | .timeNowNsRead m => Sys2Proof.Machine.execTimeNowNsRead m s
  | .timeStepGo m val => Sys2Proof.Machine.execTimeStepGo m val s
  | .newEpoch m val seed => Sys2Proof.Machine.execNewEpoch m val seed s
  | .stepTick seed => Sys2Proof.Machine.execStepTick seed s
  | .stateReqLocked m val => Sys2Proof.Machine.execStateReqLocked m val s
  | .stateReqHoldover m val => Sys2Proof.Machine.execStateReqHoldover m val s
  | .timeErrBaseWrite m val => Sys2Proof.Machine.execTimeErrBaseWrite m val s
  | .residenceEntryTimeout p => Sys2Proof.Machine.execResidenceEntryTimeout p s
  | .timeTxqPop m p => Sys2Proof.Machine.execTimeTxqPop m p s
  | .txqEntryAged p => Sys2Proof.Machine.execTxqEntryAged p s
  | .txqFlush m p val => Sys2Proof.Machine.execTxqFlush m p val s
  | .pinArm m n val => Sys2Proof.Machine.execPinArm m n val s
  | .pinFire n => Sys2Proof.Machine.execPinFire n s
  | .ppsEdge n => Sys2Proof.Machine.execPpsEdge n s
  | .pinCapture n rising => Sys2Proof.Machine.execPinCapture n rising s
  | .pinCapPop m n => Sys2Proof.Machine.execPinCapPop m n s
  | .alarmEnable m a val => Sys2Proof.Machine.execAlarmEnable m a val s
  | .alarmRelease m a val => Sys2Proof.Machine.execAlarmRelease m a val s
  | .alarmFire a => Sys2Proof.Machine.execAlarmFire a s
  | .sessRead m => Sys2Proof.Machine.execSessRead m s
  | .sessWrite m => Sys2Proof.Machine.execSessWrite m s
  | .sessClear m => Sys2Proof.Machine.execSessClear m s
  | .recordsSend x => Sys2Proof.Machine.execRecordsSend x s
  | .ack c => Sys2Proof.Machine.execAck c s
  | .resend c => Sys2Proof.Machine.execResend c s
  | .sealClose seed => Sys2Proof.Machine.execSealClose seed s
  | .sealFrameSend x => Sys2Proof.Machine.execSealFrameSend x s
  | .evEnable m seed => Sys2Proof.Machine.execEvEnable m seed s
  | .evDisable m seed => Sys2Proof.Machine.execEvDisable m seed s
  | .measurementChange seed => Sys2Proof.Machine.execMeasurementChange seed s
  | .attestGo m val => Sys2Proof.Machine.execAttestGo m val s
  | .patchGo m p val => Sys2Proof.Machine.execPatchGo m p val s
  | .patchSwitch p => Sys2Proof.Machine.execPatchSwitch p s
  | .heatOpen m => Sys2Proof.Machine.execHeatOpen m s
  | .commitNow m => Sys2Proof.Machine.execCommitNow m s
  | .commitAt m => Sys2Proof.Machine.execCommitAt m s
  | .heatAbort m => Sys2Proof.Machine.execHeatAbort m s
  | .sweeperVisit t index hitBehind => Sys2Proof.Machine.execSweeperVisit t index hitBehind s
  | .tblAdd m cmd => Sys2Proof.Machine.execTblAdd m cmd s
  | .tblDelete m cmd => Sys2Proof.Machine.execTblDelete m cmd s
  | .tblReplace m cmd => Sys2Proof.Machine.execTblReplace m cmd s
  | .tblRead m cmd => Sys2Proof.Machine.execTblRead m cmd s
  | .tblSearch m cmd => Sys2Proof.Machine.execTblSearch m cmd s
  | .flushPort m cmd => Sys2Proof.Machine.execFlushPort m cmd s
  | .tblDmaGo m val => Sys2Proof.Machine.execTblDmaGo m val s
  | .corruptEntry t structure_ pipe index foundBy => Sys2Proof.Machine.execCorruptEntry t structure_ pipe index foundBy s
  | .lpmRebuildDone node => Sys2Proof.Machine.execLpmRebuildDone node s
  | .tcamScrub p index bad => Sys2Proof.Machine.execTcamScrub p index bad s
  | .tblNoticePop m => Sys2Proof.Machine.execTblNoticePop m s
  | .tblErrPop m => Sys2Proof.Machine.execTblErrPop m s
  | .pacerWrite m off val => Sys2Proof.Machine.execPacerWrite m off val s
  | .meterWrite m off val => Sys2Proof.Machine.execMeterWrite m off val s
  | .hbmCommandSlot pc ecc => Sys2Proof.Machine.execHbmCommandSlot pc ecc s
  | .selfRefreshEntry stk => Sys2Proof.Machine.execSelfRefreshEntry stk s
  | .selfRefreshExit stk => Sys2Proof.Machine.execSelfRefreshExit stk s
  | .neighbourRefresh stk draw => Sys2Proof.Machine.execNeighbourRefresh stk draw s
  | .scrubPass granule ecc => Sys2Proof.Machine.execScrubPass granule ecc s
  | .hbmErrPop m => Sys2Proof.Machine.execHbmErrPop m s
  | .portEnable m e val => Sys2Proof.Machine.execPortEnable m e val s
  | .portDisable m e val => Sys2Proof.Machine.execPortDisable m e val s
  | .anComplete e => Sys2Proof.Machine.execAnComplete e s
  | .noCommon e => Sys2Proof.Machine.execNoCommon e s
  | .trainingComplete e swapped taps => Sys2Proof.Machine.execTrainingComplete e swapped taps s
  | .trainTimeout e => Sys2Proof.Machine.execTrainTimeout e s
  | .laneLockComplete e snr => Sys2Proof.Machine.execLaneLockComplete e snr s
  | .lockTimeout e => Sys2Proof.Machine.execLockTimeout e s
  | .alignComplete e map skew8 swapped => Sys2Proof.Machine.execAlignComplete e map skew8 swapped s
  | .alignTimeout e => Sys2Proof.Machine.execAlignTimeout e s
  | .debounceExpiry e => Sys2Proof.Machine.execDebounceExpiry e s
  | .faultReceived e remote lossOfAlign => Sys2Proof.Machine.execFaultReceived e remote lossOfAlign s
  | .faultCleared e => Sys2Proof.Machine.execFaultCleared e s
  | .linkDown e cause => Sys2Proof.Machine.execLinkDown e cause s
  | .fecDegradeWindow e corrCw uncorrCw corrSym => Sys2Proof.Machine.execFecDegradeWindow e corrCw uncorrCw corrSym s
  | .verifyStart e => Sys2Proof.Machine.execVerifyStart e s
  | .verifyResponse e => Sys2Proof.Machine.execVerifyResponse e s
  | .verifyTimeout e => Sys2Proof.Machine.execVerifyTimeout e s
  | .verifyReceived e => Sys2Proof.Machine.execVerifyReceived e s
  | .lldpTlvReceived e enabled addFrag => Sys2Proof.Machine.execLldpTlvReceived e enabled addFrag s
  | .lpiEntry e => Sys2Proof.Machine.execLpiEntry e s
  | .lpiWake e => Sys2Proof.Machine.execLpiWake e s
  | .scanGo m lane val => Sys2Proof.Machine.execScanGo m lane val s
  | .scanStop m lane val err cmp => Sys2Proof.Machine.execScanStop m lane val err cmp s
  | .scanDone lane err => Sys2Proof.Machine.execScanDone lane err s
  | .scanAborted lane err cmp => Sys2Proof.Machine.execScanAborted lane err cmp s
  | .ivlSymbolLock k => Sys2Proof.Machine.execIvlSymbolLock k s
  | .ivlLockTimeout k => Sys2Proof.Machine.execIvlLockTimeout k s
  | .ivlTrainingComplete k invMask reversed skew => Sys2Proof.Machine.execIvlTrainingComplete k invMask reversed skew s
  | .ivlTrainTimeout k => Sys2Proof.Machine.execIvlTrainTimeout k s
  | .ivlLinkDown k => Sys2Proof.Machine.execIvlLinkDown k s
  | .ivlSleep k => Sys2Proof.Machine.execIvlSleep k s
  | .ivlWake k => Sys2Proof.Machine.execIvlWake k s
  | .wakeTimeout k => Sys2Proof.Machine.execWakeTimeout k s
  | .ivlMessageReceive k bytes path8 => Sys2Proof.Machine.execIvlMessageReceive k bytes path8 s
  | .ivlEthReceive e bytes path8 => Sys2Proof.Machine.execIvlEthReceive e bytes path8 s
  | .versionSend k => Sys2Proof.Machine.execVersionSend k s
  | .version k msg => Sys2Proof.Machine.execVersion k msg s
  | .ttReqSend k => Sys2Proof.Machine.execTtReqSend k s
  | .ttReq k msg path8 turn8 => Sys2Proof.Machine.execTtReq k msg path8 turn8 s
  | .ttResp k msg path8 => Sys2Proof.Machine.execTtResp k msg path8 s
  | .ttTimeout k => Sys2Proof.Machine.execTtTimeout k s
  | .ivlTtPop m k => Sys2Proof.Machine.execIvlTtPop m k s
  | .ivlRegRead k msg => Sys2Proof.Machine.execIvlRegRead k msg s
  | .ivlRegWrite k msg => Sys2Proof.Machine.execIvlRegWrite k msg s
  | .nak k msg => Sys2Proof.Machine.execNak k msg s
  | .echo k msg => Sys2Proof.Machine.execEcho k msg s
  | .echoReply k msg => Sys2Proof.Machine.execEchoReply k msg s
  | .envDerate arrival eth msg => Sys2Proof.Machine.execEnvDerate arrival eth msg s
  | .envLift arrival eth msg => Sys2Proof.Machine.execEnvLift arrival eth msg s
  | .ivlEnvPop m => Sys2Proof.Machine.execIvlEnvPop m s
  | .ctlThaw m val => Sys2Proof.Machine.execCtlThaw m val s
  | .ctlMasterReset m val => Sys2Proof.Machine.execCtlMasterReset m val s
  | .ctlVlogPop m => Sys2Proof.Machine.execCtlVlogPop m s
  | .batonRead n release readers => Sys2Proof.Machine.execBatonRead n release readers s
  | .batonRelease m n val => Sys2Proof.Machine.execBatonRelease m n val s
  | .batonPeek m n => Sys2Proof.Machine.execBatonPeek m n s
  | .mbDataWrite m c idx val => Sys2Proof.Machine.execMbDataWrite m c idx val s
  | .mbDoorbell m c val readFirst => Sys2Proof.Machine.execMbDoorbell m c val readFirst s
  | .mbDataRead m c idx => Sys2Proof.Machine.execMbDataRead m c idx s
  | .spdOwnerWrite m b val => Sys2Proof.Machine.execSpdOwnerWrite m b val s
  | .scratchpadAccess m off write waited => Sys2Proof.Machine.execScratchpadAccess m off write waited s
  | .pstateWrite m b val => Sys2Proof.Machine.execPstateWrite m b val s
  | .bankWakeDone b => Sys2Proof.Machine.execBankWakeDone b s
  | .lend m b val => Sys2Proof.Machine.execLend m b val s
  | .reclaim m b val => Sys2Proof.Machine.execReclaim m b val s
  | .bistPassDone b failCol => Sys2Proof.Machine.execBistPassDone b failCol s
  | .ctlFwGo m val => Sys2Proof.Machine.execCtlFwGo m val s
  | .runningAck m => Sys2Proof.Machine.execRunningAck m s
  | .fwConfirm m => Sys2Proof.Machine.execFwConfirm m s
  | .cpRestart m val => Sys2Proof.Machine.execCpRestart m val s
  | .ctlLockSet m val => Sys2Proof.Machine.execCtlLockSet m val s
  | .coldStart x => Sys2Proof.Machine.execColdStart x s
  | .idReset m val => Sys2Proof.Machine.execIdReset m val s
  | .fuseLoadDone f => Sys2Proof.Machine.execFuseLoadDone f s
  | .firmwareVerifyDone f => Sys2Proof.Machine.execFirmwareVerifyDone f s
  | .imageLoadDone a b => Sys2Proof.Machine.execImageLoadDone a b s
  | .holdRelease m val => Sys2Proof.Machine.execHoldRelease m val s
  | .enterService seed => Sys2Proof.Machine.execEnterService seed s
  | .spiGo m val => Sys2Proof.Machine.execSpiGo m val s
  | .spiDone answered data => Sys2Proof.Machine.execSpiDone answered data s
  | .vinSample mv => Sys2Proof.Machine.execVinSample mv s
  | .pwrDomCmd m dom val => Sys2Proof.Machine.execPwrDomCmd m dom val s
  | .domainTransitionDone dom => Sys2Proof.Machine.execDomainTransitionDone dom s
  | .capEvaluation dieDw iinDa pipeDw => Sys2Proof.Machine.execCapEvaluation dieDw iinDa pipeDw s
  | .stepDown p => Sys2Proof.Machine.execStepDown p s
  | .stepUp p => Sys2Proof.Machine.execStepUp p s
  | .droopEnd ns => Sys2Proof.Machine.execDroopEnd ns s
  | .thermalSample x => Sys2Proof.Machine.execThermalSample x s
  | .energyUpdate lg pp bq hb other => Sys2Proof.Machine.execEnergyUpdate lg pp bq hb other s
  | .hintPush m val => Sys2Proof.Machine.execHintPush m val s
  | .hintFlush m val => Sys2Proof.Machine.execHintFlush m val s
  | .pwrEvtPop m => Sys2Proof.Machine.execPwrEvtPop m s
  | .refclkLost which tile => Sys2Proof.Machine.execRefclkLost which tile s
  | .telCtrlWrite m val pick => Sys2Proof.Machine.execTelCtrlWrite m val pick s
  | .telRingRelposWrite m lo hi => Sys2Proof.Machine.execTelRingRelposWrite m lo hi s
  | .telRingRdData m => Sys2Proof.Machine.execTelRingRdData m s
  | .telHistCfgWrite m n val => Sys2Proof.Machine.execTelHistCfgWrite m n val s
  | .telSnap m val => Sys2Proof.Machine.execTelSnap m val s
  | .telPcClear m val => Sys2Proof.Machine.execTelPcClear m val s
  | .telPcRead m k => Sys2Proof.Machine.execTelPcRead m k s
  | .telDescSel m val => Sys2Proof.Machine.execTelDescSel m val s
  | .smbusWrite cmd off count val pecOk => Sys2Proof.Machine.execSmbusWrite cmd off count val pecOk s
  | .smbusRead cmd off => Sys2Proof.Machine.execSmbusRead cmd off s
  | .jtagInstruction opcode => Sys2Proof.Machine.execJtagInstruction opcode s
  | .registerRead m off width => Sys2Proof.Machine.execRegisterRead m off width s
  | .timeTick n => Sys2Proof.Machine.execTimeTick n s
  | .lpiRxEntry e => Sys2Proof.Machine.execLpiRxEntry e s
  | .lpiRxExit e => Sys2Proof.Machine.execLpiRxExit e s
  | .ivlRxSleep k => Sys2Proof.Machine.execIvlRxSleep k s
  | .ivlRxWake k => Sys2Proof.Machine.execIvlRxWake k s
  | .skipSetReceive k drift => Sys2Proof.Machine.execSkipSetReceive k drift s
  | .hurdleBatch => Sys2Proof.Machine.execHurdleBatch s
  | .mergeRelease => Sys2Proof.Machine.execMergeRelease s
  | .readMatching => Sys2Proof.Machine.execReadMatching s
  | .ageingPass => Sys2Proof.Machine.execAgeingPass s
  | .timedHeadCheck => Sys2Proof.Machine.execTimedHeadCheck s
  | .noticeSend => Sys2Proof.Machine.execNoticeSend s
  | .recentClearPass => Sys2Proof.Machine.execRecentClearPass s
  | .reclaimPass => Sys2Proof.Machine.execReclaimPass s
  | .slewComplete => Sys2Proof.Machine.execSlewComplete s
  | .stepMarkClear => Sys2Proof.Machine.execStepMarkClear s
  | .wdog => Sys2Proof.Machine.execWdog s
  | .errBoundUpdate => Sys2Proof.Machine.execErrBoundUpdate s
  | .recordNumbering => Sys2Proof.Machine.execRecordNumbering s
  | .attestDone => Sys2Proof.Machine.execAttestDone s
  | .abortCleanupDone => Sys2Proof.Machine.execAbortCleanupDone s
  | .heatCommit => Sys2Proof.Machine.execHeatCommit s
  | .heatRetire => Sys2Proof.Machine.execHeatRetire s
  | .heatCleanupDone => Sys2Proof.Machine.execHeatCleanupDone s
  | .heatPromotion => Sys2Proof.Machine.execHeatPromotion s
  | .learnCommit => Sys2Proof.Machine.execLearnCommit s
  | .unpin => Sys2Proof.Machine.execUnpin s
  | .trackerExpiry => Sys2Proof.Machine.execTrackerExpiry s
  | .tblDmaInstall => Sys2Proof.Machine.execTblDmaInstall s
  | .tblTimeout => Sys2Proof.Machine.execTblTimeout s
  | .hbmZeroFillDone => Sys2Proof.Machine.execHbmZeroFillDone s
  | .envelopeNoticeSend => Sys2Proof.Machine.execEnvelopeNoticeSend s
  | .fwVerifyDone => Sys2Proof.Machine.execFwVerifyDone s
  | .runningAckTimeout => Sys2Proof.Machine.execRunningAckTimeout s
  | .confirmTimeout => Sys2Proof.Machine.execConfirmTimeout s
  | .deviceReset => Sys2Proof.Machine.execDeviceReset s
  | .pcieReset => Sys2Proof.Machine.execPcieReset s
  | .pllLock => Sys2Proof.Machine.execPllLock s
  | .powerUpDone => Sys2Proof.Machine.execPowerUpDone s
  | .timeAcquired => Sys2Proof.Machine.execTimeAcquired s
  | .timeTimeout => Sys2Proof.Machine.execTimeTimeout s
  | .holdExpiry => Sys2Proof.Machine.execHoldExpiry s
  | .wakeSlot => Sys2Proof.Machine.execWakeSlot s
  | .droopStretch => Sys2Proof.Machine.execDroopStretch s
  | .throttle => Sys2Proof.Machine.execThrottle s
  | .hintStart => Sys2Proof.Machine.execHintStart s
  | .hintEnd => Sys2Proof.Machine.execHintEnd s
  | .undervoltageLockout => Sys2Proof.Machine.execUndervoltageLockout s
  | .trefLost => Sys2Proof.Machine.execTrefLost s
  | .trefReturn => Sys2Proof.Machine.execTrefReturn s
  | .pwrgdLow => Sys2Proof.Machine.execPwrgdLow s
  | .tblDmaDone => Sys2Proof.Machine.execTblDmaDone s

end Sys2Proof.Machine
end

