-- ==== Sys2Proof/Safety.lean ====
section
/-! DEFINITION. The words the statements use: the parts of a state a command may leave alone, what an access needs in order
to act, and what a write of a register stores. -/

namespace Sys2Proof.Machine

/-! ### Parts of a state -/

/-- The state with another device: its queue and its memories stay. -/
def State.withDev (s : State) (d : Dev) : State := { s with dev := d }

/-- The state with other memories and another device: its queue stays. -/
def State.withBoth (s : State) (m : Mem) (d : Dev) : State := { s with mem := m, dev := d }

/-- Two devices hold the same word under every key of the register file but those of a list. -/
def RegsKept (ks : List Nat) (d e : Dev) : Prop := ∀ k, k ∉ ks → SMap.find? e.regs k = SMap.find? d.regs k

/-- Two devices hold the same 64-bit quantity under every key but those of a list. -/
def WideKept (ks : List Nat) (d e : Dev) : Prop := ∀ k, k ∉ ks → SMap.find? e.wide k = SMap.find? d.wide k

/-- Two devices differ at most in their registers, in what they sent and in the completions. -/
def OnlyRegs (d e : Dev) : Prop := e = { d with regs := e.regs, wide := e.wide, out := e.out, last := e.last }

/-! ### Accesses -/

/-- An instance of a register of at most two indices, by its low word. -/
def hitOf (r : Reg) (i j : Nat) : RegHit := ⟨r, i, j, 0, false⟩

/-- Master `m` reaches instance `(i, j)` of a register with a read (`none`) or a write of a value: the master issues
requests, is not turned away (R28), the stage lets it (R452), the access is within its rights, and the map holds the
instance at that offset. -/
structure Reaches (s : State) (m : Nat) (write : Option Nat) (r : Reg) (i j : Nat) : Prop where
  has : r.has i j = true
  master : issues m = true
  live : s.dev.turnedAway m = false
  stage : s.dev.bootAllows m write.isSome (if isHostFn m then 0x0C000000 else unalias (offsetFor m (r.off i j))) = true
  rights : s.dev.within m write (offsetFor m (r.off i j)) = true
  aligned : offsetFor m (r.off i j) % 4 = 0
  outside : inSpd (unalias (offsetFor m (r.off i j))) = false
  found : lookupReg (unalias (offsetFor m (r.off i j))) = some (hitOf r i j)

/-- The word a register instance holds after a write of `v` (R9, R10). -/
def Dev.written (d : Dev) (r : Reg) (i j m v : Nat) : Word := word (d.newWord (hitOf r i j) m v)

/-- The device with that word in the register, and nothing else changed. -/
def Dev.putWord (d : Dev) (r : Reg) (i j m v : Nat) : Dev := d.set r (d.written r i j m v) i j 0 m

/-- A write of `v` that acts: it reaches a 32-bit register, changes no field that another master reserves (R549), and is no
conflict (R3). The device is past the application of its image. -/
structure Writes (s : State) (m : Nat) (r : Reg) (i j v : Nat) : Prop extends Reaches s m (some v) r i j where
  fits : v < 2 ^ 32
  narrow : r.row.wide = false
  running : s.dev.boot.applying = false
  permitted : s.dev.fieldForbidden m (hitOf r i j) (s.dev.newWord (hitOf r i j) m v ||| (v &&& r.row.wo)) = false
  accepted : s.dev.conflicts (s.dev.putWord r i j m v) (hitOf r i j) m v = false

/-- The same of one word of a 64-bit quantity at an offset: the access reaches the quantity `r` at index `i`. -/
structure ReachesWide (s : State) (m : Nat) (write : Option Nat) (off : Nat) (r : Reg) (i : Nat) (high : Bool) : Prop where
  master : issues m = true
  live : s.dev.turnedAway m = false
  stage : s.dev.bootAllows m write.isSome (if isHostFn m then 0x0C000000 else unalias off) = true
  rights : s.dev.within m write off = true
  aligned : off % 4 = 0
  outside : inSpd (unalias off) = false
  found : lookupReg (unalias off) = some ⟨r, i, 0, 0, high⟩
  wide : r.row.wide = true

/-- The device in service with its reset released: no access is turned away by the stage (R452). -/
def InService (d : Dev) : Prop := d.bootStage = 6 ∧ d.boot.inReset = false ∧ d.boot.jtagHeld = false

/-! ### Frames the device builds itself -/

/-- A frame has entered by an internal port and is one copy for port `e` in class `cls`, about to be stored (R63, R211). -/
def Entered (d t : Dev) (port e cls : Nat) (bytes : List Byte) : Prop :=
  t.buf.nextFrame = d.buf.nextFrame + 1 ∧ t.buf.nextCopy = d.buf.nextCopy + 1 ∧ ∃ y, t.copy? d.buf.nextCopy = some y ∧ y.egress = e ∧
    y.cls = cls ∧ y.stage = .decided ∧ y.frame.ingress = port ∧ y.frame.bytes = bytes

/-- The header of a receipt frame of type `typ` for partition `k` (R211). -/
def Dev.receiptHead (d : Dev) (k typ n field16 : Nat) : List Byte :=
  be 1 1 ++ be 1 typ ++ be 1 k ++ be 1 n ++ be 4 d.devNum ++ be 4 (d.f F.TIME_EPOCH_EPOCH) ++ be 4 (d.stream k).frameSeq ++
  be 8 field16 ++ be 8 (d.q .EV_PART_WRPOS k)

/-! ### Seal intervals -/

/-- The seal of an interval that ends at `end8` with no epoch and no step: R217's bytes 0 to 191 and their signature (R218). -/
def Dev.sealOf (d : Dev) (i : Interval) (end8 : Nat) : List Byte :=
  d.sealHead i end8 false false ++ ecdsaSign d.boot.keyD (d.sealHead i end8 false false)

/-- What closing interval `i` at `end8` leaves: the seal on show with its number, chained to the next, and the seed of the
interval in FIN_TIE_SEED (R167, R217, R218). -/
def Sealed (d e : Dev) (i : Interval) (end8 : Nat) : Prop :=
  e.q .EV_SEAL_NUM = d.ev.sealNum ∧ e.ev.sealNum = d.ev.sealNum + 1 ∧ e.ev.chainStart = false ∧
  e.ev.prevDigest = sha256 (d.sealOf i end8) ∧ e.q .FIN_TIE_SEED = i.seedHi * 2 ^ 32 + i.seedLo ∧
  ∀ w, w < 64 → e.get .EV_SEAL_LAST w = word (beAt (d.sealOf i end8) (4 * w) 4)

/-- An interval of `us` microseconds runs that began at `start8`: it holds no record yet, its first will take number `rec`, and
its seed is the one drawn, in force from the first cell time that starts at or after the present tick (R167, R214). -/
def Begun (e : Dev) (start8 us seed rec : Nat) (first : Bool) : Prop :=
  (∃ j, e.ev.interval = some j ∧ j.startSec = secOf start8 ∧ j.startNs = nsOf start8 ∧ j.us = us ∧ j.firstRec = rec ∧
    j.leaves = [] ∧ j.measFirst = first ∧ j.seedLo = seed % 2 ^ 32 ∧ j.seedHi = seed / 2 ^ 32 % 2 ^ 32) ∧
  e.hold.newLo = seed % 2 ^ 32 ∧ e.hold.newHi = seed / 2 ^ 32 % 2 ^ 32 ∧ e.hold.seedFrom = e.nextCell ∧
  e.on F.EV_STATUS_STARTED = true

end Sys2Proof.Machine
end

