-- ==== Sys2Proof/Certificates/Slice0/Obligations.lean ====
section
/-! DEFINITION. The statements for the provers: what the commands of the KX2048 do, family by family, and what holds of every
step. `s.dev.fresh` is the device as a command finds it, with the outputs and completions of the command before dropped. -/

open Sys2Proof Sys2Proof.Machine

/-! ### The queue, the reset state and the memories -/

/-- A step takes the command at the front of the queue and answers what it answers, with the queue's rest.
On an empty queue the device idles: the model's choice, assumption 1. -/
def Obligations.StepRunsFrontCommand : Prop :=
  (∀ (s : State) (c : Instr) (rest : List Instr), s.pending = c :: rest → step s = exec c { s with pending := rest }) ∧
  (∀ s : State, s.pending = [] → step s = .next s)

/-- No command faults or is refused, and none changes the queue of the commands behind it. -/
def Obligations.EveryCommandAnswersNext : Prop :=
  ∀ (c : Instr) (s : State), ∃ t, exec c s = .next t ∧ t.pending = s.pending

/-- The state right after reset: no command waits, both memories list nothing, start-up is at stage 0x0, every instance of
every register holds its reset value, and the identification registers read as R2 says.
Where the spec leaves it open this is the model's choice: log entries 3, 7 and 8. -/
def Obligations.ResetStateHolds : Prop :=
  State.reset.pending = [] ∧ State.reset.mem.wf = true ∧ (∀ a, State.reset.mem.hbmByte a = 0 ∧ State.reset.mem.spdByte a = 0) ∧
  State.reset.dev.bootStage = 0 ∧
  (∀ (r : Reg) (i j k m : Nat), State.reset.dev.get r i j k m = BitVec.ofNat 32 (r.resetAt i j)) ∧
  State.reset.dev.get .ID_IDENTITY = 0x4B582048 ∧ State.reset.dev.get .ID_REVISION = 0x000000B0

/-- Every step keeps both memories in their canonical form, whatever the state. -/
def Obligations.EveryStepKeepsMemoryCanonical : Prop :=
  ∀ s t : State, s.mem.wf = true → step s = .next t → t.mem.wf = true

/-! ### The register fabric -/

/-- The map names every instance of every register: its offset is found as that register at its indices, and the offset four above as its
high word where the register is a 64-bit quantity. So no two instances share an offset. -/
def Obligations.EveryRegisterFound : Prop :=
  ∀ (r : Reg) (i j k : Nat), r.has i j = true → (match r.row.dims with | [_, _, c] => k < c.2 | _ => k = 0) →
    lookupReg (r.off i j k) = some ⟨r, i, j, k, false⟩ ∧
      (r.row.wide = true → lookupReg (r.off i j k + 4) = some ⟨r, i, j, k, true⟩)

/-- What a write leaves in each bit of a 32-bit register: a bit the write replaces takes the value written, a bit that a one
clears falls where a one was written, and every other bit stays. -/
def Obligations.WriteByAccessCode : Prop :=
  ∀ (d : Dev) (h : RegHit) (m v b : Nat), v < 2 ^ 32 →
    (d.newWord h m v).testBit b =
      ((if (d.writeMasks h).1.testBit b then v.testBit b else (d.get h.reg h.i h.j h.k m).toNat.testBit b) &&
        !((d.writeMasks h).2.testBit b && v.testBit b))

/-- Putting a value into a field changes that field of that register instance, and nothing else: the field reads the value
cut to its width, the other fields of the register and the registers under every other key stay, and no other part of the
device changes. -/
def Obligations.FieldWriteChangesItsField : Prop :=
  ∀ (d : Dev) (x : Fld) (v i j k m : Nat), x.lo ≤ x.hi → x.hi < 32 →
    (d.setF x v i j k m).f x i j k m = v % 2 ^ (x.hi - x.lo + 1) ∧
    (∀ y : Fld, y.reg = x.reg → y.lo ≤ y.hi → y.hi < 32 → y.hi < x.lo ∨ x.hi < y.lo →
      (d.setF x v i j k m).f y i j k m = d.f y i j k m) ∧
    RegsKept [regKey x.reg i j k m] d (d.setF x v i j k m) ∧
    d.setF x v i j k m = { d with regs := (d.setF x v i j k m).regs }

/-- A master that is frozen, or a halted control processor, reaches nothing: its accesses complete with the error of R28 and
change nothing.
A malformed access within the master's rights: no effect, an entry of KIND MALFORMED with FROZE clear, the error of R8,
and no freeze.
Before stage 0x6 a host function reaches nothing, and the BMC writes nothing but its cap: their accesses complete with
Unsupported Request or a NAK, and change nothing.
Where the spec leaves it open this is the model's choice: log entry 80. -/
def Obligations.AccessesAreTurnedAway : Prop :=
  (∀ (s : State) (m off width ev : Nat) (v : Word), issues m = true → s.dev.turnedAway m = true →
    exec (.registerRead m off width) s = .next (s.withDev (s.dev.fresh.done m .aborted)) ∧
    exec (.registerWrite [⟨m, off, width, v, ev, true⟩]) s = .next (s.withDev (s.dev.fresh.done m .aborted))) ∧
  (∀ (s : State) (m off width : Nat), issues m = true → s.dev.turnedAway m = false →
    s.dev.bootAllows m false (if isHostFn m then 0x0C000000 else unalias (off - off % 4)) = true → s.dev.within m none off = true →
    width ≠ 4 ∨ off % 4 ≠ 0 → s.dev.ctl.vlog.length < 256 →
    exec (.registerRead m off width) s = .next (s.withDev ({ s.dev.fresh with
      ctl := { s.dev.ctl with vlog := s.dev.ctl.vlog ++ [[word (2 * 2 ^ 28 + m * 2 ^ 22), word off, word (short s.dev.now8), 0]] } }.done m
        .unsupported))) ∧
  (∀ (s : State) (m off width ev : Nat) (v : Word), s.dev.turnedAway m = false → s.dev.bootStage ≠ 6 →
    (1 ≤ m ∧ m ≤ 0x0F →
      exec (.registerRead m off width) s = .next (s.withDev (s.dev.fresh.done m .unsupported)) ∧
      exec (.registerWrite [⟨m, off, width, v, ev, true⟩]) s = .next (s.withDev (s.dev.fresh.done m .unsupported))) ∧
    (m = 0x24 → unalias (off - off % 4) ≠ Reg.off .PWR_BMC_CAP →
      exec (.registerWrite [⟨m, off, width, v, ev, true⟩]) s = .next (s.withDev (s.dev.fresh.done m .unsupported))))

/-- A write of a host function outside its rights has no effect but these: the function is frozen, the log takes an entry
of KIND RIGHTS with FROZE and WRITE set and the offset, where it has room, and the access completes with the error of R28. -/
def Obligations.RightsViolationFreezes : Prop :=
  ∀ (s : State) (m off ev : Nat) (v : Word), 1 ≤ m → m ≤ 0x0F → s.dev.turnedAway m = false →
    s.dev.bootAllows m true 0x0C000000 = true → s.dev.within m (some v.toNat) off = false → s.dev.ctl.vlog.length < 256 →
    ∃ t, exec (.registerWrite [⟨m, off, 4, v, ev, true⟩]) s = .next t ∧ t.mem = s.mem ∧ t.pending = s.pending ∧
      t.dev.frozen m = true ∧ (∀ n, n ≠ m → t.dev.frozen n = s.dev.frozen n) ∧ t.dev.last = [⟨m, .aborted, 0⟩] ∧
      t.dev.ctl = { s.dev.ctl with vlog := s.dev.ctl.vlog ++
        [[word (2 ^ 28 + m * 2 ^ 22 + 2 ^ 21 + 2 ^ 20), word off, word (short s.dev.now8), 0]] } ∧
      t.dev = { s.dev with wide := t.dev.wide, ctl := t.dev.ctl, out := [], last := t.dev.last } ∧
      WideKept [regKey .CTL_FROZEN 0 0 0 0] s.dev t.dev

/-- The settings registers of which a write does no more than store its word. -/
def Settings : List Reg := [.ID_HEAT_AT_NS, .ID_HEAT_CFG, .PWR_DROOP_CFG, .TIME_PIN_T_NS, .EV_SEAL_CFG, .EV_STR_RATE, .FIN_GRP_HELD,
  .STG_TRIM, .ADM_BOUND, .PIPE_PORT_CFG, .PIPE_QSCHED, .BUF_AGE, .TBL_AGE_CFG, .HBM_SCRUB_CFG, .LANE_TXEQ, .PORT_TIMER, .IVL_ROUTE_LO,
  .TEL_PC_CFG]

/-- A read and a write of a settings register that reach it: REGISTER_WRITE leaves the word of R9 and R10 in it and nothing else
changes; a write of the window of a finish group also keeps the window of its cell time, and one of the journal's floor settles
its credit at the old rate; REGISTER_READ returns the word as the register shows it and changes nothing; RC_READ of a register without RC bits is
such a read.
Where the spec leaves it open this is the model's choice: log entry 103. -/
def Obligations.SettingsAreWrittenAndRead : Prop :=
  ∀ (s : State) (r : Reg) (m i j n : Nat) (v : Word), r ∈ Settings →
    (Writes s m r i j v.toNat →
      exec (.registerWrite [⟨m, offsetFor m (r.off i j), 4, v, 0, true⟩]) s = .next (s.withDev ((s.dev.fresh.putWord r i j m v.toNat).done m .ok))) ∧
    (Writes s m .FIN_GRP_WINDOW i 0 v.toNat →
      exec (.registerWrite [⟨m, offsetFor m (Reg.off .FIN_GRP_WINDOW i), 4, v, 0, true⟩]) s = .next (s.withDev
        ({ s.dev.fresh.putWord .FIN_GRP_WINDOW i 0 m v.toNat with
          hold := { s.dev.hold with windowOld := SMap.set s.dev.hold.windowOld i (s.dev.windowNs i, s.dev.cell) } }.done m .ok))) ∧
    (Writes s m .HBM_FLOOR 0 0 v.toNat →
      exec (.registerWrite [⟨m, offsetFor m (Reg.off .HBM_FLOOR), 4, v, 0, true⟩]) s = .next (s.withDev
        ({ s.dev.fresh.putWord .HBM_FLOOR 0 0 m v.toNat with hbm := { s.dev.hbm with floor := s.dev.floorNow } }.done m .ok))) ∧
    (Reaches s m none r i j →
      exec (.registerRead m (offsetFor m (r.off i j)) 4) s = .next (s.withDev (s.dev.fresh.done m .ok (s.dev.shown (hitOf r i j) m))) ∧
      exec (.rcRead m (offsetFor m (r.off i j)) n) s = .next (s.withDev (s.dev.fresh.done m .ok (s.dev.shown (hitOf r i j) m))))

/-- RC_READ of an RC register: the read returns the count and clears it, and what is counted in the same cycle is in the
register afterwards. -/
def Obligations.CounterReadClears : Prop :=
  ∀ (s : State) (m n : Nat), Reaches s m none .TIME_STEP_CTRL 0 0 →
    ∃ t, exec (.rcRead m (offsetFor m (Reg.off .TIME_STEP_CTRL)) (n * 2 ^ F.TIME_STEP_CTRL_REJECTS.lo)) s = .next t ∧
      t.mem = s.mem ∧ t.pending = s.pending ∧
      t.dev.last = [⟨m, .ok, s.dev.shown (hitOf .TIME_STEP_CTRL 0 0) m⟩] ∧
      t.dev.f F.TIME_STEP_CTRL_REJECTS = n % 2 ^ (F.TIME_STEP_CTRL_REJECTS.hi - F.TIME_STEP_CTRL_REJECTS.lo + 1) ∧
      t.dev.f F.TIME_STEP_CTRL_STATUS = s.dev.f F.TIME_STEP_CTRL_STATUS ∧ RegsKept [regKey .TIME_STEP_CTRL 0 0 0 0] s.dev t.dev ∧
      t.dev = { s.dev with regs := t.dev.regs, out := [], last := t.dev.last }

/-- A 64-bit quantity (R15): a read of the low word returns it and latches the high word for the reader; a write of the low word
is held for the writer and changes no register; a write of the high word of a quantity that takes writes applies the held low
word, if it is of the same quantity, and uses it up. -/
def Obligations.WideQuantitiesByHalves : Prop :=
  ∀ (s : State) (m off : Nat) (r : Reg) (i : Nat) (v lo : Word),
    (ReachesWide s m none off r i false →
      ∃ t, exec (.lowWordRead m off) s = .next t ∧
        t = s.withDev (({ s.dev.fresh with ctl := t.dev.ctl }).done m .ok (s.dev.shownQ ⟨r, i, 0, 0, false⟩ m % 2 ^ 32)) ∧
        t.dev.ctl = { s.dev.ctl with shadow := t.dev.ctl.shadow } ∧
        SMap.find? t.dev.ctl.shadow (m * 2 ^ 28 + r.off i) = some (word (s.dev.shownQ ⟨r, i, 0, 0, false⟩ m / 2 ^ 32))) ∧
    (ReachesWide s m (some v.toNat) off r i false →
      ∃ t, exec (.lowWordWrite m off v) s = .next t ∧ t = s.withDev (({ s.dev.fresh with ctl := t.dev.ctl }).done m .ok) ∧
        t.dev.ctl = { s.dev.ctl with pendLow := t.dev.ctl.pendLow } ∧ SMap.find? t.dev.ctl.pendLow m = some (r.off i, v) ∧
        ∀ n, n ≠ m → SMap.find? t.dev.ctl.pendLow n = SMap.find? s.dev.ctl.pendLow n) ∧
    (ReachesWide s m (some v.toNat) off .TIME_RATE 0 true → SMap.find? s.dev.ctl.pendLow m = some (Reg.off .TIME_RATE, lo) →
      rateOk (v.toNat * 2 ^ 32 + lo.toNat) = true →
      ∃ t, exec (.highWordWrite m off v) s = .next t ∧ t.mem = s.mem ∧ t.pending = s.pending ∧ t.dev.last = [⟨m, .ok, 0⟩] ∧
        t.dev.q .TIME_RATE = v.toNat * 2 ^ 32 + lo.toNat ∧ SMap.find? t.dev.ctl.pendLow m = none ∧
        WideKept [regKey .TIME_RATE 0 0 0 0] s.dev t.dev ∧ t.dev.ctl = { s.dev.ctl with pendLow := t.dev.ctl.pendLow } ∧
        t.dev = { s.dev with wide := t.dev.wide, ctl := t.dev.ctl, out := [], last := t.dev.last })

/-! ### Control plane -/

/-- BATON_READ by one master: a read of a free Baton takes it and returns 0; a read of an owned one returns its owner and
changes nothing. Of two masters that read a free Baton in one cycle the first at or above the Baton's pointer takes it, the
other reads the winner, and the pointer moves past the winner.
BATON_RELEASE by the owner frees the Baton; by another master it is a violation of KIND BATON, and the owner keeps it.
BATON_PEEK returns the owner and takes nothing. -/
def Obligations.BatonsHaveOneOwner : Prop :=
  (∀ (s : State) (n a b o : Nat), n < 256 → InService s.dev → s.dev.turnedAway a = false → s.dev.turnedAway b = false →
    s.dev.privileged a = true → s.dev.privileged b = true → issues a = true → issues b = true →
    (s.dev.batonOwner n = none →
      exec (.batonRead n none [a]) s = .next (s.withDev ((s.dev.fresh.setBatons (SMap.set s.dev.ctl.batons n a)).done a .ok 0))) ∧
    (s.dev.batonOwner n = some o →
      exec (.batonRead n none [a]) s = .next (s.withDev (s.dev.fresh.done a .ok (0x80000000 + o)))) ∧
    (s.dev.batonOwner n = none → a < b → SMap.get s.dev.ctl.batonPtr n 0 ≤ a →
      ∃ t, exec (.batonRead n none [b, a]) s = .next t ∧ t.dev.batonOwner n = some a ∧
        t.dev.last = [⟨a, .ok, 0⟩, ⟨b, .ok, 0x80000000 + a⟩] ∧ SMap.get t.dev.ctl.batonPtr n 0 = (a + 1) % 64 ∧
        t = s.withDev { s.dev with ctl := { s.dev.ctl with batons := t.dev.ctl.batons, batonPtr := t.dev.ctl.batonPtr },
                                   out := [], last := t.dev.last })) ∧
  (∀ (s : State) (m n o : Nat),
    (Reaches s m (some 0) .BAT n 0 → s.dev.batonOwner n = some m →
      exec (.batonRelease m n 0) s = .next (s.withDev ((s.dev.fresh.setBatons (SMap.erase s.dev.ctl.batons n)).done m .ok))) ∧
    (Reaches s m (some 0) .BAT n 0 → s.dev.batonOwner n = some o → o ≠ m →
      ∃ t, exec (.batonRelease m n 0) s = .next t ∧ t.mem = s.mem ∧ t.dev.batonOwner n = some o ∧ t.dev.last = [⟨m, .aborted, 0⟩]) ∧
    (Reaches s m none .BAT_PEEK n 0 →
      exec (.batonPeek m n) s = .next (s.withDev (s.dev.fresh.done m .ok
        (match s.dev.batonOwner n with | some o => 0x80000000 + o | none => 0)))))

/-- Mailboxes. A word written to a direction that is not FULL is held; one written to a FULL direction is dropped and counted in
BLOCKED. A doorbell of 1 to 8 words posts the direction with its length and interrupts a receiver that enabled it. The receiver's
read of the last posted word returns it and releases FULL.
Where the spec leaves it open this is the model's choice: log entry 67. -/
def Obligations.MailboxWordsArePosted : Prop :=
  ∀ (s : State) (m c i : Nat) (a : Bool) (v : Word), s.dev.mbSide c m = some a →
    (Reaches s m (some v.toNat) .MB_DATA c i → (s.dev.mbDir (mbOut c a)).full = false →
      exec (.mbDataWrite m c i v) s = .next (s.withDev ((s.dev.fresh.setMbDir (mbOut c a)
        { s.dev.mbDir (mbOut c a) with words := (s.dev.mbDir (mbOut c a)).words.set i v }).done m .ok))) ∧
    (Reaches s m (some v.toNat) .MB_DATA c i → (s.dev.mbDir (mbOut c a)).full = true →
      exec (.mbDataWrite m c i v) s = .next (s.withDev ((s.dev.fresh.setMbDir (mbOut c a)
        { s.dev.mbDir (mbOut c a) with blocked := min 255 ((s.dev.mbDir (mbOut c a)).blocked + 1) }).done m .ok))) ∧
    (Reaches s m (some v.toNat) .MB_DOORBELL c 0 → (s.dev.mbDir (mbOut c a)).full = false → 1 ≤ v.toNat % 16 → v.toNat % 16 ≤ 8 →
      ∃ t, exec (.mbDoorbell m c v false) s = .next t ∧
        t.dev.mbDir (mbOut c a) = { s.dev.mbDir (mbOut c a) with
          posted := (s.dev.mbDir (mbOut c a)).words, full := true, len := v.toNat % 16 } ∧
        t.dev.out = (if (s.dev.mbDir (mbOut c a)).rxIe = true ∧ (s.dev.mbMaster c (!a) ≤ 0x0F ∨ isCp (s.dev.mbMaster c (!a)) = true)
          then [.irq 0 (s.dev.mbMaster c (!a))] else []) ∧
        t.dev.last = [⟨m, .ok, 0⟩] ∧
        t = s.withDev { s.dev with ctl := { s.dev.ctl with mail := t.dev.ctl.mail }, out := t.dev.out, last := t.dev.last }) ∧
    (Reaches s m none .MB_DATA c i → (s.dev.mbDir (mbOut c !a)).full = true → i + 1 = (s.dev.mbDir (mbOut c !a)).len →
      ∃ t, exec (.mbDataRead m c i) s = .next t ∧ t.dev.last = [⟨m, .ok, ((s.dev.mbDir (mbOut c !a)).words.getD i 0).toNat⟩] ∧
        t.dev.mbDir (mbOut c !a) = { s.dev.mbDir (mbOut c !a) with full := false, senderReset := false } ∧
        t = s.withDev { s.dev with ctl := { s.dev.ctl with mail := t.dev.ctl.mail }, out := t.dev.out, last := t.dev.last })

/-- An access to the scratchpad window by the owner of a bank that is ON and not lent: a write puts the four bytes, least
significant first, at its address and leaves every other byte of both memories; a read returns the four bytes and leaves memory;
the cycles it waited, for the accesses before it in its bank and for what held the bank up, are added to the master's count, and
the bank is taken for one cycle more. A bank that is not ON gives its own error and is left alone.
Where the spec leaves it open this is the model's choice: log entry 143. -/
def Obligations.ScratchpadIsReadAndWritten : Prop :=
  ∀ (s : State) (m off b waited : Nat) (v : Word), issues m = true → s.dev.turnedAway m = false →
    s.dev.bootAllows m true (unalias off) = true → s.dev.bootAllows m false (unalias off) = true →
    s.dev.within m (some v.toNat) off = true → s.dev.within m none off = true → isHostFn m = false →
    off % 4 = 0 → inSpd (unalias off) = true → b = (unalias off - 0x08000000) / 0x80000 → s.dev.bankOwner b = m →
    (s.dev.bankState b = 0 → s.dev.on F.SPD_BANK_CFG_LEND b = false →
      (∃ t, exec (.scratchpadAccess m off (some v) waited) s = .next t ∧ t.pending = s.pending ∧ t.mem.hbm = s.mem.hbm ∧
        (∀ x, t.mem.spdByte x = if unalias off - 0x08000000 ≤ x ∧ x < unalias off - 0x08000000 + 4
          then (le 4 v.toNat).getD (x - (unalias off - 0x08000000)) 0 else s.mem.spdByte x) ∧
        t.dev = (s.dev.fresh.spdServe m b 1 waited).done m .ok) ∧
      exec (.scratchpadAccess m off none waited) s = .next (s.withDev ((s.dev.fresh.spdServe m b 1 waited).done m .ok
        (ofLe (s.mem.spdRead (unalias off - 0x08000000) 4)))) ∧
      (s.dev.fresh.spdServe m b 1 waited).spdWait b = s.dev.spdWait b + 1 ∧
      (s.dev.fresh.spdServe m b 1 waited).ctl = { s.dev.ctl with
        spdNext := (s.dev.fresh.spdServe m b 1 waited).ctl.spdNext } ∧
      (s.dev.fresh.spdServe m b 1 waited).q .SPD_CONFLICT m = (s.dev.q .SPD_CONFLICT m + s.dev.spdWait b + waited) % 2 ^ 64) ∧
    (s.dev.bankState b ≠ 0 →
      ∃ t, exec (.scratchpadAccess m off (some v) waited) s = .next t ∧ t.mem = s.mem ∧ t.dev.last = [⟨m, .notOn, 0⟩] ∧
        t.dev.wide = s.dev.wide)

/-- The configuration of a scratchpad bank. A new owner ends a lend; LEND starts the bank's self-test and its fall ends it; a
power state is taken, a bank that leaves OFF reads zero, and one that goes to ON wakes until BANK_WAKE_DONE. BIST_PASS_DONE
counts a pass of a running self-test and gives its result.
Where the spec leaves it open this is the model's choice: log entry 69. -/
def Obligations.ScratchpadBanksAreConfigured : Prop :=
  ∀ (s : State) (m b : Nat) (v : Word) (col : Nat),
    (Writes s m .SPD_BANK_CFG b 0 v.toNat →
      F.SPD_BANK_CFG_OWNER.ext (s.dev.written .SPD_BANK_CFG b 0 m v.toNat).toNat ≠ s.dev.f F.SPD_BANK_CFG_OWNER b →
      F.SPD_BANK_CFG_PSTATE.ext (s.dev.written .SPD_BANK_CFG b 0 m v.toNat).toNat = s.dev.f F.SPD_BANK_CFG_PSTATE b →
      exec (.spdOwnerWrite m b v) s = .next (s.withDev ((((s.dev.fresh.putWord .SPD_BANK_CFG b 0 m v.toNat).setF
        F.SPD_BANK_CFG_LEND 0 b).setF F.SPD_BANK_STAT_BIST_ACTIVE 0 b).done m .ok))) ∧
    (Writes s m .SPD_BANK_CFG b 0 v.toNat →
      F.SPD_BANK_CFG_OWNER.ext (s.dev.written .SPD_BANK_CFG b 0 m v.toNat).toNat = s.dev.f F.SPD_BANK_CFG_OWNER b →
      F.SPD_BANK_CFG_LEND.ext (s.dev.written .SPD_BANK_CFG b 0 m v.toNat).toNat = 0 →
      F.SPD_BANK_CFG_PSTATE.ext (s.dev.written .SPD_BANK_CFG b 0 m v.toNat).toNat = 0 → s.dev.f F.SPD_BANK_CFG_PSTATE b = 2 →
      ∃ t, exec (.pstateWrite m b v) s = .next t ∧ t.dev = ((((s.dev.fresh.putWord .SPD_BANK_CFG b 0 m v.toNat).setF
          F.SPD_BANK_STAT_BIST_ACTIVE 0 b).setF F.SPD_BANK_STAT_WAKING 1 b).done m .ok) ∧ t.mem.hbm = s.mem.hbm ∧
        ∀ a, t.mem.spdByte a = if a / 0x80000 = b then 0 else s.mem.spdByte a) ∧
    (Writes s m .SPD_BANK_CFG b 0 (setBit v 29) →
      F.SPD_BANK_CFG_OWNER.ext (s.dev.written .SPD_BANK_CFG b 0 m (setBit v 29)).toNat = s.dev.f F.SPD_BANK_CFG_OWNER b →
      F.SPD_BANK_CFG_PSTATE.ext (s.dev.written .SPD_BANK_CFG b 0 m (setBit v 29)).toNat = s.dev.f F.SPD_BANK_CFG_PSTATE b →
      ∃ t, exec (.lend m b v) s = .next t ∧ t = s.withDev t.dev ∧ t.dev.on F.SPD_BANK_CFG_LEND b = true ∧
        t.dev.on F.SPD_BANK_STAT_BIST_ACTIVE b = true ∧ t.dev.last = [⟨m, .ok, 0⟩] ∧
        RegsKept [regKey .SPD_BANK_CFG b 0 0 m, regKey .SPD_BANK_STAT b 0 0 0] s.dev t.dev ∧ OnlyRegs s.dev t.dev) ∧
    (Writes s m .SPD_BANK_CFG b 0 (clearBit v 29) →
      F.SPD_BANK_CFG_OWNER.ext (s.dev.written .SPD_BANK_CFG b 0 m (clearBit v 29)).toNat = s.dev.f F.SPD_BANK_CFG_OWNER b →
      F.SPD_BANK_CFG_PSTATE.ext (s.dev.written .SPD_BANK_CFG b 0 m (clearBit v 29)).toNat = s.dev.f F.SPD_BANK_CFG_PSTATE b →
      ∃ t, exec (.reclaim m b v) s = .next t ∧ t = s.withDev t.dev ∧ t.dev.on F.SPD_BANK_CFG_LEND b = false ∧
        t.dev.on F.SPD_BANK_STAT_BIST_ACTIVE b = false ∧ t.dev.last = [⟨m, .ok, 0⟩] ∧
        RegsKept [regKey .SPD_BANK_CFG b 0 0 m, regKey .SPD_BANK_STAT b 0 0 0] s.dev t.dev ∧ OnlyRegs s.dev t.dev) ∧
    (b < 32 → exec (.bankWakeDone b) s = .next (s.withDev (s.dev.fresh.setF F.SPD_BANK_STAT_WAKING 0 b))) ∧
    (b < 32 → s.dev.on F.SPD_BANK_STAT_BIST_ACTIVE b = true →
      exec (.bistPassDone b none) s = .next (s.withDev ((s.dev.fresh.bump F.SPD_BANK_BIST_PASSES b).setF F.SPD_BANK_STAT_BIST_RESULT 1 b)) ∧
      exec (.bistPassDone b (some col)) s = .next (s.withDev ((((s.dev.fresh.bump F.SPD_BANK_BIST_PASSES b).bump
        F.SPD_BANK_BIST_FAILS b).setF F.SPD_BANK_STAT_FAIL_COL col b).setF F.SPD_BANK_STAT_BIST_RESULT 2 b)))

/-- CTL_THAW frees its master and no other. CTL_MASTER_RESET of a host function takes its Batons, its TX stamps and its pending low
word, and leaves those of the others. CTL_VLOG_POP returns word 0 of the oldest violation, latches the others for the reader and
removes it. CTL_LOCK_SET locks. RESTART of one processor clears its HALTED bit and takes its Batons.
Where the spec leaves it open this is the model's choice: log entries 68 and 107. -/
def Obligations.MastersAreThawedAndReset : Prop :=
  ∀ (s : State) (m n : Nat) (v w0 w1 w2 w3 : Word) (rest : List (List Word)),
    (Writes s m .CTL_THAW 0 0 v.toNat → n = v.toNat % 64 →
      ∃ t, exec (.ctlThaw m v) s = .next t ∧ t = s.withDev t.dev ∧ t.dev.frozen n = false ∧ (∀ x, x ≠ n → t.dev.frozen x = s.dev.frozen x) ∧
        t.dev.last = [⟨m, .ok, 0⟩] ∧ RegsKept [regKey .CTL_THAW 0 0 0 0] s.dev t.dev ∧ WideKept [regKey .CTL_FROZEN 0 0 0 0] s.dev t.dev ∧
        OnlyRegs s.dev t.dev) ∧
    (Writes s m .CTL_MASTER_RESET 0 0 v.toNat → n = v.toNat % 64 → isHostFn n = true →
      ∃ t, exec (.ctlMasterReset m v) s = .next t ∧ t.mem = s.mem ∧ t.dev.ctl.batons = s.dev.ctl.batons.filter (fun x => x.2 != n) ∧
        (∀ p, p < 16 → t.dev.txqOf p = (s.dev.txqOf p).filter fun x => x.owner != n) ∧
        t.dev.ctl.pendLow = s.dev.ctl.pendLow.filter (fun x => x.1 != n) ∧ t.dev.frozen n = s.dev.frozen n ∧ t.dev.last = [⟨m, .ok, 0⟩]) ∧
    (Reaches s m none .CTL_VLOG_POP0 0 0 → s.dev.ctl.vlog = [w0, w1, w2, w3] :: rest →
      ∃ t, exec (.ctlVlogPop m) s = .next t ∧ t.mem = s.mem ∧ t.dev.ctl = { s.dev.ctl with vlog := rest } ∧ t.dev.last = [⟨m, .ok, w0.toNat⟩] ∧
        t.dev.get .CTL_VLOG_POP 0 0 0 m = w1 ∧ t.dev.get .CTL_VLOG_POP 1 0 0 m = w2 ∧ t.dev.get .CTL_VLOG_POP 2 0 0 m = w3) ∧
    (Writes s m .CTL_LOCK 0 0 (setBit v 0) → s.dev.on F.CTL_LOCK_LOCK = false →
      ∃ t, exec (.ctlLockSet m v) s = .next t ∧ t = s.withDev t.dev ∧ t.dev.on F.CTL_LOCK_LOCK = true ∧ RegsKept [regKey .CTL_LOCK 0 0 0 0] s.dev t.dev ∧
        OnlyRegs s.dev t.dev) ∧
    (Writes s m .CTL_CP_CTRL 0 0 v.toNat → n < 4 → v.toNat % 16 = 2 ^ n → s.dev.frozen (0x10 + n) = false →
      ∃ t, exec (.cpRestart m v) s = .next t ∧ t.mem = s.mem ∧ (t.dev.f F.CTL_CP_CTRL_HALTED).testBit n = false ∧
        t.dev.ctl.batons = s.dev.ctl.batons.filter (fun x => x.2 != 0x10 + n) ∧ t.dev.last = [⟨m, .ok, 0⟩])

/-- The warm firmware switch. GO starts the verification; a container that fails it ends in IDLE with its reason and changes no slot;
one that passes goes into the slot that does not run, and the processors are switched to it; RUNNING_ACK then leaves the switch to
be confirmed.
How a switch ends. CONFIRM keeps the new firmware and makes its security version the device's. Without RUNNING_ACK, or without
CONFIRM, in time the device goes back to the other slot, with RESULT REVERTED, and LOCKED time goes into holdover.
Where the spec leaves it open this is the model's choice: log entry 4. -/
def Obligations.FirmwareIsSwitched : Prop :=
  (∀ (s : State) (m r : Nat) (v : Word) (x : FwSlot),
    (Writes s m .CTL_FW_CTRL 0 0 (setBit v 31) →
      exec (.ctlFwGo m v) s = .next (s.withDev (((s.dev.fresh.putWord .CTL_FW_CTRL 0 0 m (setBit v 31)).setF F.CTL_FW_STATUS_STATE 1).done m .ok))) ∧
    (s.dev.f F.CTL_FW_STATUS_STATE = 1 → s.dev.fwCheck s.mem = .inl r → r < 8 →
      ∃ t, exec .fwVerifyDone s = .next t ∧ t.mem = s.mem ∧ t.pending = s.pending ∧ t.dev.f F.CTL_FW_STATUS_STATE = 0 ∧
        t.dev.f F.CTL_FW_STATUS_RESULT = r ∧ t.dev.f F.ID_STATUS_CP_SLOT = s.dev.f F.ID_STATUS_CP_SLOT ∧ OnlyRegs s.dev t.dev) ∧
    (s.dev.f F.CTL_FW_STATUS_STATE = 1 → s.dev.fwCheck s.mem = .inr x → s.dev.on F.ID_BOOT_STATUS_FW_RECOVERY = false →
      s.dev.f F.ID_STATUS_CP_SLOT = 0xA →
      ∃ t, exec .fwVerifyDone s = .next t ∧ t.mem = s.mem ∧ t.dev.ctl.slotB = some x ∧ t.dev.ctl.slotA = s.dev.ctl.slotA ∧
        t.dev.f F.ID_STATUS_CP_SLOT = 0xB ∧ t.dev.f F.CTL_FW_STATUS_STATE = 2 ∧ t.dev.ctl.newSecVer = x.secVer) ∧
    (Writes s m .CTL_FW_CONFIRM 0 0 1 → s.dev.f F.CTL_FW_STATUS_STATE = 2 →
      ∃ t, exec (.runningAck m) s = .next t ∧ t.mem = s.mem ∧ t.dev.f F.CTL_FW_STATUS_STATE = 3 ∧ t.dev.ctl = s.dev.ctl ∧
        t.dev.last = [⟨m, .ok, 0⟩])) ∧
  (∀ (s : State) (m : Nat),
    (Writes s m .CTL_FW_CONFIRM 0 0 2 → s.dev.f F.CTL_FW_STATUS_STATE = 3 → s.dev.ctl.newSecVer < 2 ^ 16 →
      ∃ t, exec (.fwConfirm m) s = .next t ∧ t.mem = s.mem ∧ t.dev.f F.CTL_FW_STATUS_STATE = 0 ∧ t.dev.f F.CTL_FW_STATUS_RESULT = 1 ∧
        t.dev.f F.CTL_FW_STATUS_SEC_VER = s.dev.ctl.newSecVer ∧ t.dev.f F.ID_STATUS_CP_SLOT = s.dev.f F.ID_STATUS_CP_SLOT ∧
        t.dev.ctl = s.dev.ctl) ∧
    (s.dev.f F.CTL_FW_STATUS_STATE = 2 → s.dev.f F.ID_STATUS_CP_SLOT = 0xB → s.dev.f F.TIME_STATUS_STATE = 1 →
      ∃ t, exec .runningAckTimeout s = .next t ∧ t.mem = s.mem ∧ t.dev.f F.CTL_FW_STATUS_STATE = 0 ∧ t.dev.f F.CTL_FW_STATUS_RESULT = 6 ∧
        t.dev.f F.ID_STATUS_CP_SLOT = 0xA ∧ t.dev.f F.TIME_STATUS_STATE = 2) ∧
    (s.dev.f F.CTL_FW_STATUS_STATE = 3 → s.dev.f F.ID_STATUS_CP_SLOT = 0xB → s.dev.f F.TIME_STATUS_STATE = 1 →
      ∃ t, exec .confirmTimeout s = .next t ∧ t.mem = s.mem ∧ t.dev.f F.CTL_FW_STATUS_STATE = 0 ∧ t.dev.f F.CTL_FW_STATUS_RESULT = 6 ∧
        t.dev.f F.ID_STATUS_CP_SLOT = 0xA ∧ t.dev.f F.TIME_STATUS_STATE = 2))

/-! ### Reset and start-up -/

/-- The resets of the device: both memories are empty, start-up is at stage 0x0, every register but ID_STRAP holds its reset value
(no key is listed but that of ID_STRAP), nothing is in flight, and the fuses stay. COLD_START samples the straps and ends a hold;
PWRGD_LOW and the undervoltage lockout hold the device in reset, and a pulse of the reset pin leaves such a hold as it is.
ID_RESET with its key resets the device as DEVICE_RESET does; with any other value it changes nothing but its completion; a write of it
by any other master is a violation, logged, which freezes that master where it is no engine. A PCIe
reset takes the Batons of H0 to H15 and leaves those of the other masters; no memory changes.
Where the spec leaves it open this is the model's choice: log entries 3, 84, 86 and 95. -/
def Obligations.DeviceResetsClear : Prop :=
  (∀ (s : State) (c : Instr), c = .deviceReset ∨ c = .pwrgdLow ∨ c = .undervoltageLockout ∨ (∃ x, c = .coldStart x) →
    ∃ t, exec c s = .next t ∧ t.pending = s.pending ∧ t.mem = ⟨[], []⟩ ∧ t.dev.bootStage = 0 ∧ t.dev.wide = [] ∧
      RegsKept [regKey .ID_STRAP 0 0 0 0] State.reset.dev t.dev ∧
      t.dev.get .ID_STRAP = (match c with | .coldStart x => word (x.straps % 128) | _ => s.dev.get .ID_STRAP) ∧
      t.dev.boot.inReset = (match c with | .pwrgdLow | .undervoltageLockout => true | .coldStart _ => false | _ => s.dev.boot.inReset) ∧
      t.dev.boot.fuses = s.dev.boot.fuses ∧
      t.dev = { Dev.reset with regs := t.dev.regs, boot := t.dev.boot, draws := s.dev.draws }) ∧
  (∀ (s : State) (m : Nat) (v : Word),
    (Writes s m .ID_RESET 0 0 v.toNat → v = 0xC01DB007 →
      ∃ t, exec (.idReset m v) s = .next t ∧ t.mem = ⟨[], []⟩ ∧ t.dev.bootStage = 0 ∧ t.dev.last = [⟨m, .ok, 0⟩] ∧
        RegsKept [regKey .ID_STRAP 0 0 0 0] State.reset.dev t.dev) ∧
    (Writes s m .ID_RESET 0 0 v.toNat → v ≠ 0xC01DB007 → exec (.idReset m v) s = .next (s.withDev (s.dev.fresh.done m .ok))) ∧
    (m ≠ 0 → issues m = true → s.dev.turnedAway m = false →
      s.dev.bootAllows m true (if isHostFn m then 0x0C000000 else Reg.off .ID_RESET) = true → s.dev.ctl.vlog.length < 256 →
      ∃ t, exec (.idReset m v) s = .next t ∧ t.mem = s.mem ∧ t.dev.bootStage = s.dev.bootStage ∧ t.dev.last = [⟨m, .aborted, 0⟩] ∧
        t.dev.frozen m = (!isEngine m || s.dev.frozen m) ∧ (∀ n, n ≠ m → t.dev.frozen n = s.dev.frozen n) ∧
        t.dev.ctl.vlog = s.dev.ctl.vlog ++ [[word ((if isEngine m then 10 else 1) * 2 ^ 28 + m * 2 ^ 22 + b2n (!isEngine m) * 2 ^ 21 + 2 ^ 20),
          word (offsetFor m (Reg.off .ID_RESET)), word (short s.dev.now8), 0]]) ∧
    (∃ t, exec .pcieReset s = .next t ∧ t.mem = s.mem ∧ t.dev.ctl.batons = s.dev.ctl.batons.filter (fun b => decide (16 ≤ b.2)) ∧
      t.dev.boot = s.dev.boot ∧ t.dev.wide = s.dev.wide))

/-- Stages 0x0 and 0x1: the PLLs lock and the clocks that run read good; the fuses are read into the registers of the identity, or the
device stays with the cause of the check that failed, and a later reading changes nothing.
Where the spec leaves it open this is the model's choice: log entries 75, 78, 129 and 152. -/
def Obligations.StartUpReadsFuses : Prop :=
  ∀ (s : State) (f : FuseIn),
    (s.dev.bootStage = 0 → s.dev.boot.inReset = false → s.dev.boot.jtagHeld = false → s.dev.boot.cooling = false →
      s.dev.f F.ID_STRAP_TREF_SEL ≠ 3 →
      exec .pllLock s = .next (s.withDev ((((((s.dev.fresh.setF F.ID_CLK_STAT_SYS_LOCK 1).setF F.ID_CLK_STAT_TIME_LOCK 1).setF
        F.ID_CLK_STAT_TREF_OK 1).setF F.ID_CLK_STAT_IREF_OK (b2n s.dev.boot.iref)).setF F.ID_CLK_STAT_LREF_OK s.dev.boot.lref).setF
        F.ID_STATUS_STAGE 1))) ∧
    (s.dev.bootStage = 1 → s.dev.f F.ID_BOOT_STATUS_CAUSE = 0 → s.dev.boot.fuses = none → f.parityOk = false →
      exec (.fuseLoadDone f) s = .next (s.withDev (s.dev.fresh.setF F.ID_BOOT_STATUS_CAUSE 1))) ∧
    (s.dev.bootStage = 1 → s.dev.f F.ID_BOOT_STATUS_CAUSE ≠ 0 → exec (.fuseLoadDone f) s = .next (s.withDev s.dev.fresh)) ∧
    (s.dev.bootStage = 1 → s.dev.f F.ID_BOOT_STATUS_CAUSE = 0 → s.dev.boot.fuses = none → f.parityOk = true → p256Public (identityScalar f.secret) = (f.certKeyX, f.certKeyY) →
      ∃ t, exec (.fuseLoadDone f) s = .next t ∧ t.mem = s.mem ∧ t.dev.bootStage = 2 ∧ t.dev.boot.fuses = some f ∧
        t.dev.boot.keyD = identityScalar f.secret ∧ t.dev.q .EV_SERIAL = f.serial % 2 ^ 64 ∧
        t.dev.f F.CTL_FW_STATUS_SEC_VER = f.secVer % 2 ^ 16 ∧ ∀ i, i < 8 → t.dev.get .EV_ROOT_DIGEST i = word (beAt f.rootDigest (4 * i) 4))

/-- Stage 0x2: with no good directory the device stays with cause 4; with no good container it goes into firmware recovery and gives the
first 16 banks to H0; else it goes on to stage 0x3, with the directory's image slots noted. After a cause that stops start-up nothing
changes.
Where the spec leaves it open this is the model's choice: log entry 99. -/
def Obligations.StartUpVerifiesFirmware : Prop :=
  ∀ (s : State) (f : FlashIn) (dir : List Byte), s.dev.bootStage = 2 → s.dev.on F.ID_BOOT_STATUS_FW_RECOVERY = false →
    (s.dev.f F.ID_BOOT_STATUS_CAUSE ≠ 0 → exec (.firmwareVerifyDone f) s = .next (s.withDev s.dev.fresh)) ∧
    (s.dev.f F.ID_BOOT_STATUS_CAUSE = 0 → flashDirectory f = none → exec (.firmwareVerifyDone f) s = .next (s.withDev (s.dev.fresh.setF F.ID_BOOT_STATUS_CAUSE 4))) ∧
    (s.dev.f F.ID_BOOT_STATUS_CAUSE = 0 → flashDirectory f = some dir → beAt dir 12 4 = 0 → beAt dir 20 4 = 0 →
      ∃ t, exec (.firmwareVerifyDone f) s = .next t ∧ t.mem = s.mem ∧ t.dev.bootStage = 2 ∧ t.dev.on F.ID_BOOT_STATUS_FW_RECOVERY = true ∧
        t.dev.f F.ID_BOOT_STATUS_CAUSE = 3 ∧ ∀ b, b < 16 → t.dev.bankOwner b = 0) ∧
    (s.dev.f F.ID_BOOT_STATUS_CAUSE = 0 → flashDirectory f = some dir → (s.dev.slotOf (beAt dir 12 4) f.fwA).isSome = true →
      ∃ t, exec (.firmwareVerifyDone f) s = .next t ∧ t.mem = s.mem ∧ t.dev.bootStage = 3 ∧ t.dev.on F.ID_BOOT_STATUS_FW_A_OK = true ∧
        t.dev.ctl.slotA = s.dev.slotOf (beAt dir 12 4) f.fwA ∧ t.dev.ctl.slotB = s.dev.slotOf (beAt dir 20 4) f.fwB ∧
        t.dev.boot.images = [(beAt dir 24 4, beAt dir 28 4), (beAt dir 32 4, beAt dir 36 4)] ∧ t.dev.on F.HBM_CTRL_EN = true)

/-- Stages 0x3 and 0x4: with no readable image the device stops in stage 0xF with cause 5 and its domains OFF; an image whose checks pass
and whose sections apply leads to stage 0x4, with its sequence number and security version on show; POWER_UP_DONE leads to stage 0x5.
Where the spec leaves it open this is the model's choice: log entries 77, 87, 99 and 100. -/
def Obligations.StartUpAppliesTheImage : Prop :=
  ∀ (s : State) (x : ImageIn) (n : Nat),
    (s.dev.bootStage = 3 →
      ∃ t, exec (.imageLoadDone none none) s = .next t ∧ t.mem = ⟨[], []⟩ ∧ t.dev.bootStage = 0xF ∧ t.dev.f F.ID_BOOT_STATUS_CAUSE = 5 ∧
        (n < 96 → t.dev.f F.PWR_DOM_STAT_STATE n = 2)) ∧
    (s.dev.bootStage = 3 → (s.dev.imageSlot x).2 ≠ 0 → s.dev.imageBad x = none → (sectionsOf x.bytes).map (·.typ) = [3] →
      (∀ g ∈ x.graphs, g.pipe < 16 ∧ g.nodes = [] ∧ g.trans = []) → x.graphs ≠ [] →
      ∃ t, exec (.imageLoadDone (some x) none) s = .next t ∧ t.mem = s.mem.stage x.bytes ∧ t.dev.bootStage = 4 ∧
        t.dev.get .ID_IMG_SEQ = word (beAt x.bytes 8 4) ∧ t.dev.f F.ID_IMG_INFO_SEC_VER = beAt x.bytes 6 2 ∧
        t.dev.f F.ID_BOOT_STATUS_IMG_SLOT = x.slot % 2 ∧ t.dev.boot.holdS = beAt x.bytes 28 2) ∧
    (s.dev.bootStage = 4 → ∃ t, exec .powerUpDone s = .next t ∧ t.mem = s.mem ∧ t.dev.bootStage = 5 ∧ t.dev.ev.measNext = none)

/-- Stages 0x5 and 0x6: LOCKED time or no source ends the acquisition, its timeout enters HOLDOVER where the step of epoch 0 was applied;
the hold begins where HOLD_S is not 0 and ends by RELEASE or its expiry; ENTER_SERVICE serves and locks.
Where the spec leaves it open this is the model's choice: log entries 4 and 82. -/
def Obligations.StartUpEntersService : Prop :=
  ∀ (s : State) (m seed : Nat) (v : Word),
    (s.dev.bootStage = 5 → s.dev.boot.acquired = false → s.dev.boot.timeSource = 0 → s.dev.boot.holdS = 0 →
      exec .timeAcquired s = .next (s.withDev { s.dev.fresh with boot := { s.dev.boot with acquired := true } })) ∧
    (s.dev.bootStage = 5 → s.dev.boot.acquired = false → s.dev.boot.timeSource ≠ 0 → s.dev.timeState ≠ 1 →
      s.dev.on F.TIME_STATUS_STEP_USED = true → s.dev.boot.holdS ≠ 0 →
      ∃ t, exec .timeTimeout s = .next t ∧ t.mem = s.mem ∧ t.dev.f F.TIME_STATUS_STATE = 2 ∧ t.dev.on F.ID_BOOT_STATUS_TIME_TIMEOUT = true ∧
        t.dev.on F.ID_BOOT_STATUS_HELD = true ∧ t.dev.boot = { s.dev.boot with acquired := true }) ∧
    (Writes s m .ID_BOOT_CTRL 0 0 (setBit v 31) → s.dev.on F.ID_BOOT_STATUS_HELD = true →
      exec (.holdRelease m v) s = .next (s.withDev (((s.dev.fresh.putWord .ID_BOOT_CTRL 0 0 m (setBit v 31)).setF
        F.ID_BOOT_STATUS_HELD 0).done m .ok))) ∧
    exec .holdExpiry s = .next (s.withDev (s.dev.fresh.setF F.ID_BOOT_STATUS_HELD 0)) ∧
    (s.dev.bootStage = 5 → s.dev.boot.acquired = true → s.dev.on F.ID_BOOT_STATUS_HELD = false → s.dev.boot.heldEvEn = false →
      s.dev.evOn = false → s.dev.boot.raiseFloor = false →
      exec (.enterService seed) s = .next (s.withDev (((s.dev.fresh.setF F.ID_STATUS_STAGE 6).set .ID_BOOT_MS
        (word (s.dev.time.ticks / 800000))).setF F.CTL_LOCK_LOCK 1))) ∧
    (s.dev.bootStage = 5 → s.dev.boot.acquired = false → s.dev.boot.timeSource = 0 ∨ s.dev.timeState = 1 → s.dev.boot.holdS = 0 →
      exec .timeTimeout s = .next (s.withDev { s.dev.fresh with boot := { s.dev.boot with acquired := true } }))

/-- The flash after start-up: GO starts the command and the device is BUSY, its end clears BUSY. TREF lost and returned show in
ID_CLK_STAT, and TIME_LOCK with them unless the straps name no reference; the loss of PCIE_REFCLK resets H0 to H15 as masters, and that of SYSREFCLK resets the device. IDCODE selects its data
register and leaves the device running; EXTEST holds the device in reset.
The BMC's two commands over SMBus: a well-formed write sets its cap, one with a wrong PEC has no effect at all, and a read returns
the register and puts its count, its four data bytes and the PEC over the whole transaction on the bus, from the address that the
straps give the device.
Where the spec leaves it open this is the model's choice: log entries 75, 84, 88 and 153. -/
def Obligations.FlashClocksAndTestPort : Prop :=
  (∀ (s : State) (m k n : Nat) (v : Word) (bs : List Byte),
    (Writes s m .ID_SPI_CMD 0 0 (setBit v 31) →
      ∃ t, exec (.spiGo m v) s = .next t ∧ t.mem = s.mem ∧ t.dev.on F.ID_SPI_CMD_BUSY = true ∧ t.dev.last = [⟨m, .ok, 0⟩] ∧
        t.dev.out.length = 1 ∧ t.dev.boot = { s.dev.boot with spi := t.dev.boot.spi }) ∧
    (s.dev.boot.spi = some (true, n) →
      exec (.spiDone true bs) s = .next (s.withDev (({ s.dev.fresh with boot := { s.dev.boot with spi := none } }.setF
        F.ID_SPI_CMD_BUSY 0).setF F.ID_SPI_CMD_ERR 0))) ∧
    (s.dev.held = false →
      exec .trefLost s = .next (s.withDev (((s.dev.fresh.setF F.ID_CLK_STAT_TREF_LOST 1).setF F.ID_CLK_STAT_TREF_OK 0).setF
        F.ID_CLK_STAT_TIME_LOCK 0)) ∧
      exec .trefReturn s = .next (s.withDev ((s.dev.fresh.setF F.ID_CLK_STAT_TREF_OK 1).setF F.ID_CLK_STAT_TIME_LOCK
        (if s.dev.f F.ID_STRAP_TREF_SEL = 3 then 0 else 1)))) ∧
    (s.dev.held = false → ∃ t, exec (.refclkLost 2 k) s = .next t ∧ t.mem = s.mem ∧ t.dev.ctl.batons = s.dev.ctl.batons.filter (fun b => decide (16 ≤ b.2)) ∧
      t.dev.boot = s.dev.boot) ∧
    (s.dev.held = false → ∃ t, exec (.refclkLost 3 k) s = .next t ∧ t.mem = ⟨[], []⟩ ∧ t.dev.bootStage = 0 ∧ t.dev.boot.inReset = false) ∧
    (s.dev.boot.jtagHeld = false → s.dev.boot.unpowered = false →
      exec (.jtagInstruction 1) s = .next (s.withDev ({ s.dev.fresh with boot := { s.dev.boot with ir := 1 } }.emit (.jtag 1 (some 0xB2048A5F))))) ∧
    (s.dev.boot.unpowered = false → ∃ t, exec (.jtagInstruction 0) s = .next t ∧ t.mem = ⟨[], []⟩ ∧ t.dev.bootStage = 0 ∧ t.dev.boot.jtagHeld = true ∧ t.dev.boot.ir = 0)) ∧
  (∀ (s : State) (v : Word), s.dev.boot.inReset = false → s.dev.boot.jtagHeld = false → s.dev.frozen 0x24 = false →
    (Writes s 0x24 .PWR_BMC_CAP 0 0 v.toNat →
      exec (.smbusWrite 0x01 (Reg.off .PWR_BMC_CAP) 8 v true) s = .next (s.withDev (((s.dev.fresh.putWord .PWR_BMC_CAP 0 0 0x24
        v.toNat).syncCap).done 0x24 .ok)) ∧
      exec (.smbusWrite 0x01 (Reg.off .PWR_BMC_CAP) 8 v false) s = .next (s.withDev s.dev.fresh)) ∧
    (Reaches s 0x24 none .PWR_BMC_CAP 0 0 →
      ∃ t bs, exec (.smbusRead 0x02 (Reg.off .PWR_BMC_CAP)) s = .next t ∧
        t = s.withDev ((s.dev.fresh.done 0x24 .ok (s.dev.shown (hitOf .PWR_BMC_CAP 0 0) 0x24)).emit
          (.smbus (0x58 + s.dev.f F.ID_STRAP_SMB_ADDR) bs)) ∧
        bs.length = 6 ∧ bs.take 5 = be 1 4 ++ le 4 (s.dev.shown (hitOf .PWR_BMC_CAP 0 0) 0x24)))

/-! ### The time base -/

/-- `n` ticks of the time clock with no slew left add `n` times TIME_RATE to device time. Accepted writes set the rate, the slew (its
value in 2^-8 ns replaces what remained) and the share of the slew that a tick applies; once the slew is complete nothing remains of
it. A read of TIME_NOW_NS returns the nanoseconds and latches the seconds for the reader. -/
def Obligations.DeviceTimeIsCounted : Prop :=
  ∀ (s : State) (m n : Nat) (v lo hi : Word),
    (s.dev.held = false → s.dev.time.slewRem = 0 → (s.dev.time.total + n * s.dev.q .TIME_RATE) / 2 ^ 48 / 1000000000 < 2 ^ 48 →
      ∃ t, exec (.timeTick n) s = .next t ∧ t.mem = s.mem ∧ t.pending = s.pending ∧ t.dev.time.ticks = s.dev.time.ticks + n ∧
        t.dev.time.stretched = s.dev.time.stretched + (if s.dev.pwr.droop then n else 0) ∧
        t.dev.time.total = s.dev.time.total + n * s.dev.q .TIME_RATE ∧ t.dev.time.slewRem = 0) ∧
    (ReachesWide s m (some lo.toNat) (offsetFor m (Reg.off .TIME_RATE)) .TIME_RATE 0 false →
      ReachesWide s m (some hi.toNat) (offsetFor m (Reg.off .TIME_RATE) + 4) .TIME_RATE 0 true → rateOk (hi.toNat * 2 ^ 32 + lo.toNat) = true →
      ∃ t, exec (.timeRateWrite m lo hi) s = .next t ∧ t.mem = s.mem ∧ t.dev.q .TIME_RATE = hi.toNat * 2 ^ 32 + lo.toNat ∧
        t.dev.last = [⟨m, .ok, 0⟩, ⟨m, .ok, 0⟩] ∧ t.dev.regs = s.dev.regs ∧ WideKept [regKey .TIME_RATE 0 0 0 0] s.dev t.dev ∧
        t.dev.time = s.dev.time) ∧
    (Writes s m .TIME_SLEW 0 0 v.toNat →
      exec (.timeSlewWrite m v) s = .next (s.withDev ({ s.dev.fresh.putWord .TIME_SLEW 0 0 m v.toNat with
        time := { s.dev.time with slewRem := v.toInt * 2 ^ 40 } }.done m .ok))) ∧
    (Writes s m .TIME_SLEW_RATE 0 0 v.toNat →
      ∃ t, exec (.timeSlewRateWrite m v) s = .next t ∧ t.mem = s.mem ∧
        t.dev.time = { s.dev.time with slewShare := t.dev.f F.TIME_SLEW_RATE_PPB * 5 * 2 ^ 48 / 4000000000 } ∧ t.dev.last = [⟨m, .ok, 0⟩] ∧
        RegsKept [regKey .TIME_SLEW_RATE 0 0 0 0] s.dev t.dev) ∧
    (0 < s.dev.time.slewShare → s.dev.time.slewRem ≠ 0 →
      ∃ t, exec .slewComplete s = .next t ∧ t.mem = s.mem ∧ t.dev.time.slewRem = 0 ∧ s.dev.time.ticks < t.dev.time.ticks ∧
        (s.dev.buf.due = [] → t.dev.regs = s.dev.regs)) ∧
    (Reaches s m none .TIME_NOW_NS 0 0 →
      ∃ t, exec (.timeNowNsRead m) s = .next t ∧ t.mem = s.mem ∧ t.dev.last = [⟨m, .ok, s.dev.time.ns⟩] ∧
        t.dev.get .TIME_NOW_SEC_LO 0 0 0 m = word s.dev.time.sec ∧ t.dev.time = s.dev.time ∧ OnlyRegs s.dev t.dev)

/-- Steps and epochs. GO with the epoch's step unused and a value in range leaves a step waiting for its tick, and time as it is; GO with
the step used has no effect but STATUS 2, its count in REJECTS and its entry in the violation log, and freezes nobody; a new epoch increments TIME_EPOCH and frees its step. At the tick device time
takes the value asked for, the step is used and marked; the mark falls after 1.1 s. -/
def Obligations.StepsAndEpochs : Prop :=
  ∀ (s : State) (m n seed : Nat) (v : Word) (r : StepReq),
    (Writes s m .TIME_STEP_CTRL 0 0 (setBit (word (clearBit v 30)) 31) → s.dev.on F.TIME_STATUS_STEP_USED = false →
      s.dev.time.pendingStep = none →
      r = (s.dev.putWord .TIME_STEP_CTRL 0 0 m (setBit (word (clearBit v 30)) 31)).stepReq false → s.dev.stepTarget r = some n →
      exec (.timeStepGo m v) s = .next (s.withDev ({ s.dev.fresh.putWord .TIME_STEP_CTRL 0 0 m (setBit (word (clearBit v 30)) 31) with
        time := { s.dev.time with pendingStep := some r } }.done m .ok))) ∧
    (Writes s m .TIME_STEP_CTRL 0 0 (setBit (word (clearBit v 30)) 31) → s.dev.on F.TIME_STATUS_STEP_USED = true →
      s.dev.ctl.vlog.length < 256 →
      ∃ t, exec (.timeStepGo m v) s = .next t ∧ t.mem = s.mem ∧ t.pending = s.pending ∧ t.dev.f F.TIME_STEP_CTRL_STATUS = 2 ∧
        t.dev.f F.TIME_STEP_CTRL_REJECTS = min (s.dev.f F.TIME_STEP_CTRL_REJECTS + 1) 65535 ∧
        t.dev.ctl = { s.dev.ctl with vlog := s.dev.ctl.vlog ++
          [[word (5 * 2 ^ 28 + m * 2 ^ 22 + 2 ^ 20), word (Reg.off .TIME_STEP_CTRL), word (short s.dev.now8), 2]] } ∧
        (∀ n, t.dev.frozen n = s.dev.frozen n) ∧ t.dev.last = [⟨m, .ok, 0⟩] ∧ RegsKept [regKey .TIME_STEP_CTRL 0 0 0 0] s.dev t.dev ∧
        t.dev = { s.dev with regs := t.dev.regs, ctl := t.dev.ctl, out := [], last := t.dev.last }) ∧
    (Writes s m .TIME_STEP_CTRL 0 0 (setBit v 30) → bit v.toNat 31 = false → s.dev.on F.TIME_STATUS_STEP_MARK = false →
      s.dev.time.pendingStep = none → s.dev.ev.interval = none →
      ∃ t, exec (.newEpoch m v seed) s = .next t ∧ t.mem = s.mem ∧ t.dev.f F.TIME_EPOCH_EPOCH = (s.dev.f F.TIME_EPOCH_EPOCH + 1) % 2 ^ 32 ∧
        t.dev.on F.TIME_STATUS_STEP_USED = false ∧ t.dev.f F.TIME_STEP_CTRL_STATUS = 5 ∧ t.dev.time = s.dev.time) ∧
    (s.dev.time.pendingStep = some r → r.absolute = true → r.newEpoch = false → r.ns < 1000000000 → s.dev.ev.interval = none →
      s.dev.buf.copies = [] → s.dev.time.txq = [] → s.dev.time.caps = [] → s.dev.time.pins = [] → s.dev.time.alarms = [] →
      ∃ t, exec (.stepTick seed) s = .next t ∧ t.mem = s.mem ∧ t.dev.time.sec = r.sec ∧ t.dev.time.ns = r.ns ∧ t.dev.time.frac = 0 ∧
        t.dev.time.pendingStep = none ∧ t.dev.on F.TIME_STATUS_STEP_USED = true ∧ t.dev.on F.TIME_STATUS_STEP_MARK = true ∧
        t.dev.f F.TIME_STEP_CTRL_STATUS = 1 ∧ t.dev.time.ticks = s.dev.time.ticks) ∧
    (s.dev.time.stepAt + 880000000 ≤ s.dev.time.ticks →
      exec .stepMarkClear s = .next (s.withDev (s.dev.fresh.setF F.TIME_STATUS_STEP_MARK 0)))

/-- The time state and the error bound. Requests enter LOCKED and HOLDOVER from the other states; the watchdog takes LOCKED time into
HOLDOVER and sets WDOG; a write of TIME_ERR_BASE restarts the bound's clock; the bound is recomputed, all ones in FREE, and ERR_OVER says
whether it exceeds its limit. -/
def Obligations.TimeStateAndErrorBound : Prop :=
  ∀ (s : State) (m : Nat) (v : Word),
    (Writes s m .TIME_CTRL 0 0 (2 ^ 30 + v.toNat % 2 ^ 30) → s.dev.f F.TIME_STATUS_STATE ≠ 1 →
      exec (.stateReqLocked m v) s = .next (s.withDev ({ (s.dev.fresh.putWord .TIME_CTRL 0 0 m (2 ^ 30 + v.toNat % 2 ^ 30)).setF
        F.TIME_STATUS_STATE 1 with time := { s.dev.time with lockedAt := s.dev.time.ticks } }.done m .ok))) ∧
    (Writes s m .TIME_CTRL 0 0 (2 ^ 31 + v.toNat % 2 ^ 30) → s.dev.f F.TIME_STATUS_STATE ≠ 2 →
      ∃ t, exec (.stateReqHoldover m v) s = .next t ∧ t.mem = s.mem ∧ t.dev.f F.TIME_STATUS_STATE = 2 ∧ t.dev.last = [⟨m, .ok, 0⟩] ∧
        t.dev.time = s.dev.time ∧ RegsKept [regKey .TIME_CTRL 0 0 0 0, regKey .TIME_STATUS 0 0 0 0] s.dev t.dev) ∧
    (s.dev.f F.TIME_STATUS_STATE = 1 → s.dev.f F.TIME_HOLD_CFG_WDOG_MS ≠ 0 →
      ∃ t, exec .wdog s = .next t ∧ t.mem = s.mem ∧ t.dev.f F.TIME_STATUS_STATE = 2 ∧ t.dev.on F.TIME_STATUS_WDOG = true ∧
        t.dev.time = s.dev.time ∧ RegsKept [regKey .TIME_STATUS 0 0 0 0] s.dev t.dev) ∧
    (Writes s m .TIME_ERR_BASE 0 0 v.toNat →
      exec (.timeErrBaseWrite m v) s = .next (s.withDev ({ s.dev.fresh.putWord .TIME_ERR_BASE 0 0 m v.toNat with
        time := { s.dev.time with errAt := some s.dev.time.ticks } }.done m .ok))) ∧
    (∃ t, exec .errBoundUpdate s = .next t ∧ t.mem = s.mem ∧ t.dev.f F.TIME_ERR_BOUND_BOUND = s.dev.errBound ∧
      (s.dev.f F.TIME_STATUS_STATE = 0 → t.dev.f F.TIME_ERR_BOUND_BOUND = 0xFFFFFFFF) ∧
        t.dev.on F.TIME_STATUS_ERR_OVER = decide (s.dev.f F.TIME_HOLD_CFG_ERR_LIMIT_NS < t.dev.f F.TIME_ERR_BOUND_BOUND) ∧
        RegsKept [regKey .TIME_ERR_BOUND 0 0 0 0, regKey .TIME_STATUS 0 0 0 0] s.dev t.dev)

/-- PTP residences and transmit stamps. The oldest unmatched residence of a pipe is freed. A pop returns the reader's own oldest stamp with
VALID, takes it out and latches its time; an aged entry is discarded and counted; FLUSH empties the queue.
Where the spec leaves it open this is the model's choice: log entry 4. -/
def Obligations.StampQueuesArePopped : Prop :=
  ∀ (s : State) (m p : Nat) (v : Word) (x : TxEntry) (rest : List TxEntry),
    (∃ t, exec (.residenceEntryTimeout p) s = .next t ∧ SMap.get t.dev.time.residence p [] = (SMap.get s.dev.time.residence p []).drop 1 ∧
      (∀ q, q ≠ p → SMap.get t.dev.time.residence q [] = SMap.get s.dev.time.residence q []) ∧
      t = s.withDev { s.dev.fresh with time := { s.dev.time with residence := t.dev.time.residence } }) ∧
    (Reaches s m none .TIME_TXQ_POP_LO p 0 → s.dev.txqOf p = x :: rest → x.owner = m → x.ident < 2 ^ 16 →
      ∃ t, exec (.timeTxqPop m p) s = .next t ∧ t.mem = s.mem ∧ t.dev.txqOf p = rest ∧ (∀ q, q ≠ p → t.dev.txqOf q = s.dev.txqOf q) ∧
        t.dev.get .TIME_TXQ_POP_HI p 0 0 m = word (short x.stamp8) ∧
        t.dev.last = [⟨m, .ok, 2 ^ 31 + b2n x.notSent * 2 ^ 30 + (x.stamp8 % 8) * 2 ^ 27 + x.port * 2 ^ 16 + x.ident⟩]) ∧
    (s.dev.txqOf p = x :: rest →
      ∃ t, exec (.txqEntryAged p) s = .next t ∧ t.mem = s.mem ∧ t.dev.txqOf p = rest ∧ (∀ q, q ≠ p → t.dev.txqOf q = s.dev.txqOf q) ∧
        RegsKept [regKey .TIME_TXQ_STAT p 0 0 0] s.dev t.dev) ∧
    (Writes s m .TIME_TXQ_CTRL p 0 (setBit v 31) →
      ∃ t, exec (.txqFlush m p v) s = .next t ∧ t.mem = s.mem ∧ t.dev.txqOf p = [] ∧ (∀ q, q ≠ p → t.dev.txqOf q = s.dev.txqOf q) ∧
        t.dev.f F.TIME_TXQ_STAT_LEVEL p = 0 ∧ t.dev.last = [⟨m, .ok, 0⟩])

/-- Time pins. ARM of an output later than 100 ns ahead arms it with STATUS 1, and one that comes too late gets STATUS 3; an armed ONE_SHOT
output fires one pulse of its width, at its polarity, at T less its trim and is disarmed with STATUS 2; PPS_OUT gives its pulse at the nearest whole second; a selected
edge at an input is captured with the trim taken off, and a pop returns and removes the oldest capture.
Alarms. EN = 1 on an alarm that nobody owns, or by its owner, makes the writer its owner and arms it at T; EN = 0 releases it; an armed
alarm that is reached sets FIRED, is disarmed, and interrupts its owner alone.
Where the spec leaves it open this is the model's choice: log entry 125. -/
def Obligations.PinsAndAlarmsFire : Prop :=
  (∀ (s : State) (m n c : Nat) (v : Word) (rest : List Nat),
    (Writes s m .TIME_PIN_CFG n 0 (setBit v 24) →
      F.TIME_PIN_CFG_MODE.ext (s.dev.written .TIME_PIN_CFG n 0 m (setBit v 24)).toNat = 2 → s.dev.pinMode n = 2 →
      (s.dev.now8 + 800 < s.dev.pinT n →
        exec (.pinArm m n v) s = .next (s.withDev ({ (s.dev.fresh.putWord .TIME_PIN_CFG n 0 m (setBit v 24)).setF F.TIME_PIN_CFG_STATUS 1 n with
          time := { s.dev.time with pins := SMap.set s.dev.time.pins n (s.dev.pinT n),
                                    pinBase := SMap.set s.dev.time.pinBase n (s.dev.pinT n) } }.done m .ok))) ∧
      (s.dev.pinT n ≤ s.dev.now8 + 800 →
        exec (.pinArm m n v) s = .next (s.withDev ({ (s.dev.fresh.putWord .TIME_PIN_CFG n 0 m (setBit v 24)).setF F.TIME_PIN_CFG_STATUS 3 n with
          time := { s.dev.time with pins := SMap.erase s.dev.time.pins n } }.done m .ok)))) ∧
    (SMap.find? s.dev.time.pins n = some c → s.dev.pinMode n = 2 →
      ∃ t, exec (.pinFire n) s = .next t ∧ t.mem = s.mem ∧ SMap.find? t.dev.time.pins n = none ∧ t.dev.f F.TIME_PIN_CFG_STATUS n = 2 ∧
        t.dev.out = [.pin n ((c : Int) - signed 16 (s.dev.f F.TIME_PIN_CFG_TRIM n) / 8) (s.dev.f F.TIME_PIN_WIDTH_WIDTH n * 8)
          (!s.dev.on F.TIME_PIN_CFG_POLARITY n)] ∧
        RegsKept [regKey .TIME_PIN_CFG n 0 0 0] s.dev t.dev) ∧
    (s.dev.held = false → s.dev.pinMode n = 1 → s.dev.timeState ≠ 0 →
      exec (.ppsEdge n) s = .next (s.withDev (s.dev.fresh.emit (.pin n
        ((((s.dev.now8 + 4000000000) / 8000000000 * 8000000000 : Nat) : Int) - signed 16 (s.dev.f F.TIME_PIN_CFG_TRIM n) / 8)
        (s.dev.f F.TIME_PIN_WIDTH_WIDTH n * 8) (!s.dev.on F.TIME_PIN_CFG_POLARITY n))))) ∧
    (s.dev.held = false → s.dev.pinMode n = 4 → s.dev.f F.TIME_PIN_CFG_EDGE n = 1 → SMap.find? s.dev.time.lastEdge n = none →
      (SMap.get s.dev.time.caps n []).length < 16 →
      ∃ t, exec (.pinCapture n true) s = .next t ∧ t.mem = s.mem ∧
        SMap.get t.dev.time.caps n [] = SMap.get s.dev.time.caps n [] ++ [trimmed s.dev.now8 (-(signed 16 (s.dev.f F.TIME_PIN_CFG_TRIM n)))] ∧
        t.dev.f F.TIME_PIN_CAP_STAT_LEVEL n = (SMap.get s.dev.time.caps n []).length + 1 ∧
        RegsKept [regKey .TIME_PIN_CAP_STAT n 0 0 0] s.dev t.dev) ∧
    (Reaches s m none .TIME_PIN_CAP_NS n 0 → SMap.get s.dev.time.caps n [] = c :: rest →
      ∃ t, exec (.pinCapPop m n) s = .next t ∧ t.mem = s.mem ∧ SMap.get t.dev.time.caps n [] = rest ∧
        t.dev.last = [⟨m, .ok, 2 ^ 31 + nsOf c⟩] ∧ t.dev.get .TIME_PIN_CAP_SEC_LO n 0 0 m = word (secOf c))) ∧
  (∀ (s : State) (m a c : Nat) (v : Word),
    (Writes s m .TIME_ALARM_CFG a 0 (setBit v 31) → s.dev.f F.TIME_ALARM_CFG_OWNER a = 0x3F → s.dev.now8 + 800 < s.dev.alarmT a → m < 64 →
      ∃ t, exec (.alarmEnable m a v) s = .next t ∧ t.mem = s.mem ∧ t.dev.f F.TIME_ALARM_CFG_OWNER a = m ∧
        t.dev.on F.TIME_ALARM_CFG_EN a = true ∧ t.dev.on F.TIME_ALARM_CFG_PAST a = false ∧
        SMap.find? t.dev.time.alarms a = some (s.dev.alarmT a) ∧ RegsKept [regKey .TIME_ALARM_CFG a 0 0 0] s.dev t.dev ∧
        t.dev.last = [⟨m, .ok, 0⟩]) ∧
    (Writes s m .TIME_ALARM_CFG a 0 (clearBit v 31) →
      ∃ t, exec (.alarmRelease m a v) s = .next t ∧ t.mem = s.mem ∧ t.dev.f F.TIME_ALARM_CFG_OWNER a = 0x3F ∧
        t.dev.on F.TIME_ALARM_CFG_EN a = false ∧ SMap.find? t.dev.time.alarms a = none ∧
        RegsKept [regKey .TIME_ALARM_CFG a 0 0 0] s.dev t.dev) ∧
    (SMap.find? s.dev.time.alarms a = some c →
      ∃ t, exec (.alarmFire a) s = .next t ∧ t.mem = s.mem ∧ SMap.find? t.dev.time.alarms a = none ∧
        t.dev.on F.TIME_ALARM_CFG_FIRED a = true ∧ t.dev.out = [.irq 1 (s.dev.f F.TIME_ALARM_CFG_OWNER a)] ∧
        RegsKept [regKey .TIME_ALARM_CFG a 0 0 0] s.dev t.dev))

/-! ### Ports and lanes -/

/-- Bring-up of a front-panel port moves stage by stage, each by its own event and only from its own stage. A port leaves LANE_LOCK
when every one of its lanes shows signal, lock and adaptation, and stays in it while one does not.
A stage of bring-up that fails in time, on a port whose link is down and whose lane group is ON, shows its cause and starts again at
the first stage that is not skipped.
Where the spec leaves it open this is the model's choice: log entries 4, 63, 152 and 154. -/
def Obligations.BringUpMovesByStages : Prop :=
  (∀ (s : State) (e map skew8 k : Nat) (lanes : List LaneIn), e < 1024 → s.dev.on F.PORT_CFG_EN e = true →
    (s.dev.f F.PORT_STATUS_STAGE e = 2 →
      exec (.anComplete e) s = .next (s.withDev (s.dev.fresh.setF F.PORT_STATUS_STAGE (if s.dev.on F.PORT_CFG_TRAIN_EN e then 3 else 4) e)) ∧
      exec (.noCommon e) s = .next (s.withDev (s.dev.fresh.setF F.PORT_STATUS_FAIL 1 e))) ∧
    (s.dev.f F.PORT_STATUS_STAGE e = 3 →
      ∃ t, exec (.trainingComplete e [] []) s = .next t ∧ t.mem = s.mem ∧ t.dev.f F.PORT_STATUS_STAGE e = 4 ∧ OnlyRegs s.dev t.dev) ∧
    (s.dev.f F.PORT_STATUS_STAGE e = 4 → lanes.length = modeLanes (s.dev.mode e) → k < lanes.length →
      ((∀ x, x ∈ lanes → x.signal = true ∧ x.cdr = true ∧ x.adapted = true) →
        ∃ t, exec (.laneLockComplete e lanes) s = .next t ∧ t.mem = s.mem ∧ t.dev.f F.PORT_STATUS_STAGE e = 5 ∧
          OnlyRegs { s.dev with boot := t.dev.boot } t.dev ∧ t.dev.on F.LANE_STATUS_CDR_LOCK (e + k) = true) ∧
      (∀ x, lanes[k]? = some x → x.adapted = false →
        ∃ t, exec (.laneLockComplete e lanes) s = .next t ∧ t.mem = s.mem ∧ t.dev.f F.PORT_STATUS_STAGE e = 4 ∧
          t.dev.on F.LANE_STATUS_ADAPTED (e + k) = false)) ∧
    (s.dev.f F.PORT_STATUS_STAGE e = 5 → skew8 ≤ 1440 → map < 2 ^ 24 →
      ∃ t, exec (.alignComplete e map skew8 []) s = .next t ∧ t.mem = s.mem ∧ t.dev.f F.PORT_STATUS_STAGE e = 6 ∧
        t.dev.f F.PORT_LANE_MAP_MAP e = map ∧ t.dev.f F.PORT_SKEW_SKEW e = skew8 ∧ OnlyRegs { s.dev with draws := t.dev.draws } t.dev) ∧
    (s.dev.f F.PORT_STATUS_STAGE e = 8 →
      exec (.faultCleared e) s = .next (s.withDev (((s.dev.fresh.setF F.PORT_STATUS_LOCAL_FAULT 0 e).setF F.PORT_STATUS_REMOTE_FAULT 0 e).setF
        F.PORT_STATUS_STAGE 6 e)))) ∧
  (∀ (s : State) (e : Nat), e < 1024 → s.dev.on F.PORT_CFG_EN e = true → s.dev.on F.PORT_STATUS_LINK_UP e = false →
    s.dev.domain (e / 16) = 0 → s.dev.boot.applying = false →
    (s.dev.f F.PORT_STATUS_STAGE e = 3 →
      ∃ t, exec (.trainTimeout e) s = .next t ∧ t.mem = s.mem ∧ t.dev.f F.PORT_STATUS_FAIL e = 2 ∧ t.dev.f F.PORT_STATUS_STAGE e = s.dev.firstStage e) ∧
    (s.dev.f F.PORT_STATUS_STAGE e = 4 →
      ∃ t, exec (.lockTimeout e) s = .next t ∧ t.mem = s.mem ∧ t.dev.f F.PORT_STATUS_FAIL e = 3 ∧ t.dev.f F.PORT_STATUS_STAGE e = s.dev.firstStage e) ∧
    (s.dev.f F.PORT_STATUS_STAGE e = 5 →
      ∃ t, exec (.alignTimeout e) s = .next t ∧ t.mem = s.mem ∧ t.dev.f F.PORT_STATUS_FAIL e = 5 ∧ t.dev.f F.PORT_STATUS_STAGE e = s.dev.firstStage e))

/-- PORT_ENABLE of a configured port that was down starts its bring-up, or leaves it in WAIT_POWER while its lane group is not ON, and
PORT_DISABLE takes a port, up or not, to IDLE with LINK_UP clear; both complete. -/
def Obligations.PortsAreEnabledAndDisabled : Prop :=
  ∀ (s : State) (m e : Nat) (v : Word),
    (Writes s m .PORT_CFG e 0 (setBit v 31) → s.dev.on F.PORT_CFG_EN e = false → s.dev.domain (e / 16) = 0 →
      ∃ t, exec (.portEnable m e v) s = .next t ∧ t.mem = s.mem ∧ t.dev.on F.PORT_CFG_EN e = true ∧
        t.dev.f F.PORT_STATUS_STAGE e = t.dev.firstStage e ∧ t.dev.last = [⟨m, .ok, 0⟩]) ∧
    (Writes s m .PORT_CFG e 0 (setBit v 31) → s.dev.on F.PORT_CFG_EN e = false → s.dev.domain (e / 16) ≠ 0 →
      ∃ t, exec (.portEnable m e v) s = .next t ∧ t.mem = s.mem ∧ t.dev.on F.PORT_CFG_EN e = true ∧
        t.dev.f F.PORT_STATUS_STAGE e = 1 ∧ t.dev.last = [⟨m, .ok, 0⟩]) ∧
    (Writes s m .PORT_CFG e 0 (clearBit v 31) → s.dev.on F.PORT_CFG_EN e = true →
      ∃ t, exec (.portDisable m e v) s = .next t ∧ t.mem = s.mem ∧ t.dev.on F.PORT_CFG_EN e = false ∧
        t.dev.f F.PORT_STATUS_STAGE e = 0 ∧ t.dev.on F.PORT_STATUS_LINK_UP e = false ∧ ⟨m, .ok, 0⟩ ∈ t.dev.last ∧
        (s.dev.on F.PORT_STATUS_LINK_UP e = false → t.dev.last = [⟨m, .ok, 0⟩]))

/-- Link up and down. After the debounce the port is UP with LINK_UP; a local or remote fault takes an aligned port, up or not, to FAULT with
that fault on show and LINK_UP clear; the loss of alignment, alone or with a fault, and the loss of lock or signal take it back to the start
of bring-up, or to WAIT_POWER, with LINK_UP and both faults clear; a port that is not aligned takes no part. The window of the FEC counts,
and degrades the link where the corrected symbols exceed the limit; without the FEC it counts what could not be corrected, and no window
counts before alignment.
Where the spec leaves it open this is the model's choice: log entry 4. -/
def Obligations.LinksRiseAndFall : Prop :=
  ∀ (s : State) (e a b c : Nat) (cause : LinkLoss) (rem loss : Bool), e < 1024 → s.dev.on F.PORT_CFG_EN e = true →
    (s.dev.f F.PORT_STATUS_STAGE e = 6 →
      ∃ t, exec (.debounceExpiry e) s = .next t ∧ t.mem = s.mem ∧ t.dev.f F.PORT_STATUS_STAGE e = 7 ∧ t.dev.on F.PORT_STATUS_LINK_UP e = true) ∧
    (s.dev.f F.PORT_STATUS_STAGE e ≠ 6 → exec (.debounceExpiry e) s = .next (s.withDev s.dev.fresh)) ∧
    (6 ≤ s.dev.f F.PORT_STATUS_STAGE e → s.dev.f F.PORT_STATUS_STAGE e ≤ 8 →
      (∃ t, exec (.faultReceived e rem false) s = .next t ∧ t.mem = s.mem ∧ t.dev.f F.PORT_STATUS_STAGE e = 8 ∧
        t.dev.on F.PORT_STATUS_LINK_UP e = false ∧
        t.dev.on (if rem then F.PORT_STATUS_REMOTE_FAULT else F.PORT_STATUS_LOCAL_FAULT) e = true ∧
        (s.dev.on F.PORT_STATUS_LINK_UP e = false → s.dev.f F.PORT_STATUS_STAGE e ≠ 7 →
          RegsKept [regKey .PORT_STATUS e 0 0 0] s.dev t.dev ∧ OnlyRegs s.dev t.dev)) ∧
      (∀ i, i = .faultReceived e rem true ∨ i = .linkDown e cause →
        ∃ t, exec i s = .next t ∧ t.mem = s.mem ∧ t.dev.on F.PORT_STATUS_LINK_UP e = false ∧ t.dev.on F.PORT_STATUS_LOCAL_FAULT e = false ∧
          t.dev.on F.PORT_STATUS_REMOTE_FAULT e = false ∧ t.dev.f F.PORT_STATUS_STAGE e =
            (if t.dev.domain (e / 16) = 0 ∧ t.dev.boot.applying = false then t.dev.firstStage e else 1))) ∧
    (s.dev.f F.PORT_STATUS_STAGE e < 6 ∨ 8 < s.dev.f F.PORT_STATUS_STAGE e →
      exec (.faultReceived e rem loss) s = .next (s.withDev s.dev.fresh) ∧ exec (.linkDown e cause) s = .next (s.withDev s.dev.fresh)) ∧
    (s.dev.configured e = true → 5 ≤ s.dev.f F.PORT_STATUS_STAGE e →
      (s.dev.fecOff e = false → s.dev.f F.PORT_FEC_CFG_DEGRADE_SYM e ≠ 0 → s.dev.f F.PORT_FEC_CFG_DEGRADE_SYM e < c →
        exec (.fecDegradeWindow e a b c) s = .next (s.withDev ((((s.dev.fresh.bumpQ .PORT_CNT e 2 0 b).bumpQ .PORT_CNT e 1 0 a).bumpQ
          .PORT_CNT e 3 0 c).setF F.PORT_STATUS_DEGRADED 1 e))) ∧
      (s.dev.fecOff e = false → s.dev.f F.PORT_FEC_CFG_DEGRADE_SYM e = 0 ∨ c ≤ s.dev.f F.PORT_FEC_CFG_DEGRADE_SYM e →
        exec (.fecDegradeWindow e a b c) s = .next (s.withDev (((s.dev.fresh.bumpQ .PORT_CNT e 2 0 b).bumpQ .PORT_CNT e 1 0 a).bumpQ
          .PORT_CNT e 3 0 c))) ∧
      (s.dev.fecOff e = true → exec (.fecDegradeWindow e a b c) s = .next (s.withDev (s.dev.fresh.bumpQ .PORT_CNT e 2 0 b)))) ∧
    (s.dev.configured e = false ∨ s.dev.f F.PORT_STATUS_STAGE e < 5 → exec (.fecDegradeWindow e a b c) s = .next (s.withDev s.dev.fresh))

/-- Preemption's verification: it starts with one attempt and a verify mPacket; a response makes preemption ACTIVE; a timeout sends
again below the limit and fails at it; every verify mPacket is answered; the partner's TLV is kept. -/
def Obligations.PreemptionIsVerified : Prop :=
  ∀ (s : State) (e frag : Nat), e < 1024 →
    (s.dev.on F.PORT_STATUS_LINK_UP e = true → s.dev.f F.PORT_PREEMPT_STAT_STATE e = 2 → s.dev.f F.PORT_PREEMPT_STAT_ATTEMPTS e = 0 →
      exec (.verifyStart e) s = .next (s.withDev (({ s.dev.fresh with ports := { s.dev.ports with
        limit := SMap.set s.dev.ports.limit e (s.dev.f F.PORT_PREEMPT_CFG_VERIFY_LIMIT e) } }.setF F.PORT_PREEMPT_STAT_ATTEMPTS 1 e).emit
          (.mPacket e false)))) ∧
    (s.dev.f F.PORT_PREEMPT_STAT_STATE e = 2 → s.dev.f F.PORT_PREEMPT_STAT_ATTEMPTS e ≠ 0 → s.dev.f F.PORT_PREEMPT_STAT_PARTNER_ADDFRAG e = 0 →
      exec (.verifyResponse e) s = .next (s.withDev ({ s.dev.fresh with ports := { s.dev.ports with
        activeCell := SMap.set s.dev.ports.activeCell e s.dev.cell } }.setF F.PORT_PREEMPT_STAT_STATE 3 e))) ∧
    (s.dev.f F.PORT_PREEMPT_STAT_STATE e = 2 → s.dev.f F.PORT_PREEMPT_STAT_ATTEMPTS e ≠ 0 →
      SMap.get s.dev.ports.limit e 0 ≤ s.dev.f F.PORT_PREEMPT_STAT_ATTEMPTS e →
      exec (.verifyTimeout e) s = .next (s.withDev (s.dev.fresh.setF F.PORT_PREEMPT_STAT_STATE 4 e))) ∧
    (s.dev.on F.PORT_STATUS_LINK_UP e = true →
      exec (.verifyReceived e) s = .next (s.withDev (s.dev.fresh.emit (.mPacket e true)))) ∧
    (s.dev.configured e = true → s.dev.f F.PORT_PREEMPT_CFG_MODE e ≠ 1 →
      ∃ t, exec (.lldpTlvReceived e true frag) s = .next t ∧ t.mem = s.mem ∧ t.dev.ports.partnerReady.contains e = true ∧
        t.dev.ports.partnerKnown.contains e = true ∧ t.dev.f F.PORT_PREEMPT_STAT_PARTNER_ADDFRAG e = frag % 4 ∧
        RegsKept [regKey .PORT_PREEMPT_STAT e 0 0 0] s.dev t.dev)

/-- Low-power idle and eye scans. An idle UP port that may enters LPI and counts it, and wakes when a frame is ready; the receiver follows
its partner. A scan starts with BUSY, its counts at zero and the DWELL of that moment, and ends done, stopped or aborted with the counts it then has.
Where the spec leaves it open this is the model's choice: log entry 60. -/
def Obligations.IdleAndScans : Prop :=
  ∀ (s : State) (m e l err cmp : Nat) (v : Word), e < 1024 → l < 1024 →
    (s.dev.on F.PORT_CFG_EN e = true → s.dev.f F.PORT_STATUS_STAGE e = 7 →
      (s.dev.on F.PORT_CFG_LPI_TX_EN e = true → s.dev.on F.PORT_STATUS_LPI_TX e = false → s.dev.lineBusy e = false →
        exec (.lpiEntry e) s = .next (s.withDev ((s.dev.fresh.setF F.PORT_STATUS_LPI_TX 1 e).bumpQ .PORT_CNT e 7))) ∧
      (s.dev.on F.PORT_STATUS_LPI_TX e = true → s.dev.lineBusy e = true →
        exec (.lpiWake e) s = .next (s.withDev ({ s.dev.fresh with ports := { s.dev.ports with
          awake := SMap.set s.dev.ports.awake e (s.dev.el8 + if s.dev.mode e = 1 then 36000 else 24000) } }.setF F.PORT_STATUS_LPI_TX 0 e))) ∧
      (s.dev.on F.PORT_CFG_LPI_RX_EN e = true →
        exec (.lpiRxEntry e) s = .next (s.withDev (s.dev.fresh.setF F.PORT_STATUS_LPI_RX 1 e)) ∧
        exec (.lpiRxExit e) s = .next (s.withDev (s.dev.fresh.setF F.PORT_STATUS_LPI_RX 0 e)))) ∧
    (Writes s m .LANE_SCAN_CFG l 0 (setBit (word (clearBit v 30)) 31) →
      ∃ t, exec (.scanGo m l v) s = .next t ∧ t.mem = s.mem ∧ t.dev.on F.LANE_SCAN_STAT_BUSY l = true ∧ t.dev.q .LANE_SCAN_ERR l = 0 ∧
        t.dev.q .LANE_SCAN_CMP l = 0 ∧ SMap.find? t.dev.ports.dwell l = some (t.dev.f F.LANE_SCAN_CFG_DWELL l) ∧
        t.dev.last = [⟨m, .ok, 0⟩]) ∧
    (Writes s m .LANE_SCAN_CFG l 0 (setBit (word (clearBit v 31)) 30) → s.dev.on F.LANE_SCAN_STAT_BUSY l = true →
      err ≤ cmp → cmp ≤ 65536 →
      ∃ t, exec (.scanStop m l v err cmp) s = .next t ∧ t.mem = s.mem ∧ t.dev.on F.LANE_SCAN_STAT_BUSY l = false ∧
        t.dev.f F.LANE_SCAN_STAT_STATUS l = 3 ∧ t.dev.q .LANE_SCAN_ERR l = err ∧ t.dev.q .LANE_SCAN_CMP l = cmp) ∧
    (s.dev.on F.LANE_SCAN_STAT_BUSY l = true → err ≤ 65536 →
      ∃ t, exec (.scanDone l err) s = .next t ∧ t.mem = s.mem ∧ t.dev.on F.LANE_SCAN_STAT_BUSY l = false ∧
        t.dev.f F.LANE_SCAN_STAT_STATUS l = 1 ∧ t.dev.q .LANE_SCAN_ERR l = err ∧
        t.dev.q .LANE_SCAN_CMP l = 2 ^ (16 + SMap.get s.dev.ports.dwell l 0) % 2 ^ 64) ∧
    (s.dev.on F.LANE_SCAN_STAT_BUSY l = true → err ≤ cmp → cmp ≤ 65536 →
      ∃ t, exec (.scanAborted l err cmp) s = .next t ∧ t.mem = s.mem ∧ t.dev.on F.LANE_SCAN_STAT_BUSY l = false ∧
        t.dev.f F.LANE_SCAN_STAT_STATUS l = 2 ∧ t.dev.on F.LANE_STATUS_CDR_LOCK l = false ∧ t.dev.q .LANE_SCAN_ERR l = err ∧
        t.dev.q .LANE_SCAN_CMP l = cmp)

/-! ### Power -/

/-- The power domains, every one of the 96. A write of PWR_DOM_CMD takes a domain out of ON at once, or from one low state to the other,
BUSY; it queues a wake of one that is out of ON, behind those of earlier management cycles and in order of number among those of its own;
a command for the state it is in changes nothing more; one given during a transition is recorded; a shed group is not woken by a command,
and one for another state ends its shedding. A wake slot starts the oldest queued wake. At the end of its transition the domain is in the
state it went to, BUSY and the transition are over, the event is logged with its type, reason and domain, the power interrupt goes to H0
and the control processors, and a recorded command is carried out.
Where the spec leaves it open this is the model's choice: log entry 4. -/
def Obligations.DomainsMove : Prop :=
  ∀ (s : State) (m n st x r : Nat) (v : Word) (old rest : List Nat) (d : Dev), n < 96 →
    (Writes s m .PWR_DOM_CMD n 0 v.toNat → d = s.dev.fresh.putWord .PWR_DOM_CMD n 0 m v.toNat → s.dev.inTransition n = false →
      s.dev.pwr.shed.contains n = false → F.PWR_DOM_CMD_STATE.ext (s.dev.written .PWR_DOM_CMD n 0 m v.toNat).toNat = st →
      (s.dev.f F.PWR_DOM_STAT_STATE n = 0 → st ≠ 0 →
        ∃ t, exec (.pwrDomCmd m n v) s = .next t ∧ t.mem = s.mem ∧ SMap.find? t.dev.pwr.moving n = some st ∧
          t.dev.on F.PWR_DOM_STAT_BUSY n = true ∧ ⟨m, .ok, 0⟩ ∈ t.dev.last) ∧
      (s.dev.f F.PWR_DOM_STAT_STATE n ≠ st → st ≠ 0 → (64 ≤ n ∧ n ≠ 92) ∨ s.dev.f F.PWR_DOM_STAT_STATE n ≠ 0 →
        exec (.pwrDomCmd m n v) s = .next (s.withDev (({ d with
          pwr := { s.dev.pwr with moving := SMap.set s.dev.pwr.moving n st } }.setF F.PWR_DOM_STAT_BUSY 1 n).done m .ok))) ∧
      (s.dev.f F.PWR_DOM_STAT_STATE n = st → exec (.pwrDomCmd m n v) s = .next (s.withDev (d.done m .ok))) ∧
      (s.dev.f F.PWR_DOM_STAT_STATE n ≠ 0 → st = 0 →
        ∃ t, exec (.pwrDomCmd m n v) s = .next t ∧ t.mem = s.mem ∧ t.dev.on F.PWR_DOM_STAT_QUEUED n = true ∧
          (∀ y, y ∈ t.dev.pwr.wakeQ ↔ y ∈ s.dev.pwr.wakeQ ∨ y = n) ∧
          (s.dev.pwr.wakeCycle ≠ s.dev.time.ticks * 5 / 4 → t.dev.pwr.wakeQ = s.dev.pwr.wakeQ ++ [n]) ∧
          (s.dev.pwr.wakeCycle = s.dev.time.ticks * 5 / 4 → s.dev.pwr.wakeBatch = 1 → s.dev.pwr.wakeQ = old ++ [x] →
            t.dev.pwr.wakeQ = old ++ (if x < n then [x, n] else [n, x])) ∧
          t.dev.last = [⟨m, .ok, 0⟩] ∧ RegsKept [regKey .PWR_DOM_CMD n 0 0 0, regKey .PWR_DOM_STAT n 0 0 0] s.dev t.dev)) ∧
    (Writes s m .PWR_DOM_CMD n 0 v.toNat → d = s.dev.fresh.putWord .PWR_DOM_CMD n 0 m v.toNat → s.dev.inTransition n = true →
      F.PWR_DOM_CMD_STATE.ext (s.dev.written .PWR_DOM_CMD n 0 m v.toNat).toNat = st →
      exec (.pwrDomCmd m n v) s = .next (s.withDev ({ d with
        pwr := { s.dev.pwr with recorded := SMap.set s.dev.pwr.recorded n st } }.done m .ok))) ∧
    (Writes s m .PWR_DOM_CMD n 0 v.toNat → d = s.dev.fresh.putWord .PWR_DOM_CMD n 0 m v.toNat → s.dev.inTransition n = false →
      s.dev.pwr.shed.contains n = true → F.PWR_DOM_CMD_STATE.ext (s.dev.written .PWR_DOM_CMD n 0 m v.toNat).toNat = st →
      (st = 0 → exec (.pwrDomCmd m n v) s = .next (s.withDev (d.done m .ok))) ∧
      (st ≠ 0 → s.dev.f F.PWR_DOM_STAT_STATE n ≠ 0 → s.dev.f F.PWR_DOM_STAT_STATE n ≠ st →
        exec (.pwrDomCmd m n v) s = .next (s.withDev ((({ d with pwr := { s.dev.pwr with
          shed := s.dev.pwr.shed.filter (· != n), moving := SMap.set s.dev.pwr.moving n st } }.setF F.PWR_DOM_STAT_FORCED 0 n).setF
          F.PWR_DOM_STAT_BUSY 1 n).done m .ok)))) ∧
    (s.dev.pwr.wakeQ = n :: rest →
      exec .wakeSlot s = .next (s.withDev (({ s.dev.fresh with pwr := { s.dev.pwr with
        wakeQ := rest, moving := SMap.set s.dev.pwr.moving n 0 } }.setF F.PWR_DOM_STAT_QUEUED 0 n).setF F.PWR_DOM_STAT_BUSY 1 n))) ∧
    (s.dev.pwr.wakeQ = [] → exec .wakeSlot s = .next (s.withDev s.dev.fresh)) ∧
    (SMap.find? s.dev.pwr.moving n = some st → st < 3 → s.dev.pwr.events.length < 64 →
      (SMap.find? s.dev.pwr.recorded n = none →
        ∃ t, exec (.domainTransitionDone n) s = .next t ∧ t.mem = s.mem ∧ t.dev.f F.PWR_DOM_STAT_STATE n = st ∧
          t.dev.on F.PWR_DOM_STAT_BUSY n = false ∧ SMap.find? t.dev.pwr.moving n = none ∧
          t.dev.pwr.events = s.dev.pwr.events ++ [[word ((if st = 0 then 1 else 2) * 2 ^ 27 +
            (if s.dev.on F.PWR_DOM_STAT_FORCED n = true then SMap.get s.dev.pwr.shedReason n 1 else 4) * 2 ^ 24 + n * 2 ^ 17), word (short s.dev.now8),
            word (s.dev.f F.PWR_POWER_DIE_DW * 2 ^ 16 + s.dev.f F.PWR_VIN_MV), 0]] ∧
          (∀ h, h ∈ [0x00, 0x10, 0x11, 0x12, 0x13] → Out.irq 2 h ∈ t.dev.out) ∧
          (64 ≤ n → n < 80 → t.dev.out = [0x00, 0x10, 0x11, 0x12, 0x13].map (Out.irq 2) ∧
            RegsKept [regKey .PWR_DOM_STAT n 0 0 0] s.dev t.dev)) ∧
      (SMap.find? s.dev.pwr.recorded n = some r → s.dev.pwr.shed.contains n = false → s.dev.boot.applying = false →
        s.dev.pwr.wakeQ.contains n = false →
        ∃ t, exec (.domainTransitionDone n) s = .next t ∧ t.mem = s.mem ∧ t.dev.f F.PWR_DOM_STAT_STATE n = st ∧
          SMap.find? t.dev.pwr.recorded n = none ∧ t.dev.on F.PWR_DOM_STAT_BUSY n = decide (r ≠ st ∧ r ≠ 0) ∧
          SMap.find? t.dev.pwr.moving n = (if r = st ∨ r = 0 then none else some r) ∧ (n ∈ t.dev.pwr.wakeQ ↔ r = 0 ∧ st ≠ 0))) ∧
    (SMap.find? s.dev.pwr.moving n = none → exec (.domainTransitionDone n) s = .next (s.withDev s.dev.fresh))

/-- Pipe steps. At its effective time a slowing pipe runs at the step it slows to, and the event is logged with the reason and the step;
before that time nothing happens. A pipe that sped up runs at its step, the event is logged and the derate is loosened to what the step and
the last word of the host or a processor require; at PS0 with no protective step the register goes back to its writers with their word; a
notice is due. A droop is stretched once and counted, ticks that pass in it are stretched ticks, and its end keeps the longest stretch.
Where the spec leaves it open this is the model's choice: log entry 139. -/
def Obligations.PipesStep : Prop :=
  ∀ (s : State) (p st t8 ns : Nat) (w : Word), p < 16 →
    (SMap.find? s.dev.pwr.slowing p = some (st, t8) → t8 ≤ s.dev.now8 → st < 8 → s.dev.pwr.events.length < 64 →
      ∃ t, exec (.stepDown p) s = .next t ∧ t.mem = s.mem ∧ t.dev.step p = st ∧ SMap.find? t.dev.pwr.slowing p = none ∧
        t.dev.pwr.speeding = s.dev.pwr.speeding ∧ RegsKept [regKey .PWR_PIPE_STAT p 0 0 0] s.dev t.dev ∧
        t.dev.pwr.events = s.dev.pwr.events ++ [[word (3 * 2 ^ 27 + s.dev.f F.PWR_PIPE_STAT_REASON p * 2 ^ 24 + (64 + p) * 2 ^ 17 + st * 2 ^ 14),
          word (short s.dev.now8), word (s.dev.f F.PWR_POWER_DIE_DW * 2 ^ 16 + s.dev.f F.PWR_VIN_MV), 0]]) ∧
    (SMap.find? s.dev.pwr.slowing p = some (st, t8) → s.dev.now8 < t8 → exec (.stepDown p) s = .next (s.withDev s.dev.fresh)) ∧
    (SMap.find? s.dev.pwr.slowing p = none → exec (.stepDown p) s = .next (s.withDev s.dev.fresh)) ∧
    (SMap.find? s.dev.pwr.speeding p = some st → st < 8 → s.dev.pwr.events.length < 64 →
      w = (SMap.find? s.dev.pwr.request p).getD (s.dev.get .ADM_PIPE_DERATE p) →
      ∃ t, exec (.stepUp p) s = .next t ∧ t.mem = s.mem ∧ t.dev.step p = st ∧ SMap.find? t.dev.pwr.speeding p = none ∧
        RegsKept [regKey .PWR_PIPE_STAT p 0 0 0, regKey .ADM_PIPE_DERATE p 0 0 0] s.dev t.dev ∧
        t.dev.pwr.events = s.dev.pwr.events ++ [[word (4 * 2 ^ 27 + s.dev.f F.PWR_PIPE_STAT_REASON p * 2 ^ 24 + (64 + p) * 2 ^ 17 + st * 2 ^ 14),
          word (short s.dev.now8), word (s.dev.f F.PWR_POWER_DIE_DW * 2 ^ 16 + s.dev.f F.PWR_VIN_MV), 0]] ∧
        t.dev.ivl.envDue ≠ [] ∧
        (st ≠ 0 → t.dev.f F.ADM_PIPE_DERATE_TIGHTEN_NS p = max (stepTighten st) (F.ADM_PIPE_DERATE_TIGHTEN_NS.ext w.toNat) ∧
          SMap.find? t.dev.pwr.request p = some w) ∧
        (st = 0 → s.dev.protective p = 0 → t.dev.get .ADM_PIPE_DERATE p = w ∧ SMap.find? t.dev.pwr.request p = none ∧
          t.dev.f F.PWR_PIPE_STAT_REASON p = 0)) ∧
    (SMap.find? s.dev.pwr.speeding p = none → exec (.stepUp p) s = .next (s.withDev s.dev.fresh)) ∧
    (s.dev.held = false → s.dev.pwr.droop = false →
      exec .droopStretch s = .next (s.withDev ({ s.dev.fresh with pwr := { s.dev.pwr with droop := true } }.bump F.PWR_DROOP_CNT_COUNT)) ∧
      exec (.droopEnd ns) s = .next (s.withDev s.dev.fresh)) ∧
    (s.dev.held = false → s.dev.pwr.droop = true →
      exec .droopStretch s = .next (s.withDev s.dev.fresh) ∧
      exec (.droopEnd ns) s = .next (s.withDev ({ s.dev.fresh with pwr := { s.dev.pwr with droop := false } }.setF F.PWR_DROOP_MAX_NS
        (max (s.dev.f F.PWR_DROOP_MAX_NS) (min ns 0xFFFFFFFF)))) ∧
      ∃ t, exec (.timeTick ns) s = .next t ∧ t.dev.time.stretched = s.dev.time.stretched + ns)

/-- The caps. A voltage sample sets VIN and the envelope cap of the least of the last 100 samples, and the effective cap follows; a
temperature below 97 °C clears the warning, the stacks' own temperatures are on show, and two samples of 115 °C trip the device, which loses HBM; the throttle moves the thermal
cap one step between 640 W and 1,540 W; a power under the cap but within the hysteresis ends CAP_UNMET and restores nothing.
The energy of a millisecond: the device total rises by all of it, modulo 2^64, what it was divided by starts again at zero, and the
domains that are not divided show the power it makes. A device held in reset sees none of these.
Where the spec leaves it open this is the model's choice: log entry 70. -/
def Obligations.CapsFollowTheSensors : Prop :=
  (∀ (s : State) (mv b die iin : Nat) (stk : List Nat) (d : Dev), mv < 2 ^ 16 → b < 256 → s.dev.held = false →
    (∃ t, exec (.vinSample mv) s = .next t ∧ t.mem = s.mem ∧ t.dev.f F.PWR_VIN_MV = mv ∧
      t.dev.f F.PWR_CAP_NOW_ENVELOPE_W = envelopeCap (((mv :: s.dev.pwr.vin).take 100).foldl min mv) ∧
      t.dev.f F.PWR_CAP_NOW_EFFECTIVE_W = t.dev.effectiveCap ∧
      RegsKept [regKey .PWR_VIN 0 0 0 0, regKey .PWR_CAP_NOW 0 0 0 0, regKey .PWR_STATUS 0 0 0 0] s.dev t.dev) ∧
    (celsius b < 97 →
      ∃ t, exec (.thermalSample ⟨[(b, true)], stk⟩) s = .next t ∧ t.mem = s.mem ∧ t.dev.f F.PWR_THERM_TJ = b ∧ t.dev.f F.PWR_THERM_HOT = 0 ∧
        t.dev.f F.PWR_SENSOR_TEMP_C 0 = b ∧ t.dev.on F.PWR_SENSOR_FAILED 0 = false ∧ t.dev.on F.PWR_STATUS_WARN = false ∧
        (∀ k, k < 8 → k < stk.length → t.dev.f F.HBM_STACK_STAT_TEMP_C k = stk.getD k 0 % 256) ∧
        t.dev.pwr.hotOnce = [] ∧ RegsKept ([regKey .PWR_THERM 0 0 0 0, regKey .PWR_SENSOR 0 0 0 0, regKey .PWR_STATUS 0 0 0 0] ++
          (List.range 8).map fun k => regKey .HBM_STACK_STAT k 0 0 0) s.dev t.dev) ∧
    (115 ≤ celsius b → s.dev.pwr.hotOnce = [0] → s.dev.tripped = false →
      ∃ t, exec (.thermalSample ⟨[(b, true)], stk⟩) s = .next t ∧ t.mem = { s.mem with hbm := [] } ∧ .thermTrip ∈ t.dev.out) ∧
    (∃ t, exec .throttle s = .next t ∧ t.mem = s.mem ∧ (640 ≤ s.dev.f F.PWR_THERM_THERMAL_W → s.dev.f F.PWR_THERM_THERMAL_W ≤ 1540 →
        t.dev.f F.PWR_THERM_THERMAL_W =
          (if 105 ≤ celsius (s.dev.f F.PWR_THERM_TJ) then max 640 (s.dev.f F.PWR_THERM_THERMAL_W - s.dev.f F.PWR_CAP_CFG_THROTTLE_STEP_W)
           else if celsius (s.dev.f F.PWR_THERM_TJ) ≤ 102 then
             min 1540 (s.dev.f F.PWR_THERM_THERMAL_W + s.dev.f F.PWR_CAP_CFG_THROTTLE_STEP_W)
           else s.dev.f F.PWR_THERM_THERMAL_W)) ∧ t.dev.f F.PWR_CAP_NOW_EFFECTIVE_W = t.dev.effectiveCap) ∧
    (d = (((s.dev.fresh.setF F.PWR_POWER_DIE_DW die).setF F.PWR_POWER_IIN_DA iin).syncCap).retargetMask 0xFFFF →
      die ≤ d.effectiveCap * 10 → d.effectiveCap * 10 - d.f F.PWR_CAP_CFG_HYST_W * 10 < die →
      ∃ t, exec (.capEvaluation die iin []) s = .next t ∧ t.mem = s.mem ∧ t.dev.on F.PWR_STATUS_CAP_UNMET = false ∧
        t.dev.pwr = { d.pwr with overSince := none, unmetSince := none, underSince := none } ∧
        RegsKept [regKey .PWR_STATUS 0 0 0 0] d t.dev)) ∧
  (∀ (s : State) (c : Instr), s.dev.held = true →
    (c = .throttle ∨ c = .droopStretch ∨ (∃ mv, c = .vinSample mv) ∨ (∃ x, c = .thermalSample x) ∨ (∃ n, c = .timeTick n)) →
    exec c s = .next (s.withDev s.dev.fresh)) ∧
  (∀ (s : State) (lg pp bq hb other : List Nat), lg.length = 64 → pp.length = 16 → bq.length = 4 → hb.length = 8 → other.length = 5 →
    s.dev.held = false → ∃ t, exec (.energyUpdate lg pp bq hb other) s = .next t ∧ t.mem = s.mem ∧ t.dev.pwr = { s.dev.pwr with weights := [] } ∧
      t.dev.q .PWR_ENERGY 65 = (s.dev.q .PWR_ENERGY 65 + lg.sum + pp.sum + bq.sum + hb.sum + other.sum) % 2 ^ 64 ∧
      (∀ i, i < 4 → t.dev.f F.PWR_DOM_STAT_POWER_DW (92 + i) = min 65535 (other.getD i 0 / 100)))

/-- Hints and the event log. PUSH queues the hint block at the end of the queue, or is refused with STATUS 2 on a full one; FLUSH empties
it; a hint takes effect when its lead begins and leaves when its end has come. A pop returns the oldest power event, latches its other
words and removes it, except for the BMC, whose read leaves it. -/
def Obligations.HintsAreQueued : Prop :=
  ∀ (s : State) (m : Nat) (v : Word) (h : Hint) (rest : List Hint) (a b c e : Word) (more : List (List Word)),
    (Writes s m .PWR_HINT_PUSH 0 0 (setBit v 31) → bit v.toNat 30 = false → s.dev.pwr.hints.length < 16 →
      h = ⟨s.dev.regTime .PWR_HINT_START_NS .PWR_HINT_START_SEC_LO .PWR_HINT_START_SEC_HI, s.dev.f F.PWR_HINT_DURATION_MS,
        s.dev.f F.PWR_HINT_LOAD_PIPES, s.dev.f F.PWR_HINT_LOAD_PCT, false⟩ → s.dev.now8 < h.start8 →
      ∃ t, exec (.hintPush m v) s = .next t ∧ t.mem = s.mem ∧ t.dev.pwr = { s.dev.pwr with hints := s.dev.pwr.hints ++ [h] } ∧
        t.dev.f F.PWR_HINT_STAT_LEVEL = s.dev.pwr.hints.length + 1 ∧ t.dev.f F.PWR_HINT_STAT_STATUS = 1 ∧ t.dev.last = [⟨m, .ok, 0⟩] ∧
        RegsKept [regKey .PWR_HINT_PUSH 0 0 0 0, regKey .PWR_HINT_STAT 0 0 0 0] s.dev t.dev) ∧
    (Writes s m .PWR_HINT_PUSH 0 0 (setBit v 31) → bit v.toNat 30 = false → 16 ≤ s.dev.pwr.hints.length →
      exec (.hintPush m v) s = .next (s.withDev (((s.dev.fresh.putWord .PWR_HINT_PUSH 0 0 m (setBit v 31)).setF
        F.PWR_HINT_STAT_STATUS 2).done m .ok))) ∧
    (Writes s m .PWR_HINT_PUSH 0 0 (setBit v 30) → bit v.toNat 31 = false →
      ∃ t, exec (.hintFlush m v) s = .next t ∧ t.mem = s.mem ∧ t.dev.pwr.hints = [] ∧ t.dev.f F.PWR_HINT_STAT_LEVEL = 0 ∧
        t.dev.last = [⟨m, .ok, 0⟩]) ∧
    (s.dev.pwr.hints = h :: rest → h.active = false → h.start8 ≤ s.dev.now8 + s.dev.f F.PWR_HINT_CFG_LEAD_US * 8000 → h ∉ rest →
      exec .hintStart s = .next (s.withDev ((s.dev.fresh.setHints ({ h with active := true } :: rest)).retargetMask h.pipes))) ∧
    (s.dev.pwr.hints = h :: rest → h.end8 ≤ s.dev.now8 →
      exec .hintEnd s = .next (s.withDev ((s.dev.fresh.setHints rest).retargetMask h.pipes))) ∧
    (Reaches s m none .PWR_EVT_POP0 0 0 → s.dev.pwr.events = [a, b, c, e] :: more →
      ∃ t, exec (.pwrEvtPop m) s = .next t ∧ t.mem = s.mem ∧ t.dev.last = [⟨m, .ok, a.toNat⟩] ∧ t.dev.get .PWR_EVT_POP 0 0 0 m = b ∧
        t.dev.get .PWR_EVT_POP 1 0 0 m = c ∧ t.dev.get .PWR_EVT_POP 2 0 0 m = e ∧
        t.dev.pwr.events = (if m = mBMC then s.dev.pwr.events else more) ∧ OnlyRegs { s.dev with pwr := t.dev.pwr } t.dev)

/-! ### Telemetry -/

/-- The trace ring. The write that sets the first enable allocates the ring's blocks and zeroes its positions, or is a conflict where they
cannot be had; the one that clears the last enable frees them once no record is in flight; every other is kept. RELPOS moves within what
the ring holds. A read at a held position returns the record's first word, latches the rest and moves on; one of a record that holds an
uncorrectable word completes with an error and moves on too; at a position not yet written it returns zero.
Where the spec leaves it open this is the model's choice: log entries 92, 134 and 142. -/
def Obligations.TraceRingIsWrittenAndRead : Prop :=
  ∀ (s : State) (m pick a : Nat) (v lo hi : Word) (d : Dev),
    (Writes s m .TEL_CTRL 0 0 v.toNat → d = s.dev.fresh.putWord .TEL_CTRL 0 0 m v.toNat →
      (d.ringOn = true ∧ (s.dev.ringOn = true ∨ s.dev.tel.blocks ≠ []) ∨ d.ringOn = false ∧ s.dev.ringInFlight = true →
        exec (.telCtrlWrite m v pick) s = .next (s.withDev (d.done m .ok))) ∧
      (d.ringOn = false → s.dev.ringInFlight = false →
        ∃ t, exec (.telCtrlWrite m v pick) s = .next t ∧ t.mem = s.mem ∧ t.dev.tel.blocks = [] ∧ t.dev.last = [⟨m, .ok, 0⟩]) ∧
      (d.ringOn = true → s.dev.ringOn = false → s.dev.tel.blocks = [] →
        s.dev.f F.BUF_POOL_FREE_FREE 3 = 0 → 0 < s.dev.f F.TEL_RING_CFG_BLOCKS →
        exec (.telCtrlWrite m v pick) s = .next (s.withDev (s.dev.fresh.done m .conflict)))) ∧
    (ReachesWide s m (some lo.toNat) (offsetFor m (Reg.off .TEL_RING_RELPOS)) .TEL_RING_RELPOS 0 false →
      ReachesWide s m (some hi.toNat) (offsetFor m (Reg.off .TEL_RING_RELPOS) + 4) .TEL_RING_RELPOS 0 true →
      s.dev.q .TEL_RING_RELPOS ≤ hi.toNat * 2 ^ 32 + lo.toNat → hi.toNat * 2 ^ 32 + lo.toNat ≤ s.dev.q .TEL_RING_WRPOS →
      ∃ t, exec (.telRingRelposWrite m lo hi) s = .next t ∧ t.mem = s.mem ∧ t.dev.q .TEL_RING_RELPOS = hi.toNat * 2 ^ 32 + lo.toNat ∧
        t.dev.last = [⟨m, .ok, 0⟩, ⟨m, .ok, 0⟩] ∧ t.dev.regs = s.dev.regs ∧ WideKept [regKey .TEL_RING_RELPOS 0 0 0 0] s.dev t.dev) ∧
    (Reaches s m none .TEL_RING_RD_DATA0 0 0 → s.dev.tel.blocks ≠ [] → s.dev.q .TEL_RING_RELPOS ≤ s.dev.q .TEL_RING_RD_POS 0 0 0 m →
      s.dev.q .TEL_RING_RD_POS 0 0 0 m < s.dev.q .TEL_RING_WRPOS → a = s.dev.ringAddr (s.dev.q .TEL_RING_RD_POS 0 0 0 m) →
      (s.dev.knownBad a 32 = false →
        ∃ t, exec (.telRingRdData m) s = .next t ∧ t.mem = s.mem ∧ t.dev.last = [⟨m, .ok, beAt (s.dev.hbmRead s.mem 6 a 32) 0 4⟩] ∧
          (∀ w, w < 7 → t.dev.get .TEL_RING_RD_DATA w 0 0 m = word (beAt (s.dev.hbmRead s.mem 6 a 32) (4 * w + 4) 4)) ∧
          t.dev.q .TEL_RING_RD_POS 0 0 0 m = s.dev.q .TEL_RING_RD_POS 0 0 0 m + 1) ∧
      (s.dev.knownBad a 32 = true →
        ∃ t, exec (.telRingRdData m) s = .next t ∧ t.mem = s.mem ∧ t.dev.last = [⟨m, .unsupported, 0⟩] ∧
          t.dev.q .TEL_RING_RD_POS 0 0 0 m = s.dev.q .TEL_RING_RD_POS 0 0 0 m + 1)) ∧
    (Reaches s m none .TEL_RING_RD_DATA0 0 0 → s.dev.q .TEL_RING_WRPOS ≤ s.dev.q .TEL_RING_RD_POS 0 0 0 m →
      exec (.telRingRdData m) s = .next (s.withDev (s.dev.fresh.done m .ok 0)))

/-- Histograms, counters, snapshot and descriptor window. CLEAR zeroes an index's bins and its maximum; a snapshot takes device time; a
clear zeroes a whole chain and its overflows; a counter that starts no chain reads as it stands; the descriptor window shows the
descriptor of the copy that holds the index, with IN_USE where it is linked to a queue, a discard list or a hold; where none holds it
IN_USE reads 0 and the descriptor's bytes are free. NEXT is the descriptor behind it on its queue, where there is one.
Where the spec leaves it open this is the model's choice: log entry 22. -/
def Obligations.CountersAndWindowsRead : Prop :=
  ∀ (s : State) (m n k : Nat) (v : Word) (c : Copy),
    (Writes s m .TEL_HIST_CFG n 0 v.toNat → bit v.toNat 31 = true →
      ∃ t, exec (.telHistCfgWrite m n v) s = .next t ∧ t.mem = s.mem ∧ (∀ x, x < 16 → t.dev.q .TEL_HIST n x = 0) ∧
        t.dev.f F.TEL_HIST_MAX_MAX_NS n = 0 ∧ t.dev.last = [⟨m, .ok, 0⟩] ∧
        RegsKept [regKey .TEL_HIST_CFG n 0 0 0, regKey .TEL_HIST_MAX n 0 0 0] s.dev t.dev) ∧
    (Writes s m .TEL_SNAP 0 0 (setBit v 31) →
      ∃ t, exec (.telSnap m v) s = .next t ∧ t.mem = s.mem ∧ t.dev.get .TEL_SNAP_TIME_NS = word (nsOf s.dev.now8) ∧
        t.dev.get .TEL_SNAP_TIME_SEC_LO = word (secOf s.dev.now8) ∧ t.dev.last = [⟨m, .ok, 0⟩] ∧ OnlyRegs s.dev t.dev) ∧
    (Writes s m .TEL_PC_CLEAR 0 0 (setBit v 31) →
      ∃ t, exec (.telPcClear m v) s = .next t ∧ t.mem = s.mem ∧
        (∀ x, x ∈ s.dev.chainFrom (v.toNat % 1024) → t.dev.f F.TEL_PC_COUNT x = 0 ∧ t.dev.on F.TEL_PC_CFG_OVF x = false) ∧
        t.dev.last = [⟨m, .ok, 0⟩] ∧ OnlyRegs s.dev t.dev) ∧
    (Reaches s m none .TEL_PC k 0 → s.dev.on F.TEL_PC_CFG_CHAIN k = false →
      ∃ t, exec (.telPcRead m k) s = .next t ∧ t.mem = s.mem ∧ t.dev.last = [⟨m, .ok, s.dev.f F.TEL_PC_COUNT k⟩] ∧ t.dev.regs = s.dev.regs ∧
        ∀ x, x ∈ (s.dev.chainFrom k).drop 1 →
          SMap.find? t.dev.ctl.shadow (m * 2 ^ 28 + Reg.off .TEL_PC x) = some (word (s.dev.f F.TEL_PC_COUNT x))) ∧
    (Writes s m .TEL_DESC_SEL 0 0 v.toNat →
      (∀ x, x ∈ s.dev.copyList → x.desc ≠ some (F.TEL_DESC_SEL_INDEX.ext (s.dev.written .TEL_DESC_SEL 0 0 m v.toNat).toNat)) →
      ∃ t, exec (.telDescSel m v) s = .next t ∧ t.mem = s.mem ∧ t.pending = s.pending ∧ t.dev.get .TEL_DESC_STAT 0 0 0 m = 0 ∧
        OnlyRegs { s.dev with draws := s.dev.draws + 1 } t.dev ∧ t.dev.last = [⟨m, .ok, 0⟩]) ∧
    (Writes s m .TEL_DESC_SEL 0 0 v.toNat →
      s.dev.copyList.find? (fun x => x.desc == some (F.TEL_DESC_SEL_INDEX.ext (s.dev.written .TEL_DESC_SEL 0 0 m v.toNat).toNat)) = some c →
      ∃ t, exec (.telDescSel m v) s = .next t ∧ t.mem = s.mem ∧ t.pending = s.pending ∧ t.dev.get .TEL_DESC_STAT 0 0 0 m = word (b2n (s.dev.linked c) * 2 ^ 31) ∧
        (∃ x, (∀ w, w < 8 → t.dev.get .TEL_DESC_DATA w 0 0 m = word (beAt (c.descBytes x) (4 * w) 4)) ∧
          (c.stage ≠ .discard → ∀ y, y ∈ ((((s.dev.queue (queueOf c.egress c.served)).dropWhile (· != c.id)).drop 1).head?.bind
            s.dev.copy?).bind (·.desc) → x = y)) ∧
        OnlyRegs s.dev t.dev ∧ t.dev.last = [⟨m, .ok, 0⟩])

/-! ### The Ivgon link -/

/-- A logical port of the Ivgon link itself comes up stage by stage and falls with its causes: symbol lock goes to training, over an
Ethernet port that is up to version negotiation; training keeps the polarity, the lane order and a skew of at most 8 characters; a timeout
sets FAIL and starts again; a link lost in UP leaves UP, except that a sleeping receiver does not judge its lanes.
Where the spec leaves it open this is the model's choice: log entries 4, 148 and 152. -/
def Obligations.IvlPortsComeUp : Prop :=
  ∀ (s : State) (k e inv skew : Nat) (rev : Bool), s.dev.ivlActive k = true →
    (s.dev.ivlStage k = 2 → s.dev.ivlCarrier k = none →
      exec (.ivlSymbolLock k) s = .next (s.withDev (((s.dev.fresh.clockRuns none).setF F.IVL_PORT_STATUS_STAGE 3 k).emit
        (.ivlFill k (.ts false))))) ∧
    (s.dev.ivlStage k = 2 → s.dev.ivlCarrier k = some e → s.dev.linkUp e = true →
      exec (.ivlSymbolLock k) s = .next (s.withDev (s.dev.fresh.setF F.IVL_PORT_STATUS_STAGE 4 k))) ∧
    (s.dev.ivlStage k = 2 → s.dev.ivlUp k = false →
      ∃ t, exec (.ivlLockTimeout k) s = .next t ∧ t.mem = s.mem ∧ t.dev.ivlStage k = 2 ∧ t.dev.f F.IVL_PORT_STATUS_FAIL k = 1 ∧
        t.dev.ivlUp k = false ∧ t.dev.ivlQueue k = [] ∧ RegsKept [regKey .IVL_PORT_STATUS k 0 0 0] s.dev t.dev) ∧
    (s.dev.ivlStage k = 3 → skew ≤ 8 → s.dev.on F.IVL_PORT_CFG_AUTO_POL k = true →
      exec (.ivlTrainingComplete k inv rev skew) s = .next (s.withDev ((((s.dev.fresh.setF F.IVL_PORT_STATUS_RX_INV_ACT inv k).setF
        F.IVL_PORT_STATUS_RX_REVERSED (b2n rev) k).setF F.IVL_PORT_STATUS_STAGE 4 k).emit (.ivlFill k .idle)))) ∧
    (s.dev.ivlStage k = 3 → s.dev.ivlUp k = false →
      ∃ t, exec (.ivlTrainTimeout k) s = .next t ∧ t.mem = s.mem ∧ t.dev.ivlStage k = 2 ∧ t.dev.f F.IVL_PORT_STATUS_FAIL k = 2 ∧
        t.dev.ivlUp k = false ∧ t.dev.ivlQueue k = [] ∧ RegsKept [regKey .IVL_PORT_STATUS k 0 0 0] s.dev t.dev) ∧
    (s.dev.ivlStage k = 5 → s.dev.on F.IVL_PORT_STATUS_RX_SLEEP k = true →
      exec (.ivlLinkDown k) s = .next (s.withDev s.dev.fresh)) ∧
    (s.dev.ivlStage k = 5 → s.dev.on F.IVL_PORT_STATUS_RX_SLEEP k = false →
      ∃ t, exec (.ivlLinkDown k) s = .next t ∧ t.mem = s.mem ∧ t.dev.ivlStage k = 2 ∧ t.dev.ivlUp k = false ∧ t.dev.ivlVersion k = 0 ∧
        t.dev.ivlQueue k = []) ∧
    (s.dev.ivlStage k = 5 → s.dev.on F.IVL_PORT_STATUS_RX_SLEEP k = true →
      ∃ t, exec (.wakeTimeout k) s = .next t ∧ t.mem = s.mem ∧ t.dev.ivlStage k = 2 ∧ t.dev.f F.IVL_PORT_STATUS_FAIL k = 5 ∧ t.dev.ivlUp k = false)

/-- Sleep, skip sets and version negotiation. An idle transmitter that may puts out four SLEEP sets and sleeps, and wakes when something
waits, which it sends after its WAKE sets; the receiver follows its partner. At a SKIP set each lane's elastic buffer moves a character
towards its centre, and each change is counted. A port in negotiation sends VERSION until it has its peer's; bitmaps that agree bring it UP
in the highest common version. What leaves on the lanes has the SKIP sets that are due around it.
Where the spec leaves it open this is the model's choice: log entries 5, 148 and 149. -/
def Obligations.IvlPortsSleepAndAgree : Prop :=
  ∀ (s : State) (k v : Nat) (x : SkipIn) (msg : IvlMsg), s.dev.ivlActive k = true → s.dev.ivlCarrier k = none →
    (s.dev.ivlStage k = 5 → s.dev.on F.IVL_PORT_CFG_SLEEP_TX_EN k = true → s.dev.ivlQueue k = [] →
      exec (.ivlSleep k) s = .next (s.withDev ((s.dev.fresh.setF F.IVL_PORT_STATUS_TX_SLEEP 1 k).emit (.ivlSets k 4 .sleep)))) ∧
    (s.dev.ivlStage k = 5 → s.dev.on F.IVL_PORT_STATUS_TX_SLEEP k = true → s.dev.ivlQueue k ≠ [] →
      ∃ t, exec (.ivlWake k) s = .next t ∧ t.mem = s.mem ∧ t.dev.on F.IVL_PORT_STATUS_TX_SLEEP k = false ∧ t.dev.ivlQueue k = [] ∧
        t.dev.out.head? = some (.ivlSets k 516 .wake) ∧ (s.dev.ivlQueue k).length < t.dev.out.length ∧
        RegsKept [regKey .IVL_PORT_STATUS k 0 0 0] s.dev t.dev) ∧
    (s.dev.ivlStage k = 5 →
      exec (.ivlRxSleep k) s = .next (s.withDev (s.dev.fresh.setF F.IVL_PORT_STATUS_RX_SLEEP 1 k)) ∧
      exec (.ivlRxWake k) s = .next (s.withDev (s.dev.fresh.setF F.IVL_PORT_STATUS_RX_SLEEP 0 k)) ∧
      ∃ t, exec (.skipSetReceive k x) s = .next t ∧ t.mem = s.mem ∧ t.dev.regs = s.dev.regs ∧
        t.dev.q .IVL_CNT k 9 = (s.dev.q .IVL_CNT k 9 + (elasticStep (SMap.get s.dev.ivl.elastic (2 * k) 8) x.lane0).2 +
          (elasticStep (SMap.get s.dev.ivl.elastic (2 * k + 1) 8) x.lane1).2) % 2 ^ 64 ∧
        SMap.get t.dev.ivl.elastic (2 * k) 8 = (elasticStep (SMap.get s.dev.ivl.elastic (2 * k) 8) x.lane0).1 ∧
        SMap.get t.dev.ivl.elastic (2 * k + 1) 8 = (elasticStep (SMap.get s.dev.ivl.elastic (2 * k + 1) 8) x.lane1).1) ∧
    (s.dev.ivlStage k = 4 → s.dev.ivl.heard.contains k = true → exec (.versionSend k) s = .next (s.withDev s.dev.fresh)) ∧
    (s.dev.ivlStage k = 4 → s.dev.ivl.heard.contains k = false → s.dev.on F.IVL_PORT_STATUS_TX_SLEEP k = false →
      ∃ t hop, exec (.versionSend k) s = .next t ∧ t.mem = s.mem ∧ t.dev.regs = s.dev.regs ∧
        t.dev.ivl = { s.dev.ivl with seqNo := (s.dev.ivl.seqNo + 1) % 2 ^ 32, skipAt := t.dev.ivl.skipAt } ∧
        t.dev.out = s.dev.ivlSent k (ivlBytes ⟨0, 4, 1, hop % 256, broadcast, s.dev.devNum, s.dev.ivl.seqNo,
          be 2 (s.dev.f F.IVL_CTRL_VER_MASK) ++ be 2 0 ++ be 4 s.dev.devNum ++ be 4 0⟩)) ∧
    (s.dev.ivlStage k = 4 → s.dev.ivlTakes k 4 1 msg = true → v = agreed (beAt msg.body 0 2) (s.dev.f F.IVL_CTRL_VER_MASK) → v ≠ 0 →
      ∃ t, exec (.version k msg) s = .next t ∧ t.mem = s.mem ∧ t.dev.ivlStage k = 5 ∧ t.dev.ivlUp k = true ∧ t.dev.ivlVersion k = v ∧
        t.dev.ivl = { s.dev.ivl with heard := s.dev.ivl.heard.filter (· != k) ++ [k] } ∧
        RegsKept [regKey .IVL_PORT_STATUS k 0 0 0, regKey .IVL_PORT_PEER_DEVNUM k 0 0 0] s.dev t.dev)

/-- Time transfer over the link. A FOLLOW port's request records its exchange with the time it departed; a request is answered with one
message; a response ends its exchange and enters the result ring; an exchange without a response is dropped and counted; a pop returns
and removes the oldest result.
Where the spec leaves it open this is the model's choice: log entries 33 and 148. -/
def Obligations.TimeIsExchanged : Prop :=
  ∀ (s : State) (m k id path8 turn8 : Nat) (msg : IvlMsg) (x : Exchange) (a b c d e f g h : Word) (rest : List (List Word)),
    (s.dev.ivlActive k = true → s.dev.ivlStage k = 5 → s.dev.ivlCarrier k = none → s.dev.on F.IVL_PORT_STATUS_TX_SLEEP k = false →
      1 ≤ s.dev.ivlVersion k →
      (s.dev.on F.IVL_PORT_CFG_FOLLOW k = true → s.dev.ivl.exchangeId = id → id < 65536 →
        ∃ t bs, exec (.ttReqSend k) s = .next t ∧ t.mem = s.mem ∧ t.dev.ivl.exchangeId = (id + 1) % 65536 ∧
          SMap.find? t.dev.ivl.exchanges (k * 65536 + id) = some ⟨id, s.dev.now8, s.dev.ivl.steps⟩ ∧ t.dev.out = s.dev.ivlSent k bs ∧
          t.dev.regs = s.dev.regs) ∧
      (s.dev.ivlTakes k 1 1 msg = true →
        ∃ t bs, exec (.ttReq k msg path8 turn8) s = .next t ∧ t.mem = s.mem ∧ t.dev.out = s.dev.ivlSent k bs ∧ bs.length = 56 ∧ t.dev.regs = s.dev.regs ∧
          t.dev.ivl.exchanges = s.dev.ivl.exchanges) ∧
      (s.dev.ivlTakes k 1 2 msg = true → id = beAt msg.body 0 2 → SMap.find? s.dev.ivl.exchanges (k * 65536 + id) = some x →
        (SMap.get s.dev.ivl.results k []).length < 16 →
        ∃ t, exec (.ttResp k msg path8) s = .next t ∧ t.mem = s.mem ∧ SMap.find? t.dev.ivl.exchanges (k * 65536 + id) = none ∧
          (SMap.get t.dev.ivl.results k []).length = (SMap.get s.dev.ivl.results k []).length + 1 ∧ t.dev.regs = s.dev.regs)) ∧
    (s.dev.ivl.exchanges = [(k * 65536 + id, x)] → id < 65536 →
      exec (.ttTimeout k) s = .next (s.withDev ({ s.dev.fresh with ivl := { s.dev.ivl with exchanges := [] } }.bumpQ .IVL_CNT k 7))) ∧
    (Reaches s m none .IVL_TT_POP0 k 0 → SMap.get s.dev.ivl.results k [] = [a, b, c, d, e, f, g, h] :: rest →
      ∃ t, exec (.ivlTtPop m k) s = .next t ∧ t.mem = s.mem ∧ t.dev.last = [⟨m, .ok, a.toNat⟩] ∧ SMap.get t.dev.ivl.results k [] = rest ∧
        (∀ j, j ≠ k → SMap.get t.dev.ivl.results j [] = SMap.get s.dev.ivl.results j []) ∧
        (List.range 7).map (fun w => t.dev.get .IVL_TT_POP k w 0 m) = [b, c, d, e, f, g, h])

/-- Received messages. One whose CRC is wrong is counted and dropped; one with a good CRC is counted, and has its effect. A NAK for this device is counted, over the link itself and in a
frame of a carrier port; an ECHO for this device is answered along the route to its source; a REG_READ of the identity register returns
its value and a REG_WRITE of a Baton that the port holds releases it, as an access of the logical port's master.
Where the spec leaves it open this is the model's choice: log entries 33, 66, 93 and 148. -/
def Obligations.IvlMessagesAreConsumed : Prop :=
  ∀ (s : State) (k e p path8 i : Nat) (bs : List Byte) (msg : IvlMsg),
    s.dev.ivlActive k = true → s.dev.ivlStage k = 5 →
    (s.dev.ivlCarrier k = none → 20 + beAt bs 10 2 ≤ bs.length →
      crc32Field (bs.take (16 + beAt bs 10 2)) ≠ slice bs (16 + beAt bs 10 2) 4 →
      exec (.ivlMessageReceive k bs path8) s = .next (s.withDev (s.dev.fresh.bumpQ .IVL_CNT k 2))) ∧
    (s.dev.ivlCarrier k = none → 20 + beAt bs 10 2 ≤ bs.length →
      crc32Field (bs.take (16 + beAt bs 10 2)) = slice bs (16 + beAt bs 10 2) 4 → msg = ivlParse bs → msg.cls = 2 → msg.typ = 4 →
      beAt bs 10 2 = 12 → 1 ≤ s.dev.ivlVersion k → msg.dst = s.dev.devNum → msg.dst ≠ broadcast →
      exec (.ivlMessageReceive k bs path8) s = .next (s.withDev ((s.dev.fresh.bumpQ .IVL_CNT k 1).bumpQ .IVL_CNT k 5))) ∧
    (e < 1024 → s.dev.mayArrive e = true → s.dev.on F.IVL_ETH_PORT_RX_EN e = true →
      (upto 4).find? (fun k => s.dev.ivlCarrier k == some e && (s.dev.ivlInStage k 4 || s.dev.ivlInStage k 5)) = some k →
      s.dev.domain 92 = 0 → beAt bs 12 2 = s.dev.f F.IVL_ETH_CFG_ETYPE → msg = ivlParse (bs.drop 14) →
      20 + beAt (bs.drop 14) 10 2 ≤ (bs.drop 14).length →
      crc32Field ((bs.drop 14).take 28) = slice (bs.drop 14) 28 4 →
      beAt (bs.drop 14) 10 2 = 12 → msg.cls = 2 → msg.typ = 4 → 1 ≤ s.dev.ivlVersion k → msg.dst = s.dev.devNum →
      msg.dst ≠ broadcast →
      exec (.ivlEthReceive e bs path8) s = .next (s.withDev ((s.dev.fresh.bumpQ .IVL_CNT k 1).bumpQ .IVL_CNT k 5))) ∧
    (s.dev.ivlTakes k 2 4 msg = true → msg.dst = s.dev.devNum → msg.dst ≠ broadcast →
      exec (.nak k msg) s = .next (s.withDev ((s.dev.fresh.bumpQ .IVL_CNT k 1).bumpQ .IVL_CNT k 5))) ∧
    (s.dev.ivlTakes k 2 6 msg = true → msg.dst = s.dev.devNum → msg.dst ≠ broadcast →
      exec (.echoReply k msg) s = .next (s.withDev (s.dev.fresh.bumpQ .IVL_CNT k 1))) ∧
    (s.dev.ivlTakes k 2 5 msg = true → msg.dst = s.dev.devNum → msg.dst ≠ broadcast → s.dev.ivlRoute msg.src = some p →
      s.dev.ivlActive p = true → s.dev.ivlStage p = 5 → s.dev.ivlCarrier p = none → s.dev.on F.IVL_PORT_STATUS_TX_SLEEP p = false →
      2 ≤ s.dev.ivlVersion p →
      ∃ t hop, exec (.echo k msg) s = .next t ∧ t.mem = s.mem ∧ t.dev.out = s.dev.ivlSent p (ivlBytes ⟨s.dev.ivlVersion p, 2, 6,
        hop % 256, msg.src, s.dev.devNum, s.dev.ivl.seqNo, msg.body⟩) ∧ t.dev.regs = s.dev.regs) ∧
    (s.dev.ivlTakes k 2 1 msg = true → msg.dst = s.dev.devNum → msg.dst ≠ broadcast → s.dev.serving = true → beAt msg.body 8 2 = 1 →
      Reaches s (mIVL0 + k) none .ID_IDENTITY 0 0 → beAt msg.body 4 4 = 0 → SMap.find? s.dev.regs 0 = none → s.dev.ivlRoute msg.src = some p →
      s.dev.ivlActive p = true → s.dev.ivlStage p = 5 → s.dev.ivlCarrier p = none → s.dev.on F.IVL_PORT_STATUS_TX_SLEEP p = false →
      1 ≤ s.dev.ivlVersion p →
      ∃ t hop, exec (.ivlRegRead k msg) s = .next t ∧ t.mem = s.mem ∧ t.dev.last = [⟨mIVL0 + k, .ok, 0x4B582048⟩] ∧
        t.dev.out = s.dev.ivlSent p (ivlBytes ⟨s.dev.ivlVersion p, 2, 3, hop % 256, msg.src, s.dev.devNum, s.dev.ivl.seqNo,
          be 4 (beAt msg.body 0 4) ++ be 1 0 ++ be 7 0 ++ be 4 0x4B582048⟩)) ∧
    (s.dev.ivlTakes k 2 2 msg = true → msg.dst = s.dev.devNum → msg.dst ≠ broadcast → s.dev.serving = true → beAt msg.body 8 2 = 1 →
      beAt msg.body 12 4 = 0 → Reaches s (mIVL0 + k) (some 0) .BAT i 0 → beAt msg.body 4 4 = Reg.off .BAT i →
      s.dev.batonOwner i = some (mIVL0 + k) →
      ∃ t, exec (.ivlRegWrite k msg) s = .next t ∧ t.mem = s.mem ∧ t.dev.last = [⟨mIVL0 + k, .ok, 0⟩] ∧
        t.dev.ctl.batons = SMap.erase s.dev.ctl.batons i)

/-- Envelope notices. A notice seen for the first time, whose hop limit is spent, is remembered, enters the notice ring and interrupts the
control processors; one seen within 10 ms changes nothing but the count of messages; a requested notice is sent once, on the ports that
were up at its request and still are; a pop returns and removes the oldest.
Where the spec leaves it open this is the model's choice: log entries 33 and 148. -/
def Obligations.EnvelopeNoticesArrive : Prop :=
  ∀ (s : State) (m k typ : Nat) (msg : IvlMsg) (a b c d e f g h i : Word) (rest : List (List Word)) (x : EnvDue) (more : List EnvDue),
    (s.dev.ivlTakes k 3 typ msg = true → typ = 1 ∨ typ = 2 → msg.dst = broadcast → msg.hop ≤ 1 → s.dev.ivl.envRing.length < 64 →
      (s.dev.ivlSeen msg.src msg.seq = false →
        ∃ t, exec (if typ = 1 then .envDerate k false msg else .envLift k false msg) s = .next t ∧ t.mem = s.mem ∧
          t.dev.ivl.envRing.length = s.dev.ivl.envRing.length + 1 ∧ t.dev.ivlSeen msg.src msg.seq = true ∧ t.dev.regs = s.dev.regs ∧
          t.dev.out = [0x10, 0x11, 0x12, 0x13].map (Out.irq 1)) ∧
      (s.dev.ivlSeen msg.src msg.seq = true →
        exec (if typ = 1 then .envDerate k false msg else .envLift k false msg) s = .next (s.withDev (s.dev.fresh.bumpQ .IVL_CNT k 1)))) ∧
    (s.dev.ivl.envDue = x :: more →
      (∃ t, exec .envelopeNoticeSend s = .next t ∧ t.mem = s.mem ∧ t.dev.ivl.envDue = more) ∧
      (s.dev.on F.IVL_CTRL_EN = false ∨ s.dev.domain 92 ≠ 0 →
        exec .envelopeNoticeSend s = .next (s.withDev { s.dev.fresh with ivl := { s.dev.ivl with envDue := more } })) ∧
      (s.dev.on F.IVL_CTRL_EN = true → s.dev.domain 92 = 0 → x.lanes.filter s.dev.ivlUp = [k] → s.dev.ivlActive k = true → s.dev.ivlStage k = 5 →
        s.dev.ivlVersion k = 2 → s.dev.ivlCarrier k = none → s.dev.on F.IVL_PORT_STATUS_TX_SLEEP k = false →
        x.eths.filter s.dev.linkUp = [] →
        ∃ t, exec .envelopeNoticeSend s = .next t ∧ t.mem = s.mem ∧ t.dev.ivl.envDue = more ∧ t.dev.regs = s.dev.regs ∧
          t.dev.ivlSeen s.dev.devNum s.dev.ivl.seqNo = true ∧ t.dev.out = s.dev.ivlSent k (ivlBytes ⟨2, 3,
            if x.lift then 2 else 1, s.dev.f F.IVL_CTRL_ENV_HOPS, broadcast, s.dev.devNum, s.dev.ivl.seqNo, facing x.body none⟩))) ∧
    (Reaches s m none .IVL_ENV_POP0 0 0 → s.dev.ivl.envRing = [a, b, c, d, e, f, g, h, i] :: rest →
      ∃ t, exec (.ivlEnvPop m) s = .next t ∧ t.mem = s.mem ∧ t.dev.last = [⟨m, .ok, a.toNat⟩] ∧ t.dev.ivl = { s.dev.ivl with envRing := rest } ∧
        (List.range 8).map (fun w => t.dev.get .IVL_ENV_POP w 0 0 m) = [b, c, d, e, f, g, h, i])

/-! ### Evidence -/

/-- Session contexts: READ copies the selected context into the 64 data words; WRITE takes its configuration from the first eight where
the excerpt is in range and the partition of an enabled session stays; CLEAR zeroes the counters of a disabled one. -/
def Obligations.SessionsAreReadAndWritten : Prop :=
  ∀ (s : State) (m n : Nat), s.dev.sessSel m = n →
    (Writes s m .EV_SESS_CMD 0 0 1 →
      ∃ t, exec (.sessRead m) s = .next t ∧ t.mem = s.mem ∧
        (∀ w, w < 64 → t.dev.get .EV_SESS_DATA w 0 0 m = word (beAt (s.dev.session n).bytes (4 * w) 4)) ∧
        t.dev.f F.EV_SESS_CMD_STATUS 0 0 0 m = 0 ∧ t.dev.last = [⟨m, .ok, 0⟩] ∧ OnlyRegs s.dev t.dev) ∧
    (Writes s m .EV_SESS_CMD 0 0 2 → beAt (s.dev.sessStaged m) 2 2 ≤ 16367 →
      ((s.dev.session n).en = false ∨ ((s.dev.session n).withConfig (s.dev.sessStaged m)).partition = (s.dev.session n).partition) →
      ∃ t, exec (.sessWrite m) s = .next t ∧ t.mem = s.mem ∧ t.dev.session n = (s.dev.session n).withConfig (s.dev.sessStaged m) ∧
        (∀ x, x ≠ n → t.dev.session x = s.dev.session x) ∧ t.dev.f F.EV_SESS_CMD_STATUS 0 0 0 m = 0 ∧ t.dev.last = [⟨m, .ok, 0⟩]) ∧
    (Writes s m .EV_SESS_CMD 0 0 3 → (s.dev.session n).en = false →
      ∃ t, exec (.sessClear m) s = .next t ∧ t.mem = s.mem ∧ t.dev.session n = (s.dev.session n).cleared ∧
        (∀ x, x ≠ n → t.dev.session x = s.dev.session x) ∧ t.dev.f F.EV_SESS_CMD_STATUS 0 0 0 m = 0 ∧ t.dev.last = [⟨m, .ok, 0⟩])

/-- Records and receipt streams. The oldest closed record takes the next record number and leaves the stage; one of whose entry an
uncorrectable word is known leaves it without a number, and is counted lost. A stream sends the lost
positions first, then what was asked for again, then the next records of its partition, at most 22 a frame, each frame with the
next sequence number; a frame in a best-effort class enters as one copy whose bytes are those of R211. A collector's ACK in range sets the
window and the acknowledged position; a RESEND in range is queued. The three frames of the oldest seal due leave on its stream, and
none where its read ends with an error.
Where the spec leaves it open this is the model's choice: log entries 113, 127, 134 and 140. -/
def Obligations.RecordsAreNumberedAndSent : Prop :=
  ∀ (s : State) (k n p : Nat) (x : Closed) (rest : List Closed) (c : Collector) (sl num ep : Nat) (more : List (Nat × Nat × Nat))
    (r : List (Nat × Nat)) (bad : List Nat),
    (s.dev.ev.closeList = x :: rest → s.dev.entryLost x = true →
      ∃ t, exec .recordNumbering s = .next t ∧ t.mem = s.mem ∧ t.dev.ev.closeList = rest ∧ t.dev.q .EV_REC_NUM = s.dev.q .EV_REC_NUM ∧
        t.dev.q .HBM_JRN_LOST = (s.dev.q .HBM_JRN_LOST + 1) % 2 ^ 64) ∧
    (s.dev.ev.closeList = x :: rest → s.dev.entryLost x = false → s.dev.q .EV_REC_NUM + 1 < 2 ^ 64 →
      ∃ t, exec .recordNumbering s = .next t ∧ t.mem = s.mem ∧ t.dev.ev.closeList = rest ∧ t.dev.q .EV_REC_NUM = s.dev.q .EV_REC_NUM + 1 ∧
        (t.dev.session x.session).lastRecord = s.dev.q .EV_REC_NUM) ∧
    (k < 64 → s.dev.on F.EV_STR_CFG_EN k = true → (s.dev.stream k).gaps = (p, n) :: r →
      ∃ t free, exec (.recordsSend ⟨k, bad⟩) s = .next t ∧ t.mem = s.mem ∧ (t.dev.stream k).gaps = r ∧
        (4 ≤ s.dev.f F.EV_STR_CFG_CLASS k → s.dev.pipeOn (pipeOf 1027) = true → s.dev.on F.TEL_CTRL_TRACE_EN = false →
          Entered s.dev t.dev 1027 (s.dev.f F.EV_STR_CFG_PORT k) (s.dev.f F.EV_STR_CFG_CLASS k) (udpFrame (s.dev.f F.EV_STR_CFG_PORT k)
            (s.dev.streamTo k (free / 2 ^ 20)) free (s.dev.receiptHead k 4 0 p ++ be 8 n)) ∧ t.dev.regs = s.dev.regs)) ∧
    (k < 64 → s.dev.on F.EV_STR_CFG_EN k = true → (s.dev.stream k).gaps = [] → (s.dev.stream k).resend = (p, n) :: r → n ≤ 22 →
      s.dev.q .EV_PART_WRPOS k ≤ p + s.dev.jrnCapacity k → (∀ i, i < n → s.dev.knownBad (s.dev.jrnAddr k (p + i)) 64 = false) →
      ∃ t, exec (.recordsSend ⟨k, []⟩) s = .next t ∧ t.mem = s.mem ∧ (t.dev.stream k).resend = r ∧
        t.dev.q .EV_STR_SENDPOS k = s.dev.q .EV_STR_SENDPOS k) ∧
    (k < 64 → s.dev.on F.EV_STR_CFG_EN k = true → (s.dev.stream k).gaps = [] → (s.dev.stream k).resend = [] → p = s.dev.q .EV_STR_SENDPOS k →
      n = min 22 (s.dev.sendLimit k - p) → 0 < n → p + n < 2 ^ 64 →
      (∀ i, i < n → s.dev.knownBad (s.dev.jrnAddr k (p + i)) 64 = false) →
      ∃ t free, exec (.recordsSend ⟨k, []⟩) s = .next t ∧ t.mem = s.mem ∧ t.dev.q .EV_STR_SENDPOS k = p + n ∧
        (s.dev.on F.EV_STR_CFG_ACK_MODE k = false → t.dev.q .EV_PART_RELPOS k = p + n) ∧
        (t.dev.stream k).frameSeq = ((s.dev.stream k).frameSeq + 1) % 2 ^ 32 ∧
        (4 ≤ s.dev.f F.EV_STR_CFG_CLASS k → s.dev.pipeOn (pipeOf 1027) = true → s.dev.on F.TEL_CTRL_TRACE_EN = false →
          Entered s.dev t.dev 1027 (s.dev.f F.EV_STR_CFG_PORT k) (s.dev.f F.EV_STR_CFG_CLASS k) (udpFrame (s.dev.f F.EV_STR_CFG_PORT k)
            (s.dev.streamTo k (free / 2 ^ 20)) free (s.dev.receiptHead k 1 n p ++ s.dev.jrnRead s.mem k p n)) ∧
          (s.dev.pcConfigured = [] → t.dev.regs = s.dev.regs))) ∧
    (k < 64 → (s.dev.on F.EV_STR_CFG_EN k = false ∨ ((s.dev.stream k).gaps = [] ∧ (s.dev.stream k).resend = [] ∧
      s.dev.sendLimit k ≤ s.dev.q .EV_STR_SENDPOS k)) → exec (.recordsSend ⟨k, bad⟩) s = .next (s.withDev s.dev.fresh)) ∧
    (collectorPart c 0x81 = some k → s.dev.collectorOk k c = true → s.dev.q .EV_PART_RELPOS k ≤ beAt c.body 8 8 →
      beAt c.body 8 8 ≤ s.dev.q .EV_PART_WRPOS k →
      ∃ t, exec (.ack c) s = .next t ∧ t.mem = s.mem ∧ (t.dev.stream k).ackPos = beAt c.body 8 8 ∧
        (t.dev.stream k).window = beAt c.body 4 4 ∧ t.dev.f F.EV_STR_WINDOW_WINDOW k = min (beAt c.body 4 4) (2 ^ 24 - 1) ∧
        (s.dev.on F.EV_STR_CFG_ACK_MODE k = true → t.dev.q .EV_PART_RELPOS k = beAt c.body 8 8) ∧
        RegsKept [regKey .EV_STR_WINDOW k 0 0 0] s.dev t.dev) ∧
    (collectorPart c 0x81 = some k → (s.dev.collectorOk k c = false ∨ s.dev.q .EV_PART_WRPOS k < beAt c.body 8 8) →
      exec (.ack c) s = .next (s.withDev (s.dev.fresh.bump F.EV_STR_WINDOW_BAD_ACK k))) ∧
    (collectorPart c 0x82 = some k → s.dev.collectorOk k c = true → beAt c.body 8 8 < s.dev.q .EV_PART_WRPOS k → 0 < beAt c.body 16 8 →
      beAt c.body 16 8 ≤ 65536 → s.dev.q .EV_PART_WRPOS k ≤ beAt c.body 8 8 + s.dev.jrnCapacity k →
      ∃ t, exec (.resend c) s = .next t ∧ t.mem = s.mem ∧ t.dev.regs = s.dev.regs ∧ t.dev.stream k = { s.dev.stream k with
        resend := (s.dev.stream k).resend ++ [(beAt c.body 8 8, min (s.dev.q .EV_PART_WRPOS k - beAt c.body 8 8) (beAt c.body 16 8))] }) ∧
    ((s.dev.stream k).sealsDue = (sl, num, ep) :: more → s.dev.f F.CTL_FW_STATUS_STATE ≠ 2 → s.dev.on F.EV_STR_CFG_EN k = true →
      (∃ t, exec (.sealFrameSend ⟨k, true⟩) s = .next t ∧ t.mem = s.mem ∧ (t.dev.stream k).sealsDue = more ∧ t.dev.out = [] ∧
        t.dev.buf = s.dev.buf) ∧
      (s.dev.knownBad (journalBase + 72 * 2 ^ 20 + sl * 4096) 4096 = false →
        ∃ t, exec (.sealFrameSend ⟨k, false⟩) s = .next t ∧ t.mem = s.mem ∧ (t.dev.stream k).sealsDue = more ∧
          (t.dev.stream k).frameSeq = ((s.dev.stream k).frameSeq + 3) % 2 ^ 32 ∧
          (4 ≤ s.dev.f F.EV_STR_CFG_CLASS k → s.dev.pipeOn (pipeOf 1027) = true → s.dev.on F.TEL_CTRL_TRACE_EN = false →
            t.dev.buf.nextFrame = s.dev.buf.nextFrame + 3 ∧ t.dev.buf.nextCopy = s.dev.buf.nextCopy + 3))) ∧
    ((s.dev.stream k).sealsDue = [] ∨ s.dev.f F.CTL_FW_STATUS_STATE = 2 ∨ s.dev.on F.EV_STR_CFG_EN k = false →
      exec (.sealFrameSend ⟨k, false⟩) s = .next (s.withDev s.dev.fresh))

/-- Intervals, measurement and attestation. A boundary that is reached closes the interval there, and the next starts at the boundary with
its length and a new seed while EN is set or records are open; before it nothing happens. EN = 1 in service starts an interval, closing
one that still drains; before service it only sets EN. EN = 0 closes the interval, and sealing goes on while records are open. A
changed measurement closes the interval and its successor is the first under it; one recomputed as it was changes nothing else. GO of
an attestation sets BUSY, and its end gives the signature with DONE.
Where the spec leaves it open this is the model's choice: log entry 87. -/
def Obligations.IntervalsAreSealed : Prop :=
  ∀ (s : State) (m seed b : Nat) (v : Word) (i : Interval) (x : List Byte),
    (s.dev.ev.interval = some i → i.seedLo < 2 ^ 32 → i.seedHi < 2 ^ 32 → s.dev.ev.sealNum < 2 ^ 64 →
      b = nextBoundary ((i.startSec * 1000000000 + i.startNs) * 8) i.us →
      (b ≤ s.dev.now8 → s.dev.evOn = true ∨ s.dev.openTotal ≠ 0 →
        ∃ t, exec (.sealClose seed) s = .next t ∧ t.mem = s.mem ∧ Sealed s.dev t.dev i b ∧
          Begun t.dev b (s.dev.f F.EV_SEAL_CFG_INTERVAL_US) seed (s.dev.q .EV_REC_NUM) s.dev.ev.measFresh) ∧
      (b ≤ s.dev.now8 → s.dev.evOn = false → s.dev.openTotal = 0 →
        ∃ t, exec (.sealClose seed) s = .next t ∧ t.mem = s.mem ∧ Sealed s.dev t.dev i b ∧ t.dev.ev.interval = none ∧
          t.dev.ev.draining = false) ∧
      (s.dev.now8 < b → exec (.sealClose seed) s = .next (s.withDev s.dev.fresh)) ∧
      (Writes s m .EV_CTRL 0 0 1 → s.dev.evOn = false → s.dev.serving = true → s.dev.ev.draining = true →
        ∃ t, exec (.evEnable m seed) s = .next t ∧ t.mem = s.mem ∧ t.dev.evOn = true ∧ Sealed s.dev t.dev i s.dev.now8 ∧
          Begun t.dev s.dev.now8 i.us seed (s.dev.q .EV_REC_NUM) s.dev.ev.measFresh ∧ t.dev.ev.draining = false ∧ t.dev.last = [⟨m, .ok, 0⟩]) ∧
      (Writes s m .EV_CTRL 0 0 0 → s.dev.evOn = true → s.dev.ev.draining = false → s.dev.openTotal ≠ 0 →
        ∃ t, exec (.evDisable m seed) s = .next t ∧ t.mem = s.mem ∧ t.dev.evOn = false ∧ Sealed s.dev t.dev i s.dev.now8 ∧
          Begun t.dev s.dev.now8 i.us seed (s.dev.q .EV_REC_NUM) s.dev.ev.measFresh ∧ t.dev.ev.draining = true ∧ t.dev.last = [⟨m, .ok, 0⟩]) ∧
      (Writes s m .EV_CTRL 0 0 0 → s.dev.evOn = true → s.dev.ev.draining = false → s.dev.openTotal = 0 →
        ∃ t, exec (.evDisable m seed) s = .next t ∧ t.mem = s.mem ∧ t.dev.evOn = false ∧ Sealed s.dev t.dev i s.dev.now8 ∧
          t.dev.ev.interval = none ∧ t.dev.last = [⟨m, .ok, 0⟩]) ∧
      (s.dev.ev.measNext = some x → x ≠ s.dev.ev.measurement →
        ∃ t, exec (.measurementChange seed) s = .next t ∧ t.mem = s.mem ∧ Sealed s.dev t.dev i s.dev.now8 ∧
          Begun t.dev s.dev.now8 i.us seed (s.dev.q .EV_REC_NUM) true ∧ t.dev.ev.measurement = x ∧ t.dev.ev.measNext = none ∧
          ∀ w, w < 8 → t.dev.get .EV_MEAS w = word (beAt x (4 * w) 4))) ∧
    (s.dev.ev.interval = none →
      exec (.sealClose seed) s = .next (s.withDev s.dev.fresh) ∧
      (Writes s m .EV_CTRL 0 0 1 → s.dev.evOn = false → s.dev.serving = true →
        ∃ t, exec (.evEnable m seed) s = .next t ∧ t.mem = s.mem ∧ t.dev.evOn = true ∧ t.dev.ev.draining = false ∧
          Begun t.dev s.dev.now8 (s.dev.f F.EV_SEAL_CFG_INTERVAL_US) seed (s.dev.q .EV_REC_NUM) s.dev.ev.measFresh ∧ t.dev.last = [⟨m, .ok, 0⟩] ∧
          RegsKept [regKey .EV_CTRL 0 0 0 0, regKey .EV_STATUS 0 0 0 0] s.dev t.dev) ∧
      (Writes s m .EV_CTRL 0 0 0 → s.dev.evOn = true →
        ∃ t, exec (.evDisable m seed) s = .next t ∧ t.mem = s.mem ∧ t.dev.evOn = false ∧ t.dev.ev = s.dev.ev ∧ t.dev.last = [⟨m, .ok, 0⟩] ∧
          RegsKept [regKey .EV_CTRL 0 0 0 0] s.dev t.dev) ∧
      (s.dev.ev.measNext = some x → x ≠ s.dev.ev.measurement →
        ∃ t, exec (.measurementChange seed) s = .next t ∧ t.mem = s.mem ∧
          t.dev.ev = { s.dev.ev with measurement := x, measNext := none, measFresh := true } ∧
          (∀ w, w < 8 → t.dev.get .EV_MEAS w = word (beAt x (4 * w) 4)))) ∧
    (Writes s m .EV_CTRL 0 0 1 → s.dev.evOn = false → s.dev.serving = false →
      ∃ t, exec (.evEnable m seed) s = .next t ∧ t.mem = s.mem ∧ t.dev.evOn = true ∧ t.dev.ev = s.dev.ev ∧ t.dev.last = [⟨m, .ok, 0⟩] ∧
        RegsKept [regKey .EV_CTRL 0 0 0 0] s.dev t.dev) ∧
    (s.dev.ev.measNext = some s.dev.ev.measurement →
      exec (.measurementChange seed) s = .next (s.withDev { s.dev.fresh with ev := { s.dev.ev with measNext := none } })) ∧
    (s.dev.ev.measNext = none → exec (.measurementChange seed) s = .next (s.withDev s.dev.fresh)) ∧
    (Writes s m .EV_ATTEST_CTRL 0 0 (setBit v 31) →
      ∃ t, exec (.attestGo m v) s = .next t ∧ t.mem = s.mem ∧ t.dev.ev = { s.dev.ev with attestBy := some m } ∧
        t.dev.on F.EV_ATTEST_CTRL_BUSY = true ∧ t.dev.last = [⟨m, .ok, 0⟩] ∧ RegsKept [regKey .EV_ATTEST_CTRL 0 0 0 0] s.dev t.dev) ∧
    (s.dev.ev.attestBy = some m →
      ∃ t, exec .attestDone s = .next t ∧ t.mem = s.mem ∧ t.dev.ev = { s.dev.ev with attestBy := none } ∧
        t.dev.on F.EV_ATTEST_CTRL_BUSY = false ∧ t.dev.on F.EV_ATTEST_CTRL_DONE = true ∧
        ∀ w, w < 16 → t.dev.get .EV_ATTEST_SIG w = word (beAt (ecdsaSign s.dev.boot.keyD s.dev.attestStatement) (4 * w) 4)) ∧
    (s.dev.ev.attestBy = none → exec .attestDone s = .next (s.withDev s.dev.fresh))

/-! ### Heats and patches -/

/-- The operations on Heats, by a write of ID_HEAT_CTRL: OPEN makes the Heat after CURRENT the STAGING one; COMMIT_NOW gives it a commit
time 1,000 ns ahead and COMMIT_AT the time asked for; ABORT ends it and leaves its marks to a cleanup; an operation that needs a STAGING
Heat gives STATUS 3 where there is none.
The transitions a Heat makes by itself: at its commit time it becomes CURRENT and its predecessor drains; the oldest Heat retires once
no copy or frame is of it; a cleanup leaves no action entry with a retired DEL mark, and after an abort none with an aborted ADD mark; a
draining Heat past its limit is promoted once.
Where the spec leaves it open this is the model's choice: log entry 10. -/
def Obligations.HeatsAreStagedAndRetired : Prop :=
  (∀ (s : State) (m t8 : Nat),
    (Writes s m .ID_HEAT_CTRL 0 0 (1 * 2 ^ 29) → s.dev.staging = false → s.dev.heat.pendingAt = none → s.dev.heat.live.length < 15 →
      s.dev.heat.cleaning = [] → s.dev.heat.aborted = [] →
      ∃ t, exec (.heatOpen m) s = .next t ∧ t.mem = s.mem ∧ t.dev.staging = true ∧ t.dev.stagedHeat = (s.dev.currentHeat + 1) % 16 ∧
        t.dev.f F.ID_HEAT_CTRL_STATUS = 1 ∧ t.dev.heat = s.dev.heat ∧ t.dev.last = [⟨m, .ok, 0⟩] ∧
        RegsKept [regKey .ID_HEAT_CTRL 0 0 0 0, regKey .ID_HEAT_STATE 0 0 0 0] s.dev t.dev) ∧
    (Writes s m .ID_HEAT_CTRL 0 0 (2 * 2 ^ 29) → s.dev.staging = true →
      ∃ t, exec (.commitNow m) s = .next t ∧ t.mem = s.mem ∧ t.dev.staging = false ∧ t.dev.on F.ID_HEAT_STATE_PENDING = true ∧
        t.dev.heat = { s.dev.heat with pendingAt := some (s.dev.now8 + 8000) } ∧ t.dev.f F.ID_HEAT_CTRL_STATUS = 1 ∧
        RegsKept [regKey .ID_HEAT_CTRL 0 0 0 0, regKey .ID_HEAT_STATE 0 0 0 0] s.dev t.dev) ∧
    (Writes s m .ID_HEAT_CTRL 0 0 (2 * 2 ^ 29) → s.dev.staging = false →
      exec (.commitNow m) s = .next (s.withDev (((s.dev.fresh.putWord .ID_HEAT_CTRL 0 0 m (2 * 2 ^ 29)).setF
        F.ID_HEAT_CTRL_STATUS 3).done m .ok))) ∧
    (Writes s m .ID_HEAT_CTRL 0 0 (3 * 2 ^ 29) → s.dev.staging = true → s.dev.f F.ID_HEAT_AT_NS_NS < 1000000000 →
      t8 = s.dev.regTime .ID_HEAT_AT_NS .ID_HEAT_AT_SEC_LO .ID_HEAT_AT_SEC_HI → s.dev.now8 + 8000 ≤ t8 →
      ∃ t, exec (.commitAt m) s = .next t ∧ t.mem = s.mem ∧ t.dev.staging = false ∧ t.dev.heat = { s.dev.heat with pendingAt := some t8 } ∧
        t.dev.f F.ID_HEAT_CTRL_STATUS = 1 ∧ RegsKept [regKey .ID_HEAT_CTRL 0 0 0 0, regKey .ID_HEAT_STATE 0 0 0 0] s.dev t.dev) ∧
    (Writes s m .ID_HEAT_CTRL 0 0 (4 * 2 ^ 29) → s.dev.staging = true →
      ∃ t, exec (.heatAbort m) s = .next t ∧ t.mem = s.mem ∧ t.dev.staging = false ∧ t.dev.f F.ID_HEAT_CTRL_STATUS = 1 ∧
        t.dev.heat = { s.dev.heat with pendingAt := none, aborted := s.dev.stagedHeat :: s.dev.heat.aborted } ∧
        RegsKept [regKey .ID_HEAT_CTRL 0 0 0 0, regKey .ID_HEAT_STATE 0 0 0 0] s.dev t.dev)) ∧
  (∀ (s : State) (t8 n : Nat) (x y : Nat × Option Nat) (rest : List (Nat × Option Nat)),
    (s.dev.heat.pendingAt = some t8 →
      ∃ t, exec .heatCommit s = .next t ∧ t.mem = s.mem ∧ t.dev.heat.live = s.dev.heat.live ++ [(s.dev.stagedHeat, some t8)] ∧
        t.dev.heat.pendingAt = none ∧ t.dev.currentHeat = s.dev.stagedHeat ∧ t.dev.f F.ID_HEAT_STATE_CURRENT = s.dev.stagedHeat ∧
        t.dev.on F.ID_HEAT_STATE_PENDING = false ∧ SMap.find? t.dev.heat.drainAt s.dev.currentHeat = some s.dev.time.ticks ∧
        RegsKept [regKey .ID_HEAT_STATE 0 0 0 0] s.dev t.dev) ∧
    (s.dev.heat.live = x :: y :: rest → s.dev.heatInFlight x.1 = false → y.1 < 16 →
      ∃ t, exec .heatRetire s = .next t ∧ t.mem = s.mem ∧ t.dev.heat.live = y :: rest ∧ t.dev.heat.cleaning = s.dev.heat.cleaning ++ [x.1] ∧
        t.dev.oldestHeat = y.1 ∧ t.dev.f F.ID_HEAT_STATE_OLDEST = y.1 ∧ RegsKept [regKey .ID_HEAT_STATE 0 0 0 0] s.dev t.dev) ∧
    (∃ t, exec .heatCleanupDone s = .next t ∧ t.mem = s.mem ∧ t.dev.heat = { s.dev.heat with cleaning := [] } ∧
      ∀ p, p ∈ t.dev.tbl.action → ∀ h, h ∈ s.dev.heat.cleaning → ctlDel (ctlOf 512 p.2) ≠ some h) ∧
    (∃ t, exec .abortCleanupDone s = .next t ∧ t.mem = s.mem ∧ t.dev.heat = { s.dev.heat with aborted := [] } ∧
      ∀ p, p ∈ t.dev.tbl.action → ∀ h, h ∈ s.dev.heat.aborted → ctlAdd (ctlOf 512 p.2) ≠ some h) ∧
    (s.dev.heat.live = x :: y :: rest → SMap.find? s.dev.heat.drainAt x.1 = some n →
      n + s.dev.f F.ID_HEAT_CFG_DRAIN_MAX_US * 800 ≤ s.dev.time.ticks → s.dev.heat.promoted.contains x.1 = false →
      (∀ c, c ∈ s.dev.copyList → c.heat ≠ x.1) →
      exec .heatPromotion s = .next (s.withDev { s.dev.fresh with heat := { s.dev.heat with promoted := x.1 :: s.dev.heat.promoted } })))

/-- Patches. GO with a container that fails a check of R240 gives that check's STATUS and loads nothing; one that passes is loaded and
BUSY. At the switch the other half holds the new words, the old half is zero, and the load has ended with STATUS 1. -/
def Obligations.PatchesAreSwitched : Prop :=
  ∀ (s : State) (m p st : Nat) (v : Word) (d : Dev) (x : PatchLoad), p < 16 → d = s.dev.fresh.putWord .PIPE_PATCH_CTRL p 0 m (setBit v 31) →
    (Writes s m .PIPE_PATCH_CTRL p 0 (setBit v 31) → d.patchCheck s.mem m p = some st → st < 8 →
      ∃ t, exec (.patchGo m p v) s = .next t ∧ t.mem = s.mem ∧ t.dev.f F.PIPE_PATCH_CTRL_STATUS p = st ∧
        t.dev.on F.PIPE_PATCH_CTRL_BUSY p = false ∧ t.dev.parse = s.dev.parse ∧ RegsKept [regKey .PIPE_PATCH_CTRL p 0 0 0] s.dev t.dev) ∧
    (Writes s m .PIPE_PATCH_CTRL p 0 (setBit v 31) → d.patchCheck s.mem m p = none →
      ∃ t, exec (.patchGo m p v) s = .next t ∧ t.mem = s.mem ∧ t.dev.on F.PIPE_PATCH_CTRL_BUSY p = true ∧
        (SMap.find? t.dev.parse.loads p).isSome = true ∧ t.dev.parse.patch = s.dev.parse.patch ∧
        RegsKept [regKey .PIPE_PATCH_CTRL p 0 0 0] s.dev t.dev) ∧
    (SMap.find? s.dev.parse.loads p = some x → x.words.length ≤ 512 →
      ∃ t, exec (.patchSwitch p) s = .next t ∧ t.mem = s.mem ∧ t.dev.f F.PIPE_UCODE_PATCH_HALF p = 1 - s.dev.f F.PIPE_UCODE_PATCH_HALF p ∧
        (∀ i, i < x.words.length → t.dev.patchWord p (512 * (1 - s.dev.f F.PIPE_UCODE_PATCH_HALF p) + i) = x.words.getD i 0) ∧
        (∀ i, i < 512 → t.dev.patchWord p (512 * s.dev.f F.PIPE_UCODE_PATCH_HALF p + i) = 0) ∧
        t.dev.on F.PIPE_PATCH_CTRL_BUSY p = false ∧ t.dev.f F.PIPE_PATCH_CTRL_STATUS p = 1 ∧ SMap.find? t.dev.parse.loads p = none)

/-! ### Tables -/

/-- The host command engine. While a Heat is STAGING, ADD writes an action entry into a free index with the Heat's ADD mark and DELETE marks
one of an older Heat; READ and SEARCH return the entry's words; REPLACE of an HBM key puts the new entry in a free way of its bucket;
FLUSH_PORT leaves no learned entry of its port. Each answers with STATUS 1 and the index.
The end of a DMA. A locked one that installs, times out, and an unlocked one that is done leave none in progress and BUSY clear; an
install and a timeout leave no learn deferred, and a timeout gives STATUS 10. A start takes the list that the registers name at GO, and
asks port CTL for it, where it is in HBM; a list its starter may not reach ends the DMA with STATUS 12, at its start or its end.
Where the spec leaves it open this is the model's choice: log entries 29, 40, 41 and 147. -/
def Obligations.TableCommandsAnswer : Prop :=
  (∀ (s : State) (m idx e w x i : Nat) (cmd : Word) (rest : List (Nat × Nat)) (d : Dev) (y : Dma), e = s.dev.cmdImage m → idx = s.dev.f F.TBL_CMD_INDEX_INDEX 0 0 0 m →
    (Writes s m .TBL_CMD 0 0 (setOp cmd 1) → F.TBL_CMD_TABLE.ext (s.dev.written .TBL_CMD 0 0 m (setOp cmd 1)).toNat = 4 → s.dev.staging = true →
      0 < idx → idx < 65536 → s.dev.badAction e = false → ctlValid (ctlOf 512 (SMap.get s.dev.tbl.action idx 0)) = false →
      ∃ t, exec (.tblAdd m cmd) s = .next t ∧ t.mem = s.mem ∧ t.dev.f F.TBL_CMD_STATUS_STATUS 0 0 0 m = 1 ∧
        t.dev.f F.TBL_CMD_RESULT_RESULT 0 0 0 m = idx ∧ SMap.get t.dev.tbl.action idx 0 = withCtl 512 e (newCtl (some s.dev.stagedHeat)) ∧
        (∀ j, j ≠ idx → SMap.get t.dev.tbl.action j 0 = SMap.get s.dev.tbl.action j 0) ∧
        RegsKept [regKey .TBL_CMD 0 0 0 m, regKey .TBL_CMD_STATUS 0 0 0 m, regKey .TBL_CMD_RESULT 0 0 0 m, regKey .TBL_OCC 4 0 0 0] s.dev t.dev) ∧
    (Writes s m .TBL_CMD 0 0 (setOp cmd 2) → F.TBL_CMD_TABLE.ext (s.dev.written .TBL_CMD 0 0 m (setOp cmd 2)).toNat = 4 → s.dev.staging = true →
      0 < idx → idx < 65536 → ctlValid (ctlOf 512 (SMap.get s.dev.tbl.action idx 0)) = true →
      ctlAdd (ctlOf 512 (SMap.get s.dev.tbl.action idx 0)) ≠ some s.dev.stagedHeat →
      ∃ t, exec (.tblDelete m cmd) s = .next t ∧ t.mem = s.mem ∧ t.dev.f F.TBL_CMD_STATUS_STATUS 0 0 0 m = 1 ∧
        SMap.get t.dev.tbl.action idx 0 = withCtl 512 (SMap.get s.dev.tbl.action idx 0)
          (delCtl (ctlOf 512 (SMap.get s.dev.tbl.action idx 0)) (some s.dev.stagedHeat)) ∧
        (∀ j, j ≠ idx → SMap.get t.dev.tbl.action j 0 = SMap.get s.dev.tbl.action j 0)) ∧
    (Writes s m .TBL_CMD 0 0 (setOp cmd 3) → F.TBL_CMD_TABLE.ext (s.dev.written .TBL_CMD 0 0 m (setOp cmd 3)).toNat = 6 →
      s.dev.badAction (bits e 411 320 * 2 ^ 404) = false → s.dev.entriesOf s.mem 6 (entryKey 6 e) = (i, x) :: rest →
      (upto 4).find? (fun w => !entryValid 6 (s.dev.entry s.mem 6 (4 * s.dev.bucketOf 6 (entryKey 6 e) + w))) = some w →
      ∃ t, exec (.tblReplace m cmd) s = .next t ∧ t.mem = s.mem ∧ t.dev.f F.TBL_CMD_STATUS_STATUS 0 0 0 m = 1 ∧
        t.dev.f F.TBL_CMD_RESULT_RESULT 0 0 0 m = 4 * s.dev.bucketOf 6 (entryKey 6 e) + w ∧ t.dev.tbl.breaks = s.dev.tbl.breaks) ∧
    (Writes s m .TBL_CMD 0 0 (setOp cmd 4) → F.TBL_CMD_TABLE.ext (s.dev.written .TBL_CMD 0 0 m (setOp cmd 4)).toNat = 4 → idx < 65536 →
      ∃ t, exec (.tblRead m cmd) s = .next t ∧ t.mem = s.mem ∧ t.dev.f F.TBL_CMD_STATUS_STATUS 0 0 0 m = 1 ∧ t.dev.tbl = s.dev.tbl ∧
        ∀ j, j < 16 → t.dev.get .TBL_CMD_DATA j 0 0 m = word (bits (SMap.get s.dev.tbl.action idx 0) (32 * j + 31) (32 * j))) ∧
    (Writes s m .TBL_CMD 0 0 (setOp cmd 5) → F.TBL_CMD_TABLE.ext (s.dev.written .TBL_CMD 0 0 m (setOp cmd 5)).toNat = 0 →
      s.dev.findKey s.mem 0 (entryKey 0 e) s.dev.currentHeat = some (i, x) → i < 2 ^ 32 →
      ∃ t, exec (.tblSearch m cmd) s = .next t ∧ t.mem = s.mem ∧ t.dev.f F.TBL_CMD_STATUS_STATUS 0 0 0 m = 1 ∧
        t.dev.f F.TBL_CMD_RESULT_RESULT 0 0 0 m = i ∧ t.dev.tbl = s.dev.tbl ∧
        ∀ j, j < 4 → t.dev.get .TBL_CMD_DATA j 0 0 m = word (bits x (32 * j + 31) (32 * j))) ∧
    (Writes s m .TBL_CMD 0 0 (setOp cmd 6) → F.TBL_CMD_TABLE.ext (s.dev.written .TBL_CMD 0 0 m (setOp cmd 6)).toNat = 0 → s.dev.tbl.dma = none →
      ∃ t, exec (.flushPort m cmd) s = .next t ∧ t.mem = s.mem ∧ t.dev.f F.TBL_CMD_STATUS_STATUS 0 0 0 m = 1 ∧
        ∀ k y, k < 2 ^ 40 → SMap.find? t.dev.tbl.em k = some y → entryValid 0 y = true → ctlLearned (ctlOf 128 y) = true →
          bits y 111 101 ≠ idx) ∧
    (Writes s m .TBL_DMA_CTRL 0 0 (setBit cmd 31) → d = s.dev.fresh.putWord .TBL_DMA_CTRL 0 0 m (setBit cmd 31) →
      y = ⟨m, d.on F.TBL_DMA_CTRL_LOCK, s.dev.on F.TBL_DMA_SRC_SPACE, s.dev.f F.TBL_DMA_SRC_OFFSET, s.dev.f F.TBL_DMA_COUNT_COUNT, [], [], []⟩ →
      (y.locked = false → s.dev.dmaMay y = true → (y.spd = true → s.dev.spdOff y.off (160 * y.n) = none) →
        ∃ t, exec (.tblDmaGo m cmd) s = .next t ∧ t.mem = s.mem ∧ t.dev.on F.TBL_DMA_CTRL_BUSY = true ∧ t.dev.f F.TBL_DMA_CTRL_DONE = 0 ∧
          t.dev.tbl = { s.dev.tbl with dma := some y } ∧ t.dev.last = [⟨m, .ok, 0⟩] ∧
          (y.spd = false → t = s.withDev (({ ((d.setF F.TBL_DMA_CTRL_BUSY 1).setF F.TBL_DMA_CTRL_DONE 0).askRead 5 (controlBase + y.off)
            (160 * y.n) with tbl := { s.dev.tbl with dma := some y } }).done m .ok))) ∧
      (s.dev.dmaMay y = false →
        ∃ t, exec (.tblDmaGo m cmd) s = .next t ∧ t.mem = s.mem ∧ t.dev.f F.TBL_DMA_CTRL_STATUS = 12 ∧
          t.dev.on F.TBL_DMA_CTRL_BUSY = false ∧ t.dev.tbl = { s.dev.tbl with dma := none } ∧
          (m ≠ 0 → isEngine m = false → t.dev.frozen m = true) ∧ (m = 0 → t.dev.frozen = s.dev.frozen)))) ∧
  (∀ (s : State) (x : Dma), s.dev.tbl.dma = some x →
    (x.locked = true →
      ∃ t, exec .tblDmaInstall s = .next t ∧ t.pending = s.pending ∧ t.dev.tbl.dma = none ∧ t.dev.tbl.deferredQ = [] ∧
        t.dev.on F.TBL_DMA_CTRL_BUSY = false ∧ (s.dev.frozen x.m = true ∨ s.dev.dmaMay x = false ∨
          x.spd = true ∧ (s.dev.spdOff x.off (160 * x.n)).isSome = true → t.mem = s.mem ∧ t.dev.f F.TBL_DMA_CTRL_STATUS = 12)) ∧
    (x.locked = true →
      ∃ t, exec .tblTimeout s = .next t ∧ t.mem = s.mem ∧ t.dev.tbl.dma = none ∧ t.dev.tbl.deferredQ = [] ∧
        t.dev.f F.TBL_DMA_CTRL_STATUS = 10 ∧ t.dev.on F.TBL_DMA_CTRL_BUSY = false) ∧
    (x.locked = false →
      ∃ t, exec .tblDmaDone s = .next t ∧ t.pending = s.pending ∧ t.dev.tbl.dma = none ∧ t.dev.on F.TBL_DMA_CTRL_BUSY = false ∧
        (s.dev.frozen x.m = true ∨ s.dev.dmaMay x = false ∨ x.spd = true ∧ (s.dev.spdOff x.off (160 * x.n)).isSome = true →
          t.mem = s.mem ∧ t.dev.f F.TBL_DMA_CTRL_STATUS = 12)))

/-- Learning, ageing and corrupt entries. An event of a new address is placed as a learned entry; a pinned entry's hold ends after its
time; the tracker keeps only the entries it needs; the sweeper clears HIT and removes a learned entry that stayed STALE; a corrupt action
or TCAM entry stays with VALID 0 and is logged; a rebuilt node is good again; notices and errors are popped oldest first.
Where the spec leaves it open this is the model's choice: log entries 24 and 42. -/
def Obligations.LearnedEntriesComeAndGo : Prop :=
  ∀ (s : State) (m n t8 idx e str : Nat) (x : LearnEv) (y : Track) (z : TcamEnt) (a b c d : Word) (more : List (List Word)),
    (s.dev.tbl.learnQ = [x] → s.dev.tbl.dma = none → s.dev.entriesOf s.mem 0 x.key = [] → s.dev.atLimit x.port = false →
      s.dev.place s.mem 0 x.key = some idx →
      ∃ t, exec .learnCommit s = .next t ∧ t.mem = s.mem ∧ t.dev.tbl.learnQ = [] ∧
        SMap.get t.dev.tbl.em idx 0 = withCtl 128 (x.port * 2 ^ 101 + beAt x.key 0 1 * 2 ^ 60 + beAt x.key 1 2 * 2 ^ 48 + beAt x.key 3 6)
          (2 ^ 14 + 2 ^ 13 + 2 ^ 12) ∧
        (∀ k, k ≠ idx → SMap.get t.dev.tbl.em k 0 = SMap.get s.dev.tbl.em k 0)) ∧
    (s.dev.tbl.tracker = [y] → y.pinnedAt = some t8 → t8 + s.dev.f F.TBL_FLAP_CFG_FLAP_HOLD_S * 800000000 ≤ s.dev.time.ticks →
      ∃ t, exec .unpin s = .next t ∧ t.mem = s.mem ∧ t.dev.tbl.tracker = [{ y with moves := [], pinnedAt := none }]) ∧
    (exec .trackerExpiry s = .next (s.withDev { s.dev.fresh with tbl := { s.dev.tbl with tracker := s.dev.tbl.tracker.filter s.dev.trackLive } })) ∧
    (e = SMap.get s.dev.tbl.em idx 0 → idx < 2 ^ 40 → s.dev.on F.TBL_CTRL_SWEEP_EN = true → s.dev.f F.TBL_AGE_CFG_PERIOD_MS ≠ 0 →
      s.dev.tbl.dma = none → ctlValid (ctlOf 128 e) = true →
      (bit (ctlOf 128 e) 12 = true → bit (ctlOf 128 e) 11 = false →
        ∃ t, exec (.sweeperVisit 0 idx false) s = .next t ∧ t.mem = s.mem ∧
          SMap.get t.dev.tbl.em idx 0 = withCtl 128 e (ctlOf 128 e - 2 ^ 12)) ∧
      (bit (ctlOf 128 e) 12 = false → bit (ctlOf 128 e) 11 = true → ctlLearned (ctlOf 128 e) = true → bit (ctlOf 128 e) 10 = false →
        ∃ t, exec (.sweeperVisit 0 idx false) s = .next t ∧ t.mem = s.mem ∧ SMap.get t.dev.tbl.em idx 0 = 0)) ∧
    (e = SMap.get s.dev.tbl.action idx 0 → ctlValid (ctlOf 512 e) = true → str ≠ 2 → str ≠ 3 → s.dev.tbl.errors.length < 64 →
      ∃ t, exec (.corruptEntry 4 str 0 idx n) s = .next t ∧ t.mem = s.mem ∧ SMap.get t.dev.tbl.action idx 0 = invalid 4 e ∧
        entryValid 4 (invalid 4 e) = false ∧ t.dev.tbl.errors.length = s.dev.tbl.errors.length + 1) ∧
    (s.dev.tcamAt n idx = some z → s.dev.tbl.errors.length < 64 →
      ∃ t, exec (.tcamScrub n idx true) s = .next t ∧ t.mem = s.mem ∧
        SMap.find? t.dev.tbl.tcam (n * 4096 + idx) = some (z.withCtl (z.ctl - 2 ^ 14)) ∧ t.dev.tcamAt n idx = none ∧ t.dev.tbl.errors.length = s.dev.tbl.errors.length + 1) ∧
    (∃ t, exec (.lpmRebuildDone n) s = .next t ∧ t.mem = s.mem ∧ ∀ z, z ∈ t.dev.tbl.lpm → z.node = n → z.bad = false) ∧
    (Reaches s m none .TBL_NOTICE_POP0 0 0 → s.dev.tbl.notices = [a, b, c, d] :: more →
      ∃ t, exec (.tblNoticePop m) s = .next t ∧ t.mem = s.mem ∧ t.dev.last = [⟨m, .ok, a.toNat⟩] ∧ t.dev.tbl = { s.dev.tbl with notices := more } ∧
        (List.range 3).map (fun w => t.dev.get .TBL_NOTICE_POP w 0 0 m) = [b, c, d]) ∧
    (Reaches s m none .TBL_ERR_POP0 0 0 → s.dev.tbl.errors = [a, b, c, d] :: more →
      ∃ t, exec (.tblErrPop m) s = .next t ∧ t.mem = s.mem ∧ t.dev.last = [⟨m, .ok, a.toNat⟩] ∧ t.dev.tbl = { s.dev.tbl with errors := more } ∧
        (List.range 3).map (fun w => t.dev.get .TBL_ERR_POP w 0 0 m) = [b, c, d])

/-! ### HBM -/

/-- The HBM controller. A slot of a served pseudo-channel with one waiting write writes its bytes and no others, and with one waiting read
issues it, counting the words found corrected; a slot of one that is not served does nothing; an idle stack that may enters self-refresh and
leaves it for a request; a draw below its threshold counts a neighbour refresh; a scrub pass counts the corrected and the uncorrectable words
of its granule and posts the corrected back, and waits for a stack that sleeps; the zero-fill leaves every byte zero; the error log is popped oldest first; a waiting lookup
behind another of its pipe is answered with what its bucket held and goes on waiting for its turn.
Where the spec leaves it open this is the model's choice: log entries 3, 57 and 59. -/
def Obligations.HbmIsServed : Prop :=
  ∀ (s : State) (m pc k draw g fid fixed : Nat) (w : HbmWrite) (r : HbmRead) (a b c d : Word) (more : List (List Word)) (u v : Waiting)
    (bad : List Nat),
    (s.dev.hbm.writes = [w] → s.dev.hbm.reads = [] → s.dev.hbm.waiting = [] → channelOf w.granule = pc → pc < 256 →
      s.dev.hbmServes (pc / 32) = true →
      (∃ t, exec (.hbmCommandSlot pc ⟨fixed, bad⟩) s = .next t ∧ t.mem = s.mem.hbmWrite (w.granule * 256) w.bytes) ∧
      (s.dev.hbm.bad = [] → s.dev.tel.blocks = [] →
        ∃ t, exec (.hbmCommandSlot pc ⟨0, []⟩) s = .next t ∧ t.mem = s.mem.hbmWrite (w.granule * 256) w.bytes ∧ t.dev.hbm.writes = [] ∧
          t.dev.hbm.bad = [] ∧ t.dev.regs = s.dev.regs ∧ (w.partWords = [] → t.dev.wide = s.dev.wide))) ∧
    (s.dev.hbm.reads = [r] → s.dev.hbm.writes = [] → s.dev.hbm.draining = [] → channelOf r.granule = pc → pc < 256 →
      r.scrub = false → s.dev.detachAt r.granule = none →
      s.dev.hbmServes (pc / 32) = true → s.dev.hbm.bad = [] →
      ∃ t, exec (.hbmCommandSlot pc ⟨fixed, []⟩) s = .next t ∧ t.mem = s.mem ∧ t.dev.hbm.reads = [] ∧ t.dev.hbm.writes = [] ∧
        t.dev.regs = s.dev.regs ∧ t.dev.q .HBM_STACK_CNT (stackOf r.granule) 0 =
          (s.dev.q .HBM_STACK_CNT (stackOf r.granule) 0 + min fixed 32) % 2 ^ 64) ∧
    (s.dev.hbmServes (pc / 32) = false → exec (.hbmCommandSlot pc ⟨fixed, bad⟩) s = .next (s.withDev s.dev.fresh)) ∧
    (k < 8 → s.dev.time.ticks < SMap.get s.dev.hbm.lastReq k 0 + 800 * s.dev.f F.HBM_STACK_CFG_IDLE_US k →
      exec (.selfRefreshEntry k) s = .next (s.withDev s.dev.fresh)) ∧
    (k < 8 → s.dev.on F.HBM_STACK_CFG_AUTO_SR_EN k = true → s.dev.hbmServes k = true → s.dev.stackBusy k = false →
      SMap.get s.dev.hbm.lastReq k 0 + 800 * s.dev.f F.HBM_STACK_CFG_IDLE_US k ≤ s.dev.time.ticks →
      ∃ t, exec (.selfRefreshEntry k) s = .next t ∧ t.mem = s.mem ∧ bit (t.dev.f F.HBM_STATUS_SR) k = true ∧
        t.dev.on F.HBM_STACK_STAT_SR k = true ∧ RegsKept [regKey .HBM_STATUS 0 0 0 0, regKey .HBM_STACK_STAT k 0 0 0] s.dev t.dev) ∧
    (k < 8 → bit (s.dev.f F.HBM_STATUS_SR) k = true → s.dev.stackBusy k = true →
      ∃ t, exec (.selfRefreshExit k) s = .next t ∧ t.mem = s.mem ∧ bit (t.dev.f F.HBM_STATUS_SR) k = false ∧
        t.dev.on F.HBM_STACK_STAT_SR k = false ∧ RegsKept [regKey .HBM_STATUS 0 0 0 0, regKey .HBM_STACK_STAT k 0 0 0] s.dev t.dev) ∧
    (s.dev.held = false → k < 8 → s.dev.f F.HBM_RH_CFG_SHIFT ≠ 0 → draw % 2 ^ 16 < 2 ^ (16 - s.dev.f F.HBM_RH_CFG_SHIFT) →
      exec (.neighbourRefresh k draw) s = .next (s.withDev (s.dev.fresh.bumpQ .HBM_STACK_CNT k 3))) ∧
    (s.dev.held = false → s.dev.f F.HBM_SCRUB_CFG_HOURS ≠ 0 → g < 192 * 2 ^ 22 → s.dev.on F.HBM_CTRL_EN = true →
      s.dev.domain (80 + stackOf g) = 0 → s.dev.hbmServes (stackOf g) = false → s.dev.hbm.waiting = [] → s.dev.hbm.writes = [] →
      ∃ t, exec (.scrubPass g ⟨fixed, bad⟩) s = .next t ∧ t.mem = s.mem ∧ t.dev.stackBusy (stackOf g) = true ∧
        t.dev.hbm.reads = s.dev.hbm.reads ++ [⟨g, 7, 256, s.dev.time.ticks, 0, false, true⟩] ∧
        t.dev.q .HBM_REQ_CNT 7 0 = (s.dev.q .HBM_REQ_CNT 7 0 + 1) % 2 ^ 64) ∧
    (s.dev.held = false → s.dev.f F.HBM_SCRUB_CFG_HOURS ≠ 0 → g < 192 * 2 ^ 22 → s.dev.hbmServes (stackOf g) = true →
      (∀ y, y ∈ s.dev.hbm.writes → y.granule ≠ g) → s.dev.hbm.waiting = [] → s.dev.hbm.errors.length + (s.dev.badOf g bad).length ≤ 64 →
      ∃ t, exec (.scrubPass g ⟨fixed, bad⟩) s = .next t ∧ t.mem = s.mem ∧
        (∀ j n, (j, n) ∈ [(0, min fixed (32 - (s.dev.badOf g bad).length)), (1, (s.dev.badOf g bad).length),
            (2, min fixed (32 - (s.dev.badOf g bad).length))] →
          t.dev.q .HBM_STACK_CNT (stackOf g) j = (s.dev.q .HBM_STACK_CNT (stackOf g) j + n) % 2 ^ 64) ∧
        t.dev.hbm.errors.length = s.dev.hbm.errors.length + (s.dev.badOf g bad).length ∧
        (0 < fixed → s.dev.badOf g bad = [] →
          ∃ y, (y ∈ t.dev.hbm.writes ∨ .write y ∈ t.dev.hbm.waiting) ∧ y.granule = g ∧ y.port = 7) ∧
        (∀ x, x ∈ s.dev.badOf g bad → t.dev.knownBad (g * 256 + 8 * x) 8 = true) ∧ (s.dev.pcConfigured = [] → t.dev.regs = s.dev.regs)) ∧
    (s.dev.f F.HBM_SCRUB_CFG_HOURS = 0 → exec (.scrubPass g ⟨fixed, bad⟩) s = .next (s.withDev s.dev.fresh)) ∧
    (s.dev.on F.HBM_STATUS_INIT_BUSY = true →
      ∃ t, exec .hbmZeroFillDone s = .next t ∧ t.mem.spd = s.mem.spd ∧ (∀ x, t.mem.hbmByte x = 0) ∧ t.dev.on F.HBM_STATUS_INIT_BUSY = false ∧
        RegsKept [regKey .HBM_STATUS 0 0 0 0, regKey .TBL_OCC 6 0 0 0] s.dev t.dev) ∧
    (Reaches s m none .HBM_ERR_POP0 0 0 → s.dev.hbm.errors = [a, b, c, d] :: more →
      ∃ t, exec (.hbmErrPop m) s = .next t ∧ t.mem = s.mem ∧ t.dev.last = [⟨m, .ok, a.toNat⟩] ∧ t.dev.hbm = { s.dev.hbm with errors := more } ∧
        (List.range 3).map (fun w => t.dev.get .HBM_ERR_POP w 0 0 m) = [b, c, d]) ∧
    (s.dev.waiting = [u, v] → u.ready = false → v.ready = false → u.frame.id ≠ fid → v.frame.id = fid →
      pipeOf u.frame.ingress = pipeOf v.frame.ingress →
      (∃ t, exec (.hbmLookupShed fid) s = .next t ∧ t.mem = s.mem ∧ t.dev.waiting = [u, { v with ready := true }] ∧
        t.dev.q .TBL_HBM_SHED = (s.dev.q .TBL_HBM_SHED + 1) % 2 ^ 64 ∧ t.dev.regs = s.dev.regs) ∧
      (s.dev.time.ticks ≤ v.sinceTick + 320 → s.dev.hbm.bad = [] →
        ∃ t, exec (.hbmLookupReturn fid 0) s = .next t ∧ t.mem = s.mem ∧ t.dev.regs = s.dev.regs ∧
          t.dev.waiting = [u, { v with acts := v.found.elim v.acts fun e => (v.acts.apply (inlineAction e) false).hit 7, ready := true }]))

/-! ### The frame path -/

/-- Frames enter. Before service a data frame is discarded and counted. In service a frame of a port whose parse succeeds without a tag or a
reason, without session, lookup, trace or meter, under ON_NOMATCH = FORWARD, becomes one copy to its default port, with its stamp and its
class. A held request that is due goes to the Hurdle; the Hurdle admits a copy that passes its three checks and takes its tokens, sends one
that fails on as best effort where its policy defers, and discards it otherwise; each decision has the next number.
Where the spec leaves it open this is the model's choice: log entries 11, 79 and 111. -/
def Obligations.FramesEnterAndAreDecided : Prop :=
  ∀ (s : State) (f : FrameIn) (p n r : Nat) (c x : Copy) (fr : Frame) (z : ParseResult), p = f.port / 64 → n = f.port % 64 →
    (f.port < 1024 → s.dev.mayArrive f.port = true → s.dev.serving = false → beAt f.bytes 12 2 ≠ s.dev.f F.IVL_ETH_CFG_ETYPE →
      ptpOf (s.dev.stampTagUnit f.port f.bytes f.len).2.bytes = none →
      exec (.frameReceive f) s = .next (s.withDev (s.dev.fresh.setQ .ID_BOOT_DISCARD (s.dev.q .ID_BOOT_DISCARD + 1)))) ∧
    (f.port < 1024 → s.dev.mayArrive f.port = true → s.dev.serving = true → f.inj = none → f.recirc = none → f.stages = [] →
      f.overrun = false → beAt f.bytes 12 2 ≠ s.dev.f F.IVL_ETH_CFG_ETYPE → beAt f.bytes 12 2 ≠ s.dev.f F.EV_TAG_CFG_ETYPE →
      fr = s.dev.arrival f ⟨f.bytes, f.len, 0, none⟩ → fr.ptp = none → slowReason fr .none_ z.reasons = none →
      s.dev.parsed f.parse f.port fr.heat fr.bytes fr.len = .ok z → z.tags = [] →
      s.dev.f F.PIPE_PORT_CFG_SESS_KEY p n = 0 → s.dev.f F.TEL_PORT_TRACE_SHIFT f.port = 0 → s.dev.on F.PIPE_PORT_QOS_METER_EN p n = false →
      s.dev.f F.PIPE_PORT_DEFAULT_ON_NOMATCH p n = 1 → s.dev.usablePort (s.dev.f F.PIPE_PORT_DEFAULT_DEFAULT_PORT p n) = true →
      ∃ t y, exec (.frameReceive f) s = .next t ∧ t.mem = s.mem ∧ t.dev.buf.nextFrame = s.dev.buf.nextFrame + 1 ∧
        t.dev.buf.nextCopy = s.dev.buf.nextCopy + 1 ∧ t.dev.copy? s.dev.buf.nextCopy = some y ∧
        y.egress = s.dev.f F.PIPE_PORT_DEFAULT_DEFAULT_PORT p n ∧ y.cls = 4 + s.dev.f F.PIPE_PORT_DEFAULT_DEF_CLASS p n ∧ y.stage = .decided ∧
        y.kind = .unicast ∧ y.frame.bytes = f.bytes ∧ y.frame.stamp8 = s.dev.now8 - f.path8 ∧ y.frame.ingress = f.port ∧
        t.dev.q .PIPE_PORT_CNT p n 1 = (s.dev.q .PIPE_PORT_CNT p n 1 + 1) % 2 ^ 64 ∧ t.dev.regs = s.dev.regs) ∧
    (s.dev.adm.alignQ = [c.id] → s.dev.copy? c.id = some c → pipeOf c.frame.ingress = p →
      c.frame.stamp8 + s.dev.f F.ADM_ALIGN_ALIGN_NS * 8 ≤ s.dev.now8 →
      exec (.alignRelease p) s = .next (s.withDev { s.dev.fresh.setCopy { c with stage := .hurdle } with
        adm := { s.dev.adm with alignQ := [], hurdleQ := s.dev.adm.hurdleQ ++ [c.id] } })) ∧
    (s.dev.adm.hurdleQ = [c.id] → s.dev.adm.carried = 0 → s.dev.copy? c.id = some c → c.kind = .unicast → c.deferred = false →
      x = { s.dev.prepared c s.dev.now8 with order := s.dev.adm.decisions, guard8 := 0 } →
      (s.dev.check x s.dev.now8 = none →
        ∃ t, exec .hurdleBatch s = .next t ∧ t.mem = s.mem ∧ t.dev.adm.hurdleQ = [] ∧ t.dev.adm.decisions = s.dev.adm.decisions + 1 ∧
          t.dev.copy? c.id = some { x with stage := .decided, counted := true, served := c.cls } ∧
          SMap.find? t.dev.adm.buckets (bucketKey c.egress c.cls) =
            some ⟨s.dev.rsvTokens c.egress c.cls - c.wire * 64000, s.dev.el8⟩) ∧
      (s.dev.check x s.dev.now8 = some r → s.dev.f F.ADM_POLICY_ACTION (4 * c.egress + c.cls) ≠ 1 →
        ∃ t, exec .hurdleBatch s = .next t ∧ t.mem = s.mem ∧ t.dev.adm.hurdleQ = [] ∧ t.dev.copy? c.id = none) ∧
      (s.dev.check x s.dev.now8 = some r → s.dev.f F.ADM_POLICY_ACTION (4 * c.egress + c.cls) = 1 →
        ∃ t y, exec .hurdleBatch s = .next t ∧ t.mem = s.mem ∧ t.dev.copy? c.id = some y ∧ y.deferred = true ∧ y.reason = r ∧
          y.stage = .decided ∧ y.served = 4 + s.dev.f F.ADM_POLICY_DEFER_CLASS (4 * c.egress + c.cls)))

/-- Copies are stored and queued. A small timed copy within its queue's minimum is packed behind the queue's open tail and linked at the
queue's end where no copy of its own cell time stands there, as is a copy of a spilled page that is read back; a waiting copy is linked
when there is room; of two copies of one cell time the one decided first is linked first; a finish-group copy enters the FIFO of its
group and pipe, and leaves it for its queue when its window has passed at the cell time's start.
Where the spec leaves it open this is the model's choice: log entries 9, 11, 23 and 110. -/
def Obligations.CopiesAreQueued : Prop :=
  ∀ (s : State) (c b : Copy) (q k n p g pg desc pick base pos : Nat) (od : List Byte), q = queueOf c.egress c.served →
    n = sectorsOf c.frame.len → c.frame.len ≠ 0 → s.dev.copy? c.id = some c → c.egress < 1024 → c.served < 8 → s.dev.linkUp c.egress = true → SMap.get s.dev.buf.enqueued q 0 < 24 →
    (c.stage = .decided → c.kind = .unicast → c.timed = true → SMap.get s.dev.buf.overflow q [] = [] → nextFree s.dev.usedDesc 2097152 pick = some desc →
      s.dev.used q + n ≤ s.dev.f F.BUF_QCFG_MIN q → SMap.find? s.dev.buf.tails q = some ⟨p, k⟩ → k + n < 16 →
      (∀ i y, i ∈ s.dev.queue q → s.dev.copy? i = some y → y.enqCell ≠ s.dev.cell) →
      ∃ t y, exec (.bufferWrite c.id pick) s = .next t ∧ t.mem = s.mem ∧ t.dev.queue q = s.dev.queue q ++ [c.id] ∧ t.dev.copy? c.id = some y ∧
        y.stage = .queued ∧ y.desc = some desc ∧ y.cells = [p] ∧ y.firstSector = k ∧ y.chMin = n ∧ t.dev.used q = s.dev.used q + n ∧
        SMap.find? t.dev.buf.tails q = some ⟨p, k + n⟩) ∧
    (c.stage = .spilled → c.agedOut = false → s.dev.aged c = false → s.dev.spillOf q = ⟨[⟨pg, [c.id], base⟩], [], od, pos⟩ → s.dev.hbm.bad = [] →
      s.dev.used q < s.dev.f F.BUF_CTRL_REFILL_CELLS * 16 → 32768 ≤ s.dev.sprTokens → s.dev.used q + n ≤ s.dev.f F.BUF_QCFG_MIN q →
      SMap.find? s.dev.buf.tails q = some ⟨p, k⟩ → k + n < 16 →
      (∀ i y, i ∈ s.dev.queue q → s.dev.copy? i = some y → y.enqCell ≠ s.dev.cell) →
      ∃ t y, exec (.spillRefill q [] pick) s = .next t ∧ t.mem = s.mem ∧ t.dev.queue q = s.dev.queue q ++ [c.id] ∧ t.dev.copy? c.id = some y ∧
        y.stage = .queued ∧ y.cells = [p] ∧ y.firstSector = k ∧ t.dev.spilled q = false ∧ SMap.find? t.dev.buf.holders (poolKey 5 pg) = none) ∧
    (SMap.get s.dev.buf.overflow q [] = [c.id] →
      ((∀ i y, i ∈ s.dev.queue q → s.dev.copy? i = some y → y.enqCell ≠ c.enqCell) →
        ∃ t, exec (.enqueueOverflowLink q) s = .next t ∧ t.mem = s.mem ∧ t.dev.queue q = s.dev.queue q ++ [c.id] ∧
          SMap.get t.dev.buf.overflow q [] = [] ∧ t.dev.copy? c.id = some { c with stage := .queued } ∧ t.dev.regs = s.dev.regs) ∧
      (s.dev.queue q = [b.id] → s.dev.copy? b.id = some b → b.enqCell = c.enqCell → b.selected = false → b.timed = true → c.timed = true →
        c.order < b.order →
        ∃ t, exec (.enqueueOverflowLink q) s = .next t ∧ t.mem = s.mem ∧ t.dev.queue q = [c.id, b.id] ∧ t.dev.regs = s.dev.regs)) ∧
    (c.stage = .mergeWait → c.kind = .finish g → c.deferred = false → c.frame.tagged = false →
      ∃ t, exec (.mergeFifoEntry c.id) s = .next t ∧ t.mem = s.mem ∧
        t.dev.fifo g (pipeOf c.frame.ingress) = s.dev.fifo g (pipeOf c.frame.ingress) ++ [c.id] ∧ t.dev.copy? c.id = some { c with stage := .merge }) ∧
    (c.stage = .merge → c.kind = .finish g → c.deferred = false → g < 64 → p < 16 → s.dev.hold.fifos = [(fifoKey g p, [c.id])] →
      s.dev.on F.FIN_CTRL_EN = true → s.dev.on F.FIN_GRP_CFG_EN g = true → SMap.find? s.dev.hold.last g = none →
      c.frame.stamp + s.dev.windowNs g * 8 + s.dev.time.ticks % 2 * 10 ≤ s.dev.now8 → SMap.get s.dev.buf.overflow q [] = [] →
      (∀ i y, i ∈ s.dev.queue q → s.dev.copy? i = some y → y.enqCell ≠ s.dev.cell) →
      ∃ t, exec .mergeRelease s = .next t ∧ t.mem = s.mem ∧ t.dev.hold.fifos = [] ∧ t.dev.queue q = s.dev.queue q ++ [c.id] ∧
        SMap.find? t.dev.hold.last g = some (s.dev.keyOf c) ∧ t.dev.q .FIN_CNT g 0 = (s.dev.q .FIN_CNT g 0 + 1) % 2 ^ 64)

/-- Copies leave. The oldest unselected copy of a queue is selected into its lane, and its bytes in open tails are read; a claimed cell is
read for the copies that want it, and a head whose last cell has been read leaves its queue; a launch
becomes eligible and starts at its time; a ready timed copy starts on its idle port, and a queued PFC frame where no timed copy is ready; a
timed copy preempts a best-effort frame that may be preempted; a copy whose last bit leaves is gone, and counts as delivered.
Where the spec leaves it open this is the model's choice: log entries 18, 19, 61, 120, 166 and 167. -/
def Obligations.CopiesLeave : Prop :=
  ∀ (s : State) (c b : Copy) (q e p r draw cl : Nat) (pipes : List Nat) (l : List (Nat × Nat)) (more : List (Nat × List (Nat × Nat))),
    s.dev.copy? c.id = some c → c.egress = e → e < 1024 →
    q = queueOf e c.served → s.dev.linkUp e = true →
    ((s.dev.copiesOf (s.dev.queue q)).find? (fun x => !x.selected) = some c → c.served < 4 → s.dev.laneRoom q 160 = true →
      ∃ t, exec (.queueSelect q draw) s = .next t ∧ t.mem = s.mem ∧ t.dev.lane q = s.dev.lane q ++ [c.id] ∧
        t.dev.copy? c.id = some (s.dev.readTails { c with selected := true, stage := .lane, useAtSel := some (s.dev.used q) }) ∧ t.dev.regs = s.dev.regs ∧
        t.dev.wide = s.dev.wide) ∧
    (s.dev.buf.copies = [(c.id, c)] → s.dev.buf.claims = [⟨p / 4096, p, pipes⟩] → c.selected = true → pipeOf e ∈ pipes → p ∈ s.dev.wanted c →
      ∃ t, exec (.bankRead (p / 4096) p 0) s = .next t ∧ t = s.withDev { s.dev.fresh with
        buf := { s.dev.buf with claims := [], bankBusy := SMap.upd s.dev.buf.bankBusy (p / 4096) 0 (· + 1), queues := t.dev.buf.queues,
                                copies := [(c.id, { c with cellsRead := c.cellsRead ++ [p] })] } } ∧
        (∀ x, x ≠ q → t.dev.queue x = s.dev.queue x) ∧ (s.dev.queue q = [c.id] → s.dev.wanted c = [p] → t.dev.queue q = [])) ∧
    (c.stage = .calendar → c.releaseOf = some r → s.dev.now8 + (s.dev.fix e + s.dev.f F.STG_CTRL_LEAD_NS) * 8 < c.launchQ8 →
      exec (.launchEligible c.id) s = .next (s.withDev (s.dev.fresh.setCopy c))) ∧
    (c.stage = .calendar → c.releaseOf = some r → c.launchQ8 ≤ s.dev.now8 + (s.dev.fix e + s.dev.f F.STG_CTRL_LEAD_NS) * 8 →
      exec (.launchEligible c.id) s = .next (s.withDev (s.dev.fresh.setCopy { c with eligible := true, selected := true, useAtSel := some (s.dev.used q) }))) ∧
    (c.stage = .calendar → c.releaseOf = some r → c.eligible = true → s.dev.dataReady c = true → SMap.find? s.dev.egr.onLine e = none →
      c.pastBound (max c.launchQ8 (s.dev.now8 + s.dev.tx e * 8)) = false →
      ∃ t y bs, exec (.launch c.id) s = .next t ∧ t.mem = s.mem ∧ t.dev.copy? c.id = some y ∧ y.started = true ∧ y.stage = .line ∧
        SMap.find? t.dev.egr.onLine e = some c.id ∧ t.dev.out = [.frame e bs] ∧ ∀ m, c.id ∉ SMap.get t.dev.hold.calendars m []) ∧
    (SMap.find? s.dev.egr.onLine e = none → s.dev.pipeOn (pipeOf e) = true → s.dev.on F.PORT_STATUS_LPI_TX e = false → SMap.get s.dev.ports.awake e 0 ≤ s.dev.el8 →
      (s.dev.timedReady e = some c → c.pastBound (s.dev.now8 + s.dev.tx e * 8) = false → s.dev.mayStart c = true →
        ∃ t y bs, exec (.transmitStart e) s = .next t ∧ t.mem = s.mem ∧ t.dev.copy? c.id = some y ∧ y.started = true ∧ y.stage = .line ∧
          y.depart8 = some (s.dev.timeFor c (s.dev.now8 + s.dev.tx e * 8)) ∧ SMap.find? t.dev.egr.onLine e = some c.id ∧ t.dev.out = [.frame e bs]) ∧
      (s.dev.timedReady e = none → SMap.find? s.dev.egr.preempted e = none →
        SMap.find? s.dev.egr.pfcPending e = some ((cl, l) :: more) → s.dev.fits e 64 = true →
        ∃ t, exec (.transmitStart e) s = .next t ∧ t.mem = s.mem ∧ t.dev.out = [.pfc e l] ∧ SMap.get t.dev.egr.pfcPending e [] = more)) ∧
    (SMap.find? s.dev.egr.onLine e = some c.id → s.dev.preemptable c = true → s.dev.timedReady e = some b →
      exec (.preemptFrame e) s = .next (s.withDev (({ s.dev.fresh with
        egr := { s.dev.egr with onLine := SMap.erase s.dev.egr.onLine e, preempted := SMap.set s.dev.egr.preempted e c.id } }.setCopy
          { c with stage := .preempted, sent := c.sent + s.dev.fragBytes c }).bumpQ .PIPE_PFC_CNT (e / 64) (e % 64) 7))) ∧
    (c.stage = .line → c.kind = .unicast → c.cls < 4 → c.deferred = false → c.record = false →
      ∃ t, exec (.copyDeparture c.id) s = .next t ∧ t.mem = s.mem ∧ t.dev.copy? c.id = none ∧ (∀ x, SMap.find? t.dev.egr.onLine x ≠ some c.id) ∧
        t.dev.q .ADM_CNT (4 * e + c.cls) 0 = (s.dev.q .ADM_CNT (4 * e + c.cls) 0 + 1) % 2 ^ 64)

/-- Copies are given up. A started copy of a frame found bad is stomped and gone, and the frame is counted at its port, also where no copy
of it is left; a frame found bad before a bit left leaves no copy and no waiting lookup, and is counted; a frame that its port has judged
changes nothing; the discard walk frees listed copies; at the hold's expiry no best-effort queue of the port keeps a copy; a best-effort head
past its age limit, and a timed head that would leave past its bound leave their queues at once, their verdict AGED falling at the cell time's end, and a timed
head within it stays. A queued notice leaves, is counted, and enters on port 1025 as one copy for its sender's port, unless notices are off or
that port's link is down; the pass over the contexts clears the marks of old notices.
Where the spec leaves it open this is the model's choice: log entries 4, 34, 118, 140, 159 and 164. -/
def Obligations.CopiesAreGivenUp : Prop :=
  ∀ (s : State) (c : Copy) (q e p fid : Nat) (frag : Bool) (x : Notice) (rest : List Notice) (z : RxFrame),
    (SMap.find? s.dev.buf.rx fid = some z → z.started = true → z.ingress < 1024 →
      ∃ t, exec (.badTail ⟨fid, frag⟩) s = .next t ∧ t.mem = s.mem ∧ SMap.find? t.dev.buf.rx fid = none ∧
        (s.dev.frameCopies fid = [] → t.dev.q .PORT_CNT z.ingress 0 = (s.dev.q .PORT_CNT z.ingress 0 + 1) % 2 ^ 64 ∧
          t.dev.q .PORT_CNT z.ingress 4 = (s.dev.q .PORT_CNT z.ingress 4 + b2n frag) % 2 ^ 64 ∧
          t.dev.q .BUF_PCNT z.ingress 1 = (s.dev.q .BUF_PCNT z.ingress 1 + 1) % 2 ^ 64)) ∧
    (SMap.find? s.dev.buf.rx fid = none →
      exec (.badTail ⟨fid, frag⟩) s = .next (s.withDev s.dev.fresh) ∧ exec (.frameNotAccepted ⟨fid, frag⟩) s = .next (s.withDev s.dev.fresh)) ∧
    (SMap.find? s.dev.buf.rx fid = some z → z.started = true →
      s.dev.buf.copies = [(c.id, c)] → c.frame.id = fid → c.stage ≠ .discard → c.stage ≠ .due → c.started = true →
      ∃ t, exec (.badTail ⟨fid, frag⟩) s = .next t ∧ t.mem = s.mem ∧ t.dev.copy? c.id = none ∧ .stomp c.egress c.id ∈ t.dev.out) ∧
    (SMap.find? s.dev.buf.rx fid = some z → z.started = false →
      s.dev.buf.copies = [(c.id, c)] → c.frame.id = fid → c.stage ≠ .discard →
      ∃ t, exec (.frameNotAccepted ⟨fid, frag⟩) s = .next t ∧ t.mem = s.mem ∧ t.dev.copy? c.id = none ∧ ∀ w, w ∈ t.dev.waiting → w.frame.id ≠ fid) ∧
    (s.dev.buf.discards = [(p, [c.id])] → s.dev.copy? c.id = some c →
      ∃ t, exec (.discardWalk p) s = .next t ∧ t.mem = s.mem ∧ t.dev.copy? c.id = none ∧ t.dev.buf.discards = []) ∧
    (e < 1024 → (SMap.find? s.dev.buf.hold e).isSome = true → s.dev.linkUp e = false → (∀ i y, s.dev.copy? i = some y → y.id = i) →
      (∀ k i, k < 4 → i ∈ s.dev.queue (8 * e + 4 + k) →
        ∃ y, s.dev.copy? i = some y ∧ queueOf y.egress y.served = 8 * e + 4 + k) →
      ∃ t, exec (.linkHoldExpiry e) s = .next t ∧ t.mem = s.mem ∧ e ∈ t.dev.buf.holdExpired ∧ SMap.find? t.dev.buf.hold e = none ∧
        ∀ k, k < 4 → t.dev.queue (8 * e + 4 + k) = []) ∧
    (s.dev.buf.queues = [(q, [c.id])] → q = queueOf c.egress c.served → s.dev.copy? c.id = some c → c.selected = false →
      (4 ≤ q % 8 → s.dev.buf.spill = [] → s.dev.egr.lanes = [] → c.started = false → s.dev.aged c = true →
        ∃ t, exec .ageingPass s = .next t ∧ t.mem = s.mem ∧ t.dev.queue q = [] ∧ t.dev.copy? c.id = some { c with stage := .due } ∧
          (c.id, rAGED) ∈ t.dev.buf.due) ∧
      (q % 8 < 4 → c.pastBound (s.dev.headDeparture c.egress) = true →
        ∃ t, exec .timedHeadCheck s = .next t ∧ t.mem = s.mem ∧ t.dev.queue q = [] ∧ t.dev.copy? c.id = some { c with stage := .due } ∧
          (c.id, rAGED) ∈ t.dev.buf.due) ∧
      (q % 8 < 4 → c.pastBound (s.dev.headDeparture c.egress) = false → exec .timedHeadCheck s = .next (s.withDev s.dev.fresh))) ∧
    (s.dev.adm.notices = x :: rest → s.dev.linkUp x.ingress = false ∨ s.dev.on F.ADM_NOTICE_CTRL_EN = false →
      ∃ t, exec .noticeSend s = .next t ∧ t.mem = s.mem ∧ t.dev.adm.notices = rest ∧ t.dev.buf = s.dev.buf) ∧
    (s.dev.adm.notices = x :: rest → s.dev.linkUp x.ingress = true → s.dev.on F.ADM_NOTICE_CTRL_EN = true →
      ∃ t, exec .noticeSend s = .next t ∧ t.mem = s.mem ∧ t.dev.adm.notices = rest ∧
        t.dev.session x.session = { s.dev.session x.session with sent := (s.dev.session x.session).sent + 1 } ∧
        t.dev.f F.ADM_NOTICE_LEVEL_LEVEL = rest.length % 2 ^ 13 ∧
        (4 ≤ s.dev.f F.ADM_NOTICE_CTRL_CLASS → s.dev.pipeOn (pipeOf 1025) = true → s.dev.on F.TEL_CTRL_TRACE_EN = false →
          Entered s.dev t.dev 1025 x.ingress (s.dev.f F.ADM_NOTICE_CTRL_CLASS) x.frame)) ∧
    (∃ t, exec .recentClearPass s = .next t ∧ t.mem = s.mem ∧
      (∀ y, y ∈ t.dev.ev.sessions → 1000 ≤ shortDiff (short s.dev.now8) y.2.lastNotice → y.2.recent = false) ∧
      t.dev.ev.sessions.map (fun y => { y.2 with recent := false }) = s.dev.ev.sessions.map (fun y => { y.2 with recent := false }) ∧
      t = s.withDev { s.dev.fresh with ev := { s.dev.ev with sessions := t.dev.ev.sessions } })

/-- Blocks of the pools. An allocation within quota answers with a free block and records its holder, one of a size no pool serves with code 3; the
response is read back; a free by the holder returns the block, and one by another requester, or of a block that is not
held, has no effect, is counted and logged, and freezes nobody. A full or old open spill page
is written into a page held by requester 16; the reclaim pass keeps the pages of live segments, those of detached ones that SPD still walks among them, and frees the others.
Where the spec leaves it open this is the model's choice: log entries 17, 21, 135 and 169. -/
def Obligations.BlocksAreHeldAndFreed : Prop :=
  ∀ (s : State) (m r k i q pick : Nat) (v : Word),
    (Writes s m .BUF_ALLOC_REQ 0 0 v.toNat → requesterOf m = some r →
      poolFor (F.BUF_ALLOC_REQ_SIZE.ext (s.dev.written .BUF_ALLOC_REQ 0 0 m v.toNat).toNat) = some k → s.dev.f F.BUF_POOL_FREE_FREE k ≠ 0 →
      s.dev.quotaOk r k 1 = true → nextFree (s.dev.poolUsed k) (s.dev.f F.BUF_POOL_CFG_BLOCKS k) pick = some i →
      ∃ t, exec (.bufAllocReq m v pick) s = .next t ∧ t.mem = s.mem ∧ t.dev.get .BUF_ALLOC_RESP 0 0 0 m = word (k * 2 ^ 26 + i) ∧
        SMap.find? t.dev.buf.holders (poolKey k i) = some r ∧
        (∀ x, x ≠ poolKey k i → SMap.find? t.dev.buf.holders x = SMap.find? s.dev.buf.holders x) ∧
        t.dev.f F.BUF_POOL_FREE_FREE k = s.dev.f F.BUF_POOL_FREE_FREE k - 1 ∧ t.dev.f F.BUF_HELD_HELD r k = s.dev.f F.BUF_HELD_HELD r k + 1 ∧
        t.dev.last = [⟨m, .ok, 0⟩]) ∧
    (Writes s m .BUF_ALLOC_REQ 0 0 v.toNat → requesterOf m = some r →
      poolFor (F.BUF_ALLOC_REQ_SIZE.ext (s.dev.written .BUF_ALLOC_REQ 0 0 m v.toNat).toNat) = none →
      ∃ t, exec (.bufAllocReq m v pick) s = .next t ∧ t.mem = s.mem ∧ t.dev.get .BUF_ALLOC_RESP 0 0 0 m = word (3 * 2 ^ 29) ∧
        t.dev.buf = s.dev.buf) ∧
    (Reaches s m none .BUF_ALLOC_RESP 0 0 → (SMap.find? s.dev.regs (regKey .BUF_ALLOC_RESP 0 0 0 m)).isSome = true →
      exec (.bufAllocResp m) s = .next (s.withDev (s.dev.fresh.done m .ok (s.dev.shown (hitOf .BUF_ALLOC_RESP 0 0) m)))) ∧
    (Writes s m .BUF_FREE 0 0 v.toNat → requesterOf m = some r → k = v.toNat / 2 ^ 26 % 8 → i = v.toNat % 2 ^ 26 →
      (1 ≤ k → k ≤ 4 → SMap.find? s.dev.buf.holders (poolKey k i) = some r →
        ∃ t, exec (.bufFree m v) s = .next t ∧ t.mem = s.mem ∧ SMap.find? t.dev.buf.holders (poolKey k i) = none ∧
          (∀ x, x ≠ poolKey k i → SMap.find? t.dev.buf.holders x = SMap.find? s.dev.buf.holders x) ∧
          t.dev.f F.BUF_POOL_FREE_FREE k = (s.dev.f F.BUF_POOL_FREE_FREE k + 1) % 2 ^ 26 ∧
          t.dev.f F.BUF_HELD_HELD r k = s.dev.f F.BUF_HELD_HELD r k - 1) ∧
      (k < 1 ∨ 4 < k ∨ SMap.find? s.dev.buf.holders (poolKey k i) ≠ some r → s.dev.ctl.vlog.length < 256 →
        ∃ t, exec (.bufFree m v) s = .next t ∧ t.mem = s.mem ∧ t.pending = s.pending ∧
          t.dev.f F.BUF_FREE_ERR_COUNT = min (s.dev.f F.BUF_FREE_ERR_COUNT + 1) (2 ^ 32 - 1) ∧
          t.dev.ctl = { s.dev.ctl with vlog := s.dev.ctl.vlog ++
            [[word (4 * 2 ^ 28 + m * 2 ^ 22 + 2 ^ 20), word 0x02000028, word (short s.dev.now8), 0]] } ∧
          (∀ n, t.dev.frozen n = s.dev.frozen n) ∧ t.dev.last = [⟨m, .ok, 0⟩] ∧
          RegsKept [regKey .BUF_FREE 0 0 0 0, regKey .BUF_FREE_ERR 0 0 0 0] s.dev t.dev ∧
          t.dev = { s.dev with regs := t.dev.regs, ctl := t.dev.ctl, out := [], last := t.dev.last })) ∧
    (q < 8256 → (s.dev.spillOf q).openCopies ≠ [] → 32768 ≤ s.dev.spwTokens → s.dev.quotaOk 16 5 1 = true → s.dev.f F.BUF_POOL_FREE_FREE 5 ≠ 0 →
      nextFree (s.dev.poolUsed 5) (s.dev.f F.BUF_POOL_CFG_BLOCKS 5) pick = some i →
      ∃ t, exec (.spillPageWrite q pick) s = .next t ∧ t.mem = s.mem ∧ SMap.find? t.dev.buf.holders (poolKey 5 i) = some 16 ∧
        t.dev.spillOf q = ⟨(s.dev.spillOf q).pages ++ [⟨i, (s.dev.spillOf q).openCopies, (s.dev.spillOf q).pos⟩], [],
          (s.dev.spillOf q).openData.drop 3584, (s.dev.spillOf q).pos + 3584⟩ ∧ t.dev.q .BUF_PCNT (q / 8) 6 = (s.dev.q .BUF_PCNT (q / 8) 6 + 1) % 2 ^ 64) ∧
    (∃ t, exec .reclaimPass s = .next t ∧ t.mem = s.mem ∧ t.dev.on F.HBM_STATUS_RECLAIM_BUSY = false ∧ t.dev.buf.spill = s.dev.buf.spill ∧
      ∀ x, x < 2 ^ 26 → SMap.find? s.dev.buf.holders (poolKey 5 x) = some 16 →
        SMap.find? t.dev.buf.holders (poolKey 5 x) =
          (if ((s.dev.buf.spill.flatMap fun y => y.2.pages.map (·.page)) ++ s.dev.buf.detached.flatMap fun y => y.pages.map (·.page)).contains x
            then some 16 else none))

/-- Flow control, Pacers, meters and the derate. A PFC frame pauses the class its priority maps to for its quanta, a PAUSE frame is logged and
ignored, and a pause that has run out is lifted; a refresh queues XOFF again. A write of a Pacer's rate or burst sets its bucket by RESET, a
write of a meter fills its buckets, and a derate is used from the second cell time after its write, or remembered while PWC holds it.
Where the spec leaves it open this is the model's choice: log entries 14 and 139. -/
def Obligations.PausesPacersAndDerates : Prop :=
  ∀ (s : State) (m e p l k prio time : Nat) (v : Word) (reg : Reg),
    (e < 1024 → s.dev.mayArrive e = true → s.dev.serving = true → s.dev.on F.PIPE_PFC_CFG_EN_RX (e / 64) (e % 64) = true → prio < 8 → k < 4 →
      bits (s.dev.f F.PIPE_PFC_CFG_RX_MAP (e / 64) (e % 64)) (3 * prio + 2) (3 * prio) = 4 + k → 0 < time → time < 65536 →
      ∃ t, exec (.pfcFrameReceive e (2 ^ prio) (List.replicate 8 time)) s = .next t ∧ t.mem = s.mem ∧
        SMap.find? t.dev.egr.pauses (8 * e + 4 + k) = some (s.dev.el8 + line8 (64 * time) (s.dev.rate e)) ∧
        (SMap.find? s.dev.egr.pauses (8 * e + 4 + k) = none → SMap.find? t.dev.egr.pausedAt (8 * e + 4 + k) = some s.dev.el8) ∧
        (∀ x, x ≠ 8 * e + 4 + k → SMap.find? t.dev.egr.pauses x = SMap.find? s.dev.egr.pauses x) ∧
        bit (t.dev.f F.PIPE_PFC_STATE_PAUSED (e / 64) (e % 64)) k = true ∧
        t.dev.q .PIPE_PFC_CNT (e / 64) (e % 64) 0 = (s.dev.q .PIPE_PFC_CNT (e / 64) (e % 64) 0 + 1) % 2 ^ 64 ∧
        RegsKept [regKey .PIPE_PFC_STATE (e / 64) (e % 64) 0 0] s.dev t.dev) ∧
    (e < 1024 → s.dev.mayArrive e = true → s.dev.serving = true → s.dev.ctl.vlog.length < 256 →
      exec (.pauseRx e) s = .next (s.withDev ({ s.dev.fresh with
        ctl := { s.dev.ctl with vlog := s.dev.ctl.vlog ++ [[word (7 * 2 ^ 28 + 0x3F * 2 ^ 22), word e, word (short s.dev.now8), 0]] } }.bumpQ
        .PIPE_PFC_CNT (e / 64) (e % 64) 3))) ∧
    (e < 1024 → k < 4 → (SMap.find? s.dev.egr.pauses (8 * e + 4 + k)).isSome = true →
      ∃ t, exec (.pauseExpiry e k) s = .next t ∧ t.mem = s.mem ∧ SMap.find? t.dev.egr.pauses (8 * e + 4 + k) = none ∧
        bit (t.dev.f F.PIPE_PFC_STATE_PAUSED (e / 64) (e % 64)) k = false ∧ RegsKept [regKey .PIPE_PFC_STATE (e / 64) (e % 64) 0 0] s.dev t.dev) ∧
    (k < 4 → s.dev.pfcTx e = true → s.dev.xoff e k = true → s.dev.f F.PIPE_PFC_THR_XON_SECTORS (e / 64) (4 * (e % 64) + k) ≤ s.dev.usageOf e k →
      exec (.pfcRefresh e k) s = .next (s.withDev (s.dev.fresh.queuePfc e k (s.dev.pfcQuanta e)))) ∧
    (reg ∈ [Reg.PIPE_QPACER_RATE, .PIPE_QPACER_BURST] → Writes s m reg p l v.toNat →
      clr (s.dev.written reg p l m v.toNat).toNat (2 ^ 31) ≠ clr (s.dev.get reg p l 0 m).toNat (2 ^ 31) →
      ∃ t, exec (.pacerWrite m (offsetFor m (reg.off p l)) v) s = .next t ∧ t.mem = s.mem ∧ t.dev.get reg p l = s.dev.written reg p l m v.toNat ∧
        SMap.find? t.dev.egr.pacers (p * 1024 + l) =
          some ⟨if t.dev.on F.PIPE_QPACER_RATE_RESET p l then t.dev.f F.PIPE_QPACER_BURST_BURST p l * pacerUnit else 0, s.dev.el8⟩ ∧
        RegsKept [regKey reg p l 0 m] s.dev t.dev) ∧
    (reg ∈ [Reg.PIPE_PPACER_RATE, .PIPE_PPACER_BURST] → Writes s m reg p l v.toNat →
      clr (s.dev.written reg p l m v.toNat).toNat (2 ^ 31) ≠ clr (s.dev.get reg p l 0 m).toNat (2 ^ 31) →
      ∃ t, exec (.pacerWrite m (offsetFor m (reg.off p l)) v) s = .next t ∧ t.mem = s.mem ∧ t.dev.get reg p l = s.dev.written reg p l m v.toNat ∧
        SMap.find? t.dev.egr.portPacers (p * 128 + l) =
          some ⟨if t.dev.on F.PIPE_PPACER_RATE_RESET p l then t.dev.f F.PIPE_PPACER_BURST_BURST p l * pacerUnit else 0, s.dev.el8⟩ ∧
        RegsKept [regKey reg p l 0 m] s.dev t.dev) ∧
    (reg ∈ [Reg.PIPE_METER_CFG, .PIPE_METER_CIR, .PIPE_METER_PIR, .PIPE_METER_CBS, .PIPE_METER_EBS_PBS, .PIPE_METER_DSCP] →
      Writes s m reg p l v.toNat →
      ∃ t, exec (.meterWrite m (offsetFor m (reg.off p l)) v) s = .next t ∧ t.mem = s.mem ∧ t.dev.get reg p l = s.dev.written reg p l m v.toNat ∧
        SMap.find? t.dev.egr.meters (2 * (p * 4096 + l)) = none ∧ SMap.find? t.dev.egr.meters (2 * (p * 4096 + l) + 1) = none ∧
        RegsKept [regKey reg p l 0 m] s.dev t.dev) ∧
    (Writes s m .ADM_PIPE_DERATE p 0 v.toNat → m ≠ 0x22 →
      (s.dev.pwcHolds p = false → (∀ x, x ∈ SMap.get s.dev.adm.derateOld p [] → x.2 ≤ s.dev.cell + 2) →
        ∃ t, exec (.admPipeDerateWrite m p v) s = .next t ∧ t.mem = s.mem ∧ t.dev.get .ADM_PIPE_DERATE p = s.dev.written .ADM_PIPE_DERATE p 0 m v.toNat ∧
          t.dev.derate p = s.dev.derate p ∧ t.dev.last = [⟨m, .ok, 0⟩] ∧ RegsKept [regKey .ADM_PIPE_DERATE p 0 0 0] s.dev t.dev ∧
          t.dev.time = s.dev.time ∧ { t.dev with time := { t.dev.time with ticks := t.dev.time.ticks + 4 } }.derate p = t.dev.get .ADM_PIPE_DERATE p) ∧
      (s.dev.pwcHolds p = true →
        ∃ t, exec (.admPipeDerateWrite m p v) s = .next t ∧ t.mem = s.mem ∧ t.dev.regs = s.dev.regs ∧ t.dev.last = [⟨m, .conflict, 0⟩] ∧
          SMap.find? t.dev.pwr.request p = some (s.dev.written .ADM_PIPE_DERATE p 0 m v.toNat)))

/-- Read matching, in every state: a bank is claimed for at most two cells and a pipe accepts at most sixteen, every claim is of a cell of its
bank, and no register or counter changes. -/
def Obligations.MatchingRespectsBanks : Prop :=
  ∀ s : State, ∃ t, exec .readMatching s = .next t ∧ t.pending = s.pending ∧ t.mem = s.mem ∧
    (∀ b, (t.dev.buf.claims.filter fun x => x.bank == b).length ≤ 2) ∧
    (∀ p, (t.dev.buf.claims.filter fun x => x.pipes.contains p).length ≤ 16) ∧
    (∀ x, x ∈ t.dev.buf.claims → x.bank = x.ptr / 4096 ∧ ∀ p, p ∈ x.pipes → ∃ c, c ∈ s.dev.copyList ∧ pipeOf c.egress = p ∧ x.ptr ∈ s.dev.wanted c) ∧
    t.dev = { s.dev.fresh with buf := { s.dev.buf with claims := t.dev.buf.claims, claimsFor := s.dev.cell + 1,
                                                       bankPtr := t.dev.buf.bankPtr, pipePtr := t.dev.buf.pipePtr, requests := t.dev.buf.requests } }
end

