-- ==== Sys2Proof/Laws/Access.lean ====
section
/-! SUPPORT. What an access that acts does: one lemma for a read and one for a write of a register. -/

namespace Sys2Proof.Machine

/-- An access that reaches its register is turned away by no check. -/
theorem checkAccess_of_reaches {s : State} {m : Nat} {w : Option Nat} {r : Reg} {i j : Nat} (h : Reaches s m w r i j) :
    s.dev.fresh.checkAccess m w (offsetFor m (r.off i j)) 4 = none := by
  have h1 : s.dev.fresh.turnedAway m = false := h.live
  have h2 := h.stage
  have h3 : s.dev.fresh.within m w (offsetFor m (r.off i j)) = true := h.rights
  have h4 := h.aligned
  have h5 : s.dev.fresh.bootAllows m w.isSome (if isHostFn m then 0x0C000000 else unalias (offsetFor m (r.off i j))) = true := h2
  simp [Dev.checkAccess, h1, h3, h4, h5]

/-- A read completes without an error, but for one of the trace ring (R349). -/
theorem readStatus_ok {d : Dev} {m : Nat} {h : RegHit} (hr : (h.reg == Reg.TEL_RING_RD_DATA0) = false) : d.readStatus m h = .ok := by
  simp [Dev.readStatus, hr]

/-- A read that reaches a register is a read of that instance. -/
theorem readReg_of_reaches {s : State} {m : Nat} {r : Reg} {i j : Nat} (h : Reaches s m none r i j) :
    readReg r i j m s.mem s.dev.fresh =
      (s.mem, (if r.row.wide then s.dev.fresh.readWide m (hitOf r i j) else s.dev.fresh.readWord s.mem m (hitOf r i j)).1.done m
        (s.dev.fresh.readStatus m (hitOf r i j)) (if r.row.wide then s.dev.fresh.readWide m (hitOf r i j) else s.dev.fresh.readWord s.mem m (hitOf r i j)).2) := by
  simp [readReg, regRead, h.has, h.master, checkAccess_of_reaches h, h.outside, h.found, hitOf]

/-- A write that reaches a 32-bit register is a write of that word. -/
theorem writeReg_of_reaches {s : State} {m : Nat} {r : Reg} {i j v : Nat} (aux : List Nat) (h : Reaches s m (some v) r i j)
    (hv : v < 2 ^ 32) (hw : r.row.wide = false) :
    writeReg r i j m v aux s.mem s.dev.fresh = writeWord s.mem s.dev.fresh m (hitOf r i j) (offsetFor m (r.off i j)) (word v) aux := by
  have e : (word v).toNat = v := Nat.mod_eq_of_lt hv
  simp [writeReg, regWrite, h.has, h.master, e, checkAccess_of_reaches h, h.outside, h.found, hw, hitOf]

/-- Registers whose write is more than a stored word and what `afterWrite` starts. -/
def Reg.special (r : Reg) : Bool :=
  match r with
  | .BAT | .MB_STAT | .MB_DOORBELL | .MB_DATA | .ADM_PIPE_DERATE | .PORT_CFG | .ID_RESET | .TEL_CTRL | .EV_SESS_CMD | .TBL_CMD
  | .SPD_BANK_CFG => true
  | _ => false

/-- A write that acts stores its word and starts what the register starts. -/
theorem writeReg_of_writes {s : State} {m : Nat} {r : Reg} {i j v : Nat} (aux : List Nat) (h : Writes s m r i j v)
    (hr : r.special = false) :
    writeReg r i j m v aux s.mem s.dev.fresh =
      (s.mem, (Dev.afterWrite s.dev.fresh (s.dev.fresh.putWord r i j m v) s.mem m (hitOf r i j)
        (offsetFor m (r.off i j)) (s.dev.get r i j 0 m).toNat v aux).done m .ok) := by
  rw [writeReg_of_reaches aux h.toReaches h.fits h.narrow]
  have e : (word v).toNat = v := Nat.mod_eq_of_lt h.fits
  have hp : s.dev.fresh.fieldForbidden m (hitOf r i j) (s.dev.fresh.newWord (hitOf r i j) m v ||| (v &&& (hitOf r i j).reg.row.wo)) = false :=
    h.permitted
  have ha : s.dev.fresh.conflicts (s.dev.fresh.set (hitOf r i j).reg (word (s.dev.fresh.newWord (hitOf r i j) m v)) (hitOf r i j).i
      (hitOf r i j).j (hitOf r i j).k m) (hitOf r i j) m v = false := h.accepted
  have hg : s.dev.fresh.boot.applying = false := h.running
  have hs : s.dev.fresh.writeSpecial m (hitOf r i j) (offsetFor m (r.off i j)) (word v) = none := by
    cases r <;> first | rfl | cases hr
  have h1 : (r == Reg.EV_SESS_CMD) = false := by
    cases hq : r == Reg.EV_SESS_CMD
    · rfl
    · rw [eq_of_beq hq] at hr; cases hr
  have h3 : (r == Reg.TBL_CMD) = false := by
    cases hq : r == Reg.TBL_CMD
    · rfl
    · rw [eq_of_beq hq] at hr; cases hr
  have h2 : (r == Reg.SPD_BANK_CFG) = false := by
    cases hq : r == Reg.SPD_BANK_CFG
    · rfl
    · rw [eq_of_beq hq] at hr; cases hr
  unfold writeWord
  simp only [e, hp, ha, hg, hs, Bool.false_and, Bool.false_eq_true, if_false]
  split
  · next x => simp only [hitOf] at x; subst x; cases hr
  · next x => simp only [hitOf] at x; subst x; cases hr
  · next x => simp only [hitOf] at x; subst x; cases hr
  · next x => simp only [hitOf] at x; subst x; cases hr
  · simp only [memAfterWrite, Dev.actedStatus, hitOf, h1, h2, h3, Bool.false_and, Bool.or_false, Bool.false_eq_true, if_false]
    rfl

end Sys2Proof.Machine
end

