-- ==== Sys2Proof/Laws/SMap.lean ====
section
/-! SUPPORT. Sparse maps: a read after a write, and that every operation keeps the canonical form. -/

namespace Sys2Proof.SMap

variable {V : Type}

@[simp] theorem get_nil (k : Nat) (d : V) : SMap.get ([] : SMap V) k d = d := rfl

@[simp] theorem get_set_same (m : SMap V) (k : Nat) (v d : V) : SMap.get (SMap.set m k v) k d = v := by
  induction m with
  | nil => simp [SMap.set, SMap.get]
  | cons p rest ih =>
    obtain ⟨a, x⟩ := p
    unfold SMap.set
    split
    · simp [SMap.get]
    · split
      · simp [SMap.get]
      · next h => simp [SMap.get, Ne.symm h, ih]

theorem get_set_other (m : SMap V) {k k' : Nat} (v d : V) (h : k' ≠ k) : SMap.get (SMap.set m k v) k' d = SMap.get m k' d := by
  induction m with
  | nil => simp [SMap.set, SMap.get, Ne.symm h]
  | cons p rest ih =>
    obtain ⟨a, x⟩ := p
    unfold SMap.set
    split
    · simp [SMap.get, Ne.symm h]
    · split
      · next e => subst e; simp [SMap.get, Ne.symm h]
      · by_cases e : a = k'
        · simp [SMap.get, e]
        · simp [SMap.get, e, ih]

theorem get_set (m : SMap V) (k k' : Nat) (v d : V) :
    SMap.get (SMap.set m k v) k' d = if k' = k then v else SMap.get m k' d := by
  by_cases h : k' = k
  · subst h; simp
  · simp [h, get_set_other m v d h]

@[simp] theorem get_erase_same (m : SMap V) (k : Nat) (d : V) : SMap.get (SMap.erase m k) k d = d := by
  induction m with
  | nil => rfl
  | cons p rest ih =>
    obtain ⟨a, x⟩ := p
    by_cases e : a = k
    · simpa [SMap.erase, e] using ih
    · simpa [SMap.erase, e, SMap.get] using ih

theorem get_erase_other (m : SMap V) {k k' : Nat} (d : V) (h : k' ≠ k) : SMap.get (SMap.erase m k) k' d = SMap.get m k' d := by
  induction m with
  | nil => rfl
  | cons p rest ih =>
    obtain ⟨a, x⟩ := p
    by_cases e : a = k
    · have : a ≠ k' := fun e' => h (e' ▸ e)
      simpa [SMap.erase, e, SMap.get, Ne.symm h] using ih
    · by_cases e' : a = k'
      · simp [SMap.erase, SMap.get, e', h]
      · simpa [SMap.erase, e, SMap.get, e'] using ih

theorem get_put [DecidableEq V] (m : SMap V) (k k' : Nat) (v d : V) :
    SMap.get (SMap.put m k v d) k' d = if k' = k then v else SMap.get m k' d := by
  unfold SMap.put
  split
  · next e =>
    subst e
    by_cases h : k' = k
    · subst h; simp
    · simp [h, get_erase_other m v h]
  · exact get_set m k k' v d

@[simp] theorem find?_set_same (m : SMap V) (k : Nat) (v : V) : SMap.find? (SMap.set m k v) k = some v := by
  induction m with
  | nil => simp [SMap.set, SMap.find?]
  | cons p rest ih =>
    obtain ⟨a, x⟩ := p
    unfold SMap.set
    split
    · simp [SMap.find?]
    · split
      · simp [SMap.find?]
      · next h => simp [SMap.find?, Ne.symm h, ih]

theorem find?_set_other (m : SMap V) {k k' : Nat} (v : V) (h : k' ≠ k) : SMap.find? (SMap.set m k v) k' = SMap.find? m k' := by
  induction m with
  | nil => simp [SMap.set, SMap.find?, Ne.symm h]
  | cons p rest ih =>
    obtain ⟨a, x⟩ := p
    unfold SMap.set
    split
    · simp [SMap.find?, Ne.symm h]
    · split
      · next e => subst e; simp [SMap.find?, Ne.symm h]
      · by_cases e : a = k'
        · simp [SMap.find?, e]
        · simp [SMap.find?, e, ih]

@[simp] theorem find?_erase_same (m : SMap V) (k : Nat) : SMap.find? (SMap.erase m k) k = none := by
  induction m with
  | nil => rfl
  | cons p rest ih =>
    obtain ⟨a, x⟩ := p
    by_cases e : a = k
    · simpa [SMap.erase, e] using ih
    · simpa [SMap.erase, e, SMap.find?] using ih

/-! ### The canonical form -/

/-- Every listed index is above a bound. -/
def above (b : Nat) (m : SMap V) : Prop := ∀ p ∈ m, b < p.1

theorem rising_cons (a : Nat) (v : V) (m : SMap V) : SMap.rising ((a, v) :: m) = true ↔ above a m ∧ SMap.rising m = true := by
  induction m generalizing a v with
  | nil => simp [SMap.rising, above]
  | cons p rest ih =>
    obtain ⟨b, x⟩ := p
    simp only [SMap.rising, Bool.and_eq_true, decide_eq_true_eq]
    constructor
    · rintro ⟨h1, h2⟩
      refine ⟨?_, h2⟩
      have h3 := ((ih b x).1 h2).1
      intro p hp
      rcases List.mem_cons.1 hp with e | e
      · subst e; exact h1
      · exact Nat.lt_trans h1 (h3 p e)
    · rintro ⟨h1, h2⟩
      exact ⟨h1 (b, x) (by simp), h2⟩

theorem mem_set {m : SMap V} {k : Nat} {v : V} {p : Nat × V} (h : p ∈ SMap.set m k v) : p = (k, v) ∨ p ∈ m := by
  induction m with
  | nil => simp [SMap.set] at h; exact .inl h
  | cons q rest ih =>
    obtain ⟨a, x⟩ := q
    unfold SMap.set at h
    split at h
    · rcases List.mem_cons.1 h with e | e
      · exact .inl e
      · exact .inr e
    · split at h
      · rcases List.mem_cons.1 h with e | e
        · exact .inl e
        · exact .inr (List.mem_cons_of_mem _ e)
      · rcases List.mem_cons.1 h with e | e
        · exact .inr (by simp [e])
        · rcases ih e with e | e
          · exact .inl e
          · exact .inr (List.mem_cons_of_mem _ e)

theorem rising_set (m : SMap V) (k : Nat) (v : V) (h : SMap.rising m = true) : SMap.rising (SMap.set m k v) = true := by
  induction m with
  | nil => rfl
  | cons p rest ih =>
    obtain ⟨a, x⟩ := p
    have hr := (rising_cons a x rest).1 h
    unfold SMap.set
    split
    · next lt =>
      refine (rising_cons k v _).2 ⟨?_, h⟩
      intro p hp
      rcases List.mem_cons.1 hp with e | e
      · subst e; exact lt
      · exact Nat.lt_trans lt (hr.1 p e)
    · split
      · next e => subst e; exact (rising_cons k v rest).2 hr
      · next nlt ne =>
        refine (rising_cons a x _).2 ⟨?_, ih hr.2⟩
        intro p hp
        rcases mem_set hp with e | e
        · subst e; simp only; omega
        · exact hr.1 p e

theorem rising_filter (m : SMap V) (f : Nat × V → Bool) (h : SMap.rising m = true) : SMap.rising (m.filter f) = true := by
  induction m with
  | nil => rfl
  | cons p rest ih =>
    obtain ⟨a, x⟩ := p
    have hr := (rising_cons a x rest).1 h
    by_cases e : f (a, x) = true
    · rw [List.filter_cons_of_pos e]
      refine (rising_cons a x _).2 ⟨?_, ih hr.2⟩
      intro p hp
      exact hr.1 p ((List.mem_filter.1 hp).1)
    · rw [List.filter_cons_of_neg (by simpa using e)]
      exact ih hr.2

/-- The canonical form as two facts: the indices rise, and no entry equals the default. -/
theorem wf_iff [DecidableEq V] (m : SMap V) (d : V) :
    SMap.wf m d = true ↔ SMap.rising m = true ∧ ∀ p ∈ m, p.2 ≠ d := by
  simp [SMap.wf]

theorem wf_filter [DecidableEq V] (m : SMap V) (d : V) (f : Nat × V → Bool) (h : SMap.wf m d = true) :
    SMap.wf (m.filter f) d = true := by
  have h' := (wf_iff m d).1 h
  exact (wf_iff _ d).2 ⟨rising_filter m f h'.1, fun p hp => h'.2 p ((List.mem_filter.1 hp).1)⟩

/-- A write keeps the canonical form. -/
theorem wf_put [DecidableEq V] (m : SMap V) (k : Nat) (v d : V) (h : SMap.wf m d = true) : SMap.wf (SMap.put m k v d) d = true := by
  unfold SMap.put
  split
  · exact wf_filter m d _ h
  · next ne =>
    have h' := (wf_iff m d).1 h
    refine (wf_iff _ d).2 ⟨rising_set m k v h'.1, ?_⟩
    intro p hp
    rcases mem_set hp with e | e
    · subst e; exact ne
    · exact h'.2 p e

/-- Two canonical maps that read alike are equal. -/
theorem ext_of_rising : ∀ (m n : SMap V), SMap.rising m = true → SMap.rising n = true →
    (∀ k, SMap.find? m k = SMap.find? n k) → m = n
  | [], [], _, _, _ => rfl
  | [], (b, y) :: n, _, _, h => by have := h b; simp [SMap.find?] at this
  | (a, x) :: m, [], _, _, h => by have := h a; simp [SMap.find?] at this
  | (a, x) :: m, (b, y) :: n, hm, hn, h => by
    have low : ∀ (l : SMap V) (k : Nat), above k l → SMap.find? l k = none := by
      intro l k hl
      induction l with
      | nil => rfl
      | cons p rest ih =>
        obtain ⟨c, z⟩ := p
        have hc : k < c := hl (c, z) (by simp)
        simp only [SMap.find?]
        rw [if_neg (by omega)]
        exact ih fun p hp => hl p (List.mem_cons_of_mem _ hp)
    have am := (rising_cons a x m).1 hm
    have an := (rising_cons b y n).1 hn
    have hab : a = b := by
      rcases Nat.lt_trichotomy a b with lt | e | lt
      · have := h a
        simp only [SMap.find?, if_true] at this
        rw [if_neg (by omega), low n a fun p hp => Nat.lt_trans lt (an.1 p hp)] at this
        exact absurd this (by simp)
      · exact e
      · have := h b
        simp only [SMap.find?, if_true] at this
        rw [if_neg (by omega), low m b fun p hp => Nat.lt_trans lt (am.1 p hp)] at this
        exact absurd this (by simp)
    subst hab
    have hxy : x = y := by
      have := h a
      simpa [SMap.find?] using this
    subst hxy
    refine congrArg _ (ext_of_rising m n am.2 an.2 fun k => ?_)
    by_cases e : a = k
    · subst e; rw [low m a am.1, low n a an.1]
    · have := h k
      simpa [SMap.find?, e] using this

end Sys2Proof.SMap
end

