-- ==== Sys2Proof/Laws/Mem.lean ====
section
/-! SUPPORT. The two memories: every operation on them keeps their canonical form, and a read after a write. -/

namespace Sys2Proof.Machine

theorem Mem.wf_iff (m : Mem) : m.wf = true ↔ SMap.wf m.hbm Mem.unwritten = true ∧ SMap.wf m.spd Mem.unwritten = true := by
  simp [Mem.wf]

theorem Mem.wf_empty : (⟨[], []⟩ : Mem).wf = true := rfl

theorem State.reset_mem_wf : State.reset.mem.wf = true := rfl

/-- Dropping the contents of HBM, as a zero-fill and a thermal trip do. -/
theorem Mem.wf_noHbm {m : Mem} (h : m.wf = true) : ({ m with hbm := [] } : Mem).wf = true :=
  (Mem.wf_iff _).2 ⟨rfl, ((Mem.wf_iff m).1 h).2⟩

theorem Mem.wf_spdPut {m : Mem} (a : Nat) (v : Byte) (h : m.wf = true) : (m.spdPut a v).wf = true :=
  (Mem.wf_iff _).2 ⟨((Mem.wf_iff m).1 h).1, SMap.wf_put m.spd a v _ ((Mem.wf_iff m).1 h).2⟩

theorem Mem.wf_hbmPut {m : Mem} (a : Nat) (v : Byte) (h : m.wf = true) : (m.hbmPut a v).wf = true :=
  (Mem.wf_iff _).2 ⟨SMap.wf_put m.hbm a v _ ((Mem.wf_iff m).1 h).1, ((Mem.wf_iff m).1 h).2⟩

theorem Mem.wf_spdWrite (bs : List Byte) : ∀ {m : Mem} (a : Nat), m.wf = true → (m.spdWrite a bs).wf = true := by
  induction bs with
  | nil => intro m a h; exact h
  | cons b rest ih => intro m a h; exact ih (a + 1) (Mem.wf_spdPut a b h)

theorem Mem.wf_hbmWrite (bs : List (Nat × Byte)) : ∀ {m : Mem} (a : Nat), m.wf = true → (m.hbmWrite a bs).wf = true := by
  induction bs with
  | nil => intro m a h; exact h
  | cons x rest ih => intro m a h; exact ih a (Mem.wf_hbmPut (a + x.1) x.2 h)

theorem Mem.wf_clearBank {m : Mem} (b : Nat) (h : m.wf = true) : (m.clearBank b).wf = true :=
  (Mem.wf_iff _).2 ⟨((Mem.wf_iff m).1 h).1, SMap.wf_filter m.spd _ _ ((Mem.wf_iff m).1 h).2⟩

theorem wf_bankContents {m : Mem} (b old new : Nat) (h : m.wf = true) : (bankContents m b old new).wf = true := by
  unfold bankContents
  split
  · exact Mem.wf_clearBank b h
  · exact h

theorem wf_memAfterWrite {m : Mem} (x : RegHit) (old new : Nat) (h : m.wf = true) : (memAfterWrite m x old new).wf = true := by
  unfold memAfterWrite
  split
  · exact wf_bankContents _ _ _ h
  · exact h

/-! ### Reads after writes -/

theorem Mem.spdByte_spdPut (m : Mem) (a b : Nat) (v : Byte) : (m.spdPut a v).spdByte b = if b = a then v else m.spdByte b :=
  SMap.get_put m.spd a b v Mem.unwritten

theorem Mem.hbmByte_hbmPut (m : Mem) (a b : Nat) (v : Byte) : (m.hbmPut a v).hbmByte b = if b = a then v else m.hbmByte b :=
  SMap.get_put m.hbm a b v Mem.unwritten

@[simp] theorem Mem.hbmByte_spdPut (m : Mem) (a b : Nat) (v : Byte) : (m.spdPut a v).hbmByte b = m.hbmByte b := rfl
@[simp] theorem Mem.spdByte_hbmPut (m : Mem) (a b : Nat) (v : Byte) : (m.hbmPut a v).spdByte b = m.spdByte b := rfl

/-- A write of consecutive scratchpad bytes leaves every byte outside them. -/
theorem Mem.spdByte_spdWrite_outside (bs : List Byte) : ∀ (m : Mem) (a b : Nat), b < a ∨ a + bs.length ≤ b →
    (m.spdWrite a bs).spdByte b = m.spdByte b := by
  induction bs with
  | nil => intro m a b _; rfl
  | cons x rest ih =>
    intro m a b h
    simp only [List.length_cons] at h
    rw [Mem.spdWrite, ih _ _ _ (by omega), Mem.spdByte_spdPut, if_neg (by omega)]

/-- A write of consecutive scratchpad bytes is read back. -/
theorem Mem.spdByte_spdWrite_inside (bs : List Byte) : ∀ (m : Mem) (a i : Nat) (h : i < bs.length),
    (m.spdWrite a bs).spdByte (a + i) = bs[i] := by
  induction bs with
  | nil => intro m a i h; cases h
  | cons x rest ih =>
    intro m a i h
    cases i with
    | zero =>
      rw [Mem.spdWrite, Mem.spdByte_spdWrite_outside rest _ _ _ (by omega), Mem.spdByte_spdPut]
      simp
    | succ j =>
      have := ih (m.spdPut a x) (a + 1) j (by simpa using h)
      rw [Mem.spdWrite, show a + (j + 1) = a + 1 + j by omega, this]
      rfl

theorem Mem.hbm_spdWrite (bs : List Byte) : ∀ (m : Mem) (a : Nat), (m.spdWrite a bs).hbm = m.hbm := by
  induction bs with
  | nil => intro m a; rfl
  | cons x rest ih => intro m a; exact ih _ _

theorem Mem.spd_hbmWrite (bs : List (Nat × Byte)) : ∀ (m : Mem) (a : Nat), (m.hbmWrite a bs).spd = m.spd := by
  induction bs with
  | nil => intro m a; rfl
  | cons x rest ih => intro m a; exact ih _ _

end Sys2Proof.Machine
end

