-- ==== Sys2Proof/Laws/RegMap.lean ====
section
/-! SUPPORT. The register map: the offset of an instance of a register of at most one index names that instance. -/

namespace Sys2Proof.Machine

/-- Stride and count of the one index of a register; a register without an index counts as one instance. -/
def Reg.stride (r : Reg) : Nat := match r.row.dims with
  | [] => 8
  | a :: _ => a.1
def Reg.count (r : Reg) : Nat := match r.row.dims with
  | [] => 1
  | a :: _ => a.2

/-- The offset of the last instance. -/
def Reg.last (r : Reg) : Nat := r.row.base + r.stride * (r.count - 1)

/-- A register of at most one index. -/
def Reg.flat (r : Reg) : Bool := match r.row.dims with
  | [] => true
  | [_] => true
  | _ => false

/-- Does the map keep the offsets of `r` clear of the register `x`? -/
def Reg.clearOf (x r : Reg) : Bool :=
  decide (r.last < x.row.base) ||
  match x.row.dims with
  | [] => decide (x.row.base + 4 < r.row.base)
  | (s, n) :: l =>
    decide (0 < s) && (decide (x.row.base + s * n ≤ r.row.base) ||
      (decide (s = r.stride ∧ x.row.base ≤ r.row.base ∧ r.row.base - x.row.base < s) &&
        (matchDims x.row.wide l (r.row.base - x.row.base)).isNone) ||
      (decide (s = r.stride ∧ r.row.base < x.row.base ∧ x.row.base - r.row.base < s) &&
        (matchDims x.row.wide l (s - (x.row.base - r.row.base))).isNone))

theorem hit_none_of_dims {x : Reg} {o : Nat} (h : matchDims x.row.wide x.row.dims (o - x.row.base) = none) : x.hit? o = none := by
  simp only [Reg.hit?]
  split
  · rfl
  · simp [h]

theorem Reg.off_flat {r : Reg} (h : r.flat = true) (i : Nat) (hi : i < r.count) : r.off i = r.row.base + r.stride * i := by
  unfold Reg.flat at h
  unfold Reg.off Reg.stride
  unfold Reg.count at hi
  split at h
  · next e => simp [e] at hi ⊢; omega
  · next a e => simp [e]
  · cases h

theorem Reg.off_le_last {r : Reg} (h : r.flat = true) {i : Nat} (hi : i < r.count) : r.off i ≤ r.last := by
  rw [Reg.off_flat h i hi, Reg.last]
  exact Nat.add_le_add_left (Nat.mul_le_mul_left _ (by omega)) _

/-- A register kept clear of is not hit. -/
theorem hit_none_of_clear {x r : Reg} (hf : r.flat = true) (h : x.clearOf r = true) {i : Nat} (hi : i < r.count) :
    x.hit? (r.off i) = none := by
  have hl := Reg.off_le_last hf hi
  have ho := Reg.off_flat hf i hi
  unfold Reg.clearOf at h
  rw [Bool.or_eq_true] at h
  rcases h with h | h
  · have h := of_decide_eq_true h
    have : r.off i < x.row.base := Nat.lt_of_le_of_lt hl h
    simp [Reg.hit?, this]
  · by_cases hlt : r.off i < x.row.base
    · simp [Reg.hit?, hlt]
    apply hit_none_of_dims
    split at h
    · next e =>
      have h := of_decide_eq_true h
      have h1 : ¬ (r.off i - x.row.base = 0) := by omega
      have h2 : ¬ (r.off i - x.row.base = 4) := by omega
      simp [e, matchDims, h1, h2]
    · next s n l e =>
      rw [Bool.and_eq_true] at h
      have hs : 0 < s := of_decide_eq_true h.1
      have h := h.2
      rw [Bool.or_eq_true, Bool.or_eq_true, Bool.and_eq_true, Bool.and_eq_true] at h
      rcases h with (h | h) | h
      · have h := of_decide_eq_true h
        have : ¬ (r.off i - x.row.base) / s < n := by
          rw [Nat.div_lt_iff_lt_mul hs, Nat.mul_comm]
          omega
        simp [e, matchDims, this]
      · obtain ⟨h1, h2⟩ := h
        obtain ⟨ha, hb, hc⟩ := of_decide_eq_true h1
        have hm : (r.off i - x.row.base) % s = r.row.base - x.row.base := by
          have : r.off i - x.row.base = (r.row.base - x.row.base) + s * i := by rw [ho, ha]; omega
          rw [this, Nat.add_mul_mod_self_left, Nat.mod_eq_of_lt hc]
        rw [e]
        simp only [matchDims, hm]
        cases hq : matchDims x.row.wide l (r.row.base - x.row.base) with
        | none => simp
        | some y => rw [hq] at h2; cases h2
      · obtain ⟨h1, h2⟩ := h
        obtain ⟨ha, hb, hc⟩ := of_decide_eq_true h1
        by_cases hz : i = 0
        · subst hz
          omega
        · have hm : (r.off i - x.row.base) % s = s - (x.row.base - r.row.base) := by
            obtain ⟨k, rfl⟩ : ∃ k, i = k + 1 := ⟨i - 1, by omega⟩
            have : r.off (k + 1) - x.row.base = (s - (x.row.base - r.row.base)) + s * k := by
              rw [ho, ← ha, Nat.mul_add, Nat.mul_one]; omega
            rw [this, Nat.add_mul_mod_self_left, Nat.mod_eq_of_lt (by omega)]
          rw [e]
          simp only [matchDims, hm]
          cases hq : matchDims x.row.wide l (s - (x.row.base - r.row.base)) with
          | none => simp
          | some y => rw [hq] at h2; cases h2

end Sys2Proof.Machine
end

