-- ==== Sys2Proof/Laws/State.lean ====
section
/-! SUPPORT. One lemma per field and update of the device: a named operation leaves every part it does not name. -/

namespace Sys2Proof.Machine

section setFields
variable (d : Dev) (r : Reg) (v : Word) (i j k m : Nat)
@[simp] theorem Dev.set_wide : (d.set r v i j k m).wide = d.wide := rfl
@[simp] theorem Dev.set_ctl : (d.set r v i j k m).ctl = d.ctl := rfl
@[simp] theorem Dev.set_time : (d.set r v i j k m).time = d.time := rfl
@[simp] theorem Dev.set_adm : (d.set r v i j k m).adm = d.adm := rfl
@[simp] theorem Dev.set_hold : (d.set r v i j k m).hold = d.hold := rfl
@[simp] theorem Dev.set_buf : (d.set r v i j k m).buf = d.buf := rfl
@[simp] theorem Dev.set_ev : (d.set r v i j k m).ev = d.ev := rfl
@[simp] theorem Dev.set_heat : (d.set r v i j k m).heat = d.heat := rfl
@[simp] theorem Dev.set_parse : (d.set r v i j k m).parse = d.parse := rfl
@[simp] theorem Dev.set_tbl : (d.set r v i j k m).tbl = d.tbl := rfl
@[simp] theorem Dev.set_waiting : (d.set r v i j k m).waiting = d.waiting := rfl
@[simp] theorem Dev.set_egr : (d.set r v i j k m).egr = d.egr := rfl
@[simp] theorem Dev.set_hbm : (d.set r v i j k m).hbm = d.hbm := rfl
@[simp] theorem Dev.set_ports : (d.set r v i j k m).ports = d.ports := rfl
@[simp] theorem Dev.set_ivl : (d.set r v i j k m).ivl = d.ivl := rfl
@[simp] theorem Dev.set_boot : (d.set r v i j k m).boot = d.boot := rfl
@[simp] theorem Dev.set_pwr : (d.set r v i j k m).pwr = d.pwr := rfl
@[simp] theorem Dev.set_tel : (d.set r v i j k m).tel = d.tel := rfl
@[simp] theorem Dev.set_draws : (d.set r v i j k m).draws = d.draws := rfl
@[simp] theorem Dev.set_out : (d.set r v i j k m).out = d.out := rfl
@[simp] theorem Dev.set_last : (d.set r v i j k m).last = d.last := rfl
end setFields

section setQFields
variable (d : Dev) (r : Reg) (v i j k m : Nat)
@[simp] theorem Dev.setQ_regs : (d.setQ r v i j k m).regs = d.regs := rfl
@[simp] theorem Dev.setQ_ctl : (d.setQ r v i j k m).ctl = d.ctl := rfl
@[simp] theorem Dev.setQ_time : (d.setQ r v i j k m).time = d.time := rfl
@[simp] theorem Dev.setQ_adm : (d.setQ r v i j k m).adm = d.adm := rfl
@[simp] theorem Dev.setQ_hold : (d.setQ r v i j k m).hold = d.hold := rfl
@[simp] theorem Dev.setQ_buf : (d.setQ r v i j k m).buf = d.buf := rfl
@[simp] theorem Dev.setQ_ev : (d.setQ r v i j k m).ev = d.ev := rfl
@[simp] theorem Dev.setQ_heat : (d.setQ r v i j k m).heat = d.heat := rfl
@[simp] theorem Dev.setQ_parse : (d.setQ r v i j k m).parse = d.parse := rfl
@[simp] theorem Dev.setQ_tbl : (d.setQ r v i j k m).tbl = d.tbl := rfl
@[simp] theorem Dev.setQ_waiting : (d.setQ r v i j k m).waiting = d.waiting := rfl
@[simp] theorem Dev.setQ_egr : (d.setQ r v i j k m).egr = d.egr := rfl
@[simp] theorem Dev.setQ_hbm : (d.setQ r v i j k m).hbm = d.hbm := rfl
@[simp] theorem Dev.setQ_ports : (d.setQ r v i j k m).ports = d.ports := rfl
@[simp] theorem Dev.setQ_ivl : (d.setQ r v i j k m).ivl = d.ivl := rfl
@[simp] theorem Dev.setQ_boot : (d.setQ r v i j k m).boot = d.boot := rfl
@[simp] theorem Dev.setQ_pwr : (d.setQ r v i j k m).pwr = d.pwr := rfl
@[simp] theorem Dev.setQ_tel : (d.setQ r v i j k m).tel = d.tel := rfl
@[simp] theorem Dev.setQ_draws : (d.setQ r v i j k m).draws = d.draws := rfl
@[simp] theorem Dev.setQ_out : (d.setQ r v i j k m).out = d.out := rfl
@[simp] theorem Dev.setQ_last : (d.setQ r v i j k m).last = d.last := rfl
end setQFields

section setFFields
variable (d : Dev) (x : Fld) (v i j k m : Nat)
@[simp] theorem Dev.setF_wide : (d.setF x v i j k m).wide = d.wide := rfl
@[simp] theorem Dev.setF_ctl : (d.setF x v i j k m).ctl = d.ctl := rfl
@[simp] theorem Dev.setF_time : (d.setF x v i j k m).time = d.time := rfl
@[simp] theorem Dev.setF_adm : (d.setF x v i j k m).adm = d.adm := rfl
@[simp] theorem Dev.setF_hold : (d.setF x v i j k m).hold = d.hold := rfl
@[simp] theorem Dev.setF_buf : (d.setF x v i j k m).buf = d.buf := rfl
@[simp] theorem Dev.setF_ev : (d.setF x v i j k m).ev = d.ev := rfl
@[simp] theorem Dev.setF_heat : (d.setF x v i j k m).heat = d.heat := rfl
@[simp] theorem Dev.setF_parse : (d.setF x v i j k m).parse = d.parse := rfl
@[simp] theorem Dev.setF_tbl : (d.setF x v i j k m).tbl = d.tbl := rfl
@[simp] theorem Dev.setF_waiting : (d.setF x v i j k m).waiting = d.waiting := rfl
@[simp] theorem Dev.setF_egr : (d.setF x v i j k m).egr = d.egr := rfl
@[simp] theorem Dev.setF_hbm : (d.setF x v i j k m).hbm = d.hbm := rfl
@[simp] theorem Dev.setF_ports : (d.setF x v i j k m).ports = d.ports := rfl
@[simp] theorem Dev.setF_ivl : (d.setF x v i j k m).ivl = d.ivl := rfl
@[simp] theorem Dev.setF_boot : (d.setF x v i j k m).boot = d.boot := rfl
@[simp] theorem Dev.setF_pwr : (d.setF x v i j k m).pwr = d.pwr := rfl
@[simp] theorem Dev.setF_tel : (d.setF x v i j k m).tel = d.tel := rfl
@[simp] theorem Dev.setF_draws : (d.setF x v i j k m).draws = d.draws := rfl
@[simp] theorem Dev.setF_out : (d.setF x v i j k m).out = d.out := rfl
@[simp] theorem Dev.setF_last : (d.setF x v i j k m).last = d.last := rfl
end setFFields

section bumpFields
variable (d : Dev) (x : Fld) (i j k n : Nat)
@[simp] theorem Dev.bump_wide : (d.bump x i j k n).wide = d.wide := rfl
@[simp] theorem Dev.bump_ctl : (d.bump x i j k n).ctl = d.ctl := rfl
@[simp] theorem Dev.bump_time : (d.bump x i j k n).time = d.time := rfl
@[simp] theorem Dev.bump_adm : (d.bump x i j k n).adm = d.adm := rfl
@[simp] theorem Dev.bump_hold : (d.bump x i j k n).hold = d.hold := rfl
@[simp] theorem Dev.bump_buf : (d.bump x i j k n).buf = d.buf := rfl
@[simp] theorem Dev.bump_ev : (d.bump x i j k n).ev = d.ev := rfl
@[simp] theorem Dev.bump_heat : (d.bump x i j k n).heat = d.heat := rfl
@[simp] theorem Dev.bump_parse : (d.bump x i j k n).parse = d.parse := rfl
@[simp] theorem Dev.bump_tbl : (d.bump x i j k n).tbl = d.tbl := rfl
@[simp] theorem Dev.bump_waiting : (d.bump x i j k n).waiting = d.waiting := rfl
@[simp] theorem Dev.bump_egr : (d.bump x i j k n).egr = d.egr := rfl
@[simp] theorem Dev.bump_hbm : (d.bump x i j k n).hbm = d.hbm := rfl
@[simp] theorem Dev.bump_ports : (d.bump x i j k n).ports = d.ports := rfl
@[simp] theorem Dev.bump_ivl : (d.bump x i j k n).ivl = d.ivl := rfl
@[simp] theorem Dev.bump_boot : (d.bump x i j k n).boot = d.boot := rfl
@[simp] theorem Dev.bump_pwr : (d.bump x i j k n).pwr = d.pwr := rfl
@[simp] theorem Dev.bump_tel : (d.bump x i j k n).tel = d.tel := rfl
@[simp] theorem Dev.bump_draws : (d.bump x i j k n).draws = d.draws := rfl
@[simp] theorem Dev.bump_out : (d.bump x i j k n).out = d.out := rfl
@[simp] theorem Dev.bump_last : (d.bump x i j k n).last = d.last := rfl
end bumpFields

section bumpQFields
variable (d : Dev) (r : Reg) (i j k n : Nat)
@[simp] theorem Dev.bumpQ_regs : (d.bumpQ r i j k n).regs = d.regs := rfl
@[simp] theorem Dev.bumpQ_ctl : (d.bumpQ r i j k n).ctl = d.ctl := rfl
@[simp] theorem Dev.bumpQ_time : (d.bumpQ r i j k n).time = d.time := rfl
@[simp] theorem Dev.bumpQ_adm : (d.bumpQ r i j k n).adm = d.adm := rfl
@[simp] theorem Dev.bumpQ_hold : (d.bumpQ r i j k n).hold = d.hold := rfl
@[simp] theorem Dev.bumpQ_buf : (d.bumpQ r i j k n).buf = d.buf := rfl
@[simp] theorem Dev.bumpQ_ev : (d.bumpQ r i j k n).ev = d.ev := rfl
@[simp] theorem Dev.bumpQ_heat : (d.bumpQ r i j k n).heat = d.heat := rfl
@[simp] theorem Dev.bumpQ_parse : (d.bumpQ r i j k n).parse = d.parse := rfl
@[simp] theorem Dev.bumpQ_tbl : (d.bumpQ r i j k n).tbl = d.tbl := rfl
@[simp] theorem Dev.bumpQ_waiting : (d.bumpQ r i j k n).waiting = d.waiting := rfl
@[simp] theorem Dev.bumpQ_egr : (d.bumpQ r i j k n).egr = d.egr := rfl
@[simp] theorem Dev.bumpQ_hbm : (d.bumpQ r i j k n).hbm = d.hbm := rfl
@[simp] theorem Dev.bumpQ_ports : (d.bumpQ r i j k n).ports = d.ports := rfl
@[simp] theorem Dev.bumpQ_ivl : (d.bumpQ r i j k n).ivl = d.ivl := rfl
@[simp] theorem Dev.bumpQ_boot : (d.bumpQ r i j k n).boot = d.boot := rfl
@[simp] theorem Dev.bumpQ_pwr : (d.bumpQ r i j k n).pwr = d.pwr := rfl
@[simp] theorem Dev.bumpQ_tel : (d.bumpQ r i j k n).tel = d.tel := rfl
@[simp] theorem Dev.bumpQ_draws : (d.bumpQ r i j k n).draws = d.draws := rfl
@[simp] theorem Dev.bumpQ_out : (d.bumpQ r i j k n).out = d.out := rfl
@[simp] theorem Dev.bumpQ_last : (d.bumpQ r i j k n).last = d.last := rfl
end bumpQFields

section doneFields
variable (d : Dev) (m : Nat) (st : Status) (v : Nat)
@[simp] theorem Dev.done_regs : (d.done m st v).regs = d.regs := rfl
@[simp] theorem Dev.done_wide : (d.done m st v).wide = d.wide := rfl
@[simp] theorem Dev.done_ctl : (d.done m st v).ctl = d.ctl := rfl
@[simp] theorem Dev.done_time : (d.done m st v).time = d.time := rfl
@[simp] theorem Dev.done_adm : (d.done m st v).adm = d.adm := rfl
@[simp] theorem Dev.done_hold : (d.done m st v).hold = d.hold := rfl
@[simp] theorem Dev.done_buf : (d.done m st v).buf = d.buf := rfl
@[simp] theorem Dev.done_ev : (d.done m st v).ev = d.ev := rfl
@[simp] theorem Dev.done_heat : (d.done m st v).heat = d.heat := rfl
@[simp] theorem Dev.done_parse : (d.done m st v).parse = d.parse := rfl
@[simp] theorem Dev.done_tbl : (d.done m st v).tbl = d.tbl := rfl
@[simp] theorem Dev.done_waiting : (d.done m st v).waiting = d.waiting := rfl
@[simp] theorem Dev.done_egr : (d.done m st v).egr = d.egr := rfl
@[simp] theorem Dev.done_hbm : (d.done m st v).hbm = d.hbm := rfl
@[simp] theorem Dev.done_ports : (d.done m st v).ports = d.ports := rfl
@[simp] theorem Dev.done_ivl : (d.done m st v).ivl = d.ivl := rfl
@[simp] theorem Dev.done_boot : (d.done m st v).boot = d.boot := rfl
@[simp] theorem Dev.done_pwr : (d.done m st v).pwr = d.pwr := rfl
@[simp] theorem Dev.done_tel : (d.done m st v).tel = d.tel := rfl
@[simp] theorem Dev.done_draws : (d.done m st v).draws = d.draws := rfl
@[simp] theorem Dev.done_out : (d.done m st v).out = d.out := rfl
end doneFields

section emitFields
variable (d : Dev) (o : Out)
@[simp] theorem Dev.emit_regs : (d.emit o).regs = d.regs := rfl
@[simp] theorem Dev.emit_wide : (d.emit o).wide = d.wide := rfl
@[simp] theorem Dev.emit_ctl : (d.emit o).ctl = d.ctl := rfl
@[simp] theorem Dev.emit_time : (d.emit o).time = d.time := rfl
@[simp] theorem Dev.emit_adm : (d.emit o).adm = d.adm := rfl
@[simp] theorem Dev.emit_hold : (d.emit o).hold = d.hold := rfl
@[simp] theorem Dev.emit_buf : (d.emit o).buf = d.buf := rfl
@[simp] theorem Dev.emit_ev : (d.emit o).ev = d.ev := rfl
@[simp] theorem Dev.emit_heat : (d.emit o).heat = d.heat := rfl
@[simp] theorem Dev.emit_parse : (d.emit o).parse = d.parse := rfl
@[simp] theorem Dev.emit_tbl : (d.emit o).tbl = d.tbl := rfl
@[simp] theorem Dev.emit_waiting : (d.emit o).waiting = d.waiting := rfl
@[simp] theorem Dev.emit_egr : (d.emit o).egr = d.egr := rfl
@[simp] theorem Dev.emit_hbm : (d.emit o).hbm = d.hbm := rfl
@[simp] theorem Dev.emit_ports : (d.emit o).ports = d.ports := rfl
@[simp] theorem Dev.emit_ivl : (d.emit o).ivl = d.ivl := rfl
@[simp] theorem Dev.emit_boot : (d.emit o).boot = d.boot := rfl
@[simp] theorem Dev.emit_pwr : (d.emit o).pwr = d.pwr := rfl
@[simp] theorem Dev.emit_tel : (d.emit o).tel = d.tel := rfl
@[simp] theorem Dev.emit_draws : (d.emit o).draws = d.draws := rfl
@[simp] theorem Dev.emit_last : (d.emit o).last = d.last := rfl
end emitFields

section irqFields
variable (d : Dev) (n : Nat) (ms : List Nat)
@[simp] theorem Dev.irq_regs : (d.irq n ms).regs = d.regs := rfl
@[simp] theorem Dev.irq_wide : (d.irq n ms).wide = d.wide := rfl
@[simp] theorem Dev.irq_ctl : (d.irq n ms).ctl = d.ctl := rfl
@[simp] theorem Dev.irq_time : (d.irq n ms).time = d.time := rfl
@[simp] theorem Dev.irq_adm : (d.irq n ms).adm = d.adm := rfl
@[simp] theorem Dev.irq_hold : (d.irq n ms).hold = d.hold := rfl
@[simp] theorem Dev.irq_buf : (d.irq n ms).buf = d.buf := rfl
@[simp] theorem Dev.irq_ev : (d.irq n ms).ev = d.ev := rfl
@[simp] theorem Dev.irq_heat : (d.irq n ms).heat = d.heat := rfl
@[simp] theorem Dev.irq_parse : (d.irq n ms).parse = d.parse := rfl
@[simp] theorem Dev.irq_tbl : (d.irq n ms).tbl = d.tbl := rfl
@[simp] theorem Dev.irq_waiting : (d.irq n ms).waiting = d.waiting := rfl
@[simp] theorem Dev.irq_egr : (d.irq n ms).egr = d.egr := rfl
@[simp] theorem Dev.irq_hbm : (d.irq n ms).hbm = d.hbm := rfl
@[simp] theorem Dev.irq_ports : (d.irq n ms).ports = d.ports := rfl
@[simp] theorem Dev.irq_ivl : (d.irq n ms).ivl = d.ivl := rfl
@[simp] theorem Dev.irq_boot : (d.irq n ms).boot = d.boot := rfl
@[simp] theorem Dev.irq_pwr : (d.irq n ms).pwr = d.pwr := rfl
@[simp] theorem Dev.irq_tel : (d.irq n ms).tel = d.tel := rfl
@[simp] theorem Dev.irq_draws : (d.irq n ms).draws = d.draws := rfl
@[simp] theorem Dev.irq_last : (d.irq n ms).last = d.last := rfl
end irqFields

section freshFields
variable (d : Dev)
@[simp] theorem Dev.fresh_regs : (d.fresh).regs = d.regs := rfl
@[simp] theorem Dev.fresh_wide : (d.fresh).wide = d.wide := rfl
@[simp] theorem Dev.fresh_ctl : (d.fresh).ctl = d.ctl := rfl
@[simp] theorem Dev.fresh_time : (d.fresh).time = d.time := rfl
@[simp] theorem Dev.fresh_adm : (d.fresh).adm = d.adm := rfl
@[simp] theorem Dev.fresh_hold : (d.fresh).hold = d.hold := rfl
@[simp] theorem Dev.fresh_buf : (d.fresh).buf = d.buf := rfl
@[simp] theorem Dev.fresh_ev : (d.fresh).ev = d.ev := rfl
@[simp] theorem Dev.fresh_heat : (d.fresh).heat = d.heat := rfl
@[simp] theorem Dev.fresh_parse : (d.fresh).parse = d.parse := rfl
@[simp] theorem Dev.fresh_tbl : (d.fresh).tbl = d.tbl := rfl
@[simp] theorem Dev.fresh_waiting : (d.fresh).waiting = d.waiting := rfl
@[simp] theorem Dev.fresh_egr : (d.fresh).egr = d.egr := rfl
@[simp] theorem Dev.fresh_hbm : (d.fresh).hbm = d.hbm := rfl
@[simp] theorem Dev.fresh_ports : (d.fresh).ports = d.ports := rfl
@[simp] theorem Dev.fresh_ivl : (d.fresh).ivl = d.ivl := rfl
@[simp] theorem Dev.fresh_boot : (d.fresh).boot = d.boot := rfl
@[simp] theorem Dev.fresh_pwr : (d.fresh).pwr = d.pwr := rfl
@[simp] theorem Dev.fresh_tel : (d.fresh).tel = d.tel := rfl
@[simp] theorem Dev.fresh_draws : (d.fresh).draws = d.draws := rfl
end freshFields

@[simp] theorem Dev.fresh_out (d : Dev) : d.fresh.out = [] := rfl
@[simp] theorem Dev.fresh_last (d : Dev) : d.fresh.last = [] := rfl
@[simp] theorem Dev.emit_out (d : Dev) (o : Out) : (d.emit o).out = d.out ++ [o] := rfl
@[simp] theorem Dev.done_last (d : Dev) (m : Nat) (st : Status) (v : Nat) : (d.done m st v).last = d.last ++ [⟨m, st, v⟩] := rfl
@[simp] theorem State.withDev_dev (s : State) (d : Dev) : (s.withDev d).dev = d := rfl
@[simp] theorem State.withDev_mem (s : State) (d : Dev) : (s.withDev d).mem = s.mem := rfl
@[simp] theorem State.withDev_pending (s : State) (d : Dev) : (s.withDev d).pending = s.pending := rfl
@[simp] theorem State.withBoth_dev (s : State) (m : Mem) (d : Dev) : (s.withBoth m d).dev = d := rfl
@[simp] theorem State.withBoth_mem (s : State) (m : Mem) (d : Dev) : (s.withBoth m d).mem = m := rfl
@[simp] theorem State.withBoth_pending (s : State) (m : Mem) (d : Dev) : (s.withBoth m d).pending = s.pending := rfl

/-! ### Registers read after a write -/

theorem Dev.get_of_regs {d e : Dev} (h : e.regs = d.regs) (r : Reg) (i j k m : Nat) : e.get r i j k m = d.get r i j k m := by
  unfold Dev.get
  rw [h]

theorem Dev.f_of_regs {d e : Dev} (h : e.regs = d.regs) (x : Fld) (i j k m : Nat) : e.f x i j k m = d.f x i j k m := by
  unfold Dev.f
  rw [Dev.get_of_regs h]

theorem Dev.q_of_wide {d e : Dev} (h : e.wide = d.wide) (r : Reg) (i j k m : Nat) : e.q r i j k m = d.q r i j k m := by
  unfold Dev.q
  rw [h]

theorem Dev.get_set (d : Dev) (r : Reg) (v : Word) (i j k m : Nat) (r' : Reg) (i' j' k' m' : Nat) :
    (d.set r v i j k m).get r' i' j' k' m' = if regKey r' i' j' k' m' = regKey r i j k m then v else d.get r' i' j' k' m' := by
  unfold Dev.get Dev.set
  rw [SMap.get_set]

@[simp] theorem Dev.get_set_same (d : Dev) (r : Reg) (v : Word) (i j k m : Nat) : (d.set r v i j k m).get r i j k m = v := by
  rw [Dev.get_set, if_pos rfl]

theorem Dev.get_set_ne (d : Dev) (r : Reg) (v : Word) (i j k m : Nat) (r' : Reg) (i' j' k' m' : Nat)
    (h : regKey r' i' j' k' m' ≠ regKey r i j k m) : (d.set r v i j k m).get r' i' j' k' m' = d.get r' i' j' k' m' := by
  rw [Dev.get_set, if_neg h]

theorem Dev.q_setQ (d : Dev) (r : Reg) (v i j k m : Nat) (r' : Reg) (i' j' k' m' : Nat) :
    (d.setQ r v i j k m).q r' i' j' k' m' = if regKey r' i' j' k' m' = regKey r i j k m then v % 2 ^ 64 else d.q r' i' j' k' m' := by
  unfold Dev.q Dev.setQ
  rw [SMap.get_set]
  split <;> simp

/-! ### Fields read after a write -/

/-- A field lies within its 32-bit register. -/
def Fld.wf (x : Fld) : Bool := decide (x.lo ≤ x.hi) && decide (x.hi < 32)

/-- A number with its digit `v` of base `Q` at place `P` put in. -/
theorem ins_split (w v P Q : Nat) : w - w / P % Q * P + v % Q * P = w % P + P * (v % Q + Q * (w / P / Q)) := by
  have h1 : w = P * (w / P) + w % P := (Nat.div_add_mod w P).symm
  have h2 : w / P = Q * (w / P / Q) + w / P % Q := (Nat.div_add_mod _ _).symm
  have h0 : w = w % P + P * (w / P % Q + Q * (w / P / Q)) := by
    rw [Nat.add_comm (w / P % Q), ← h2, Nat.add_comm, ← h1]
  have h3 : w - w / P % Q * P = w % P + P * (Q * (w / P / Q)) := by
    have h4 : P * (w / P % Q + Q * (w / P / Q)) = w / P % Q * P + P * (Q * (w / P / Q)) := by
      rw [Nat.mul_add, Nat.mul_comm P (w / P % Q)]
    omega
  rw [h3, Nat.mul_add, Nat.mul_comm (v % Q) P]
  omega

theorem Fld.ext_ins (x : Fld) (w v : Nat) : x.ext (x.ins w v) = v % 2 ^ (x.hi - x.lo + 1) := by
  have hp : 0 < 2 ^ x.lo := Nat.two_pow_pos _
  have hq : 0 < 2 ^ (x.hi - x.lo + 1) := Nat.two_pow_pos _
  unfold Fld.ins Fld.ext bits
  generalize 2 ^ x.lo = P at *
  generalize 2 ^ (x.hi - x.lo + 1) = Q at *
  have e := ins_split w v P Q
  rw [e, Nat.add_mul_div_left _ _ hp, Nat.div_eq_of_lt (Nat.mod_lt _ hp), Nat.zero_add, Nat.add_mul_mod_self_left,
    Nat.mod_mod]

theorem Fld.ins_lt (x : Fld) (hx : x.wf = true) (w v : Nat) (hw : w < 2 ^ 32) : x.ins w v < 2 ^ 32 := by
  simp only [Fld.wf, Bool.and_eq_true, decide_eq_true_eq] at hx
  have hp : 0 < 2 ^ x.lo := Nat.two_pow_pos _
  have hq : 0 < 2 ^ (x.hi - x.lo + 1) := Nat.two_pow_pos _
  obtain ⟨t, ht⟩ : ∃ t, 32 = x.lo + (x.hi - x.lo + 1) + t := ⟨32 - (x.lo + (x.hi - x.lo + 1)), by omega⟩
  have hT : (2 : Nat) ^ 32 = 2 ^ x.lo * 2 ^ (x.hi - x.lo + 1) * 2 ^ t := by rw [← Nat.pow_add, ← Nat.pow_add, ← ht]
  unfold Fld.ins Fld.ext bits
  rw [hT] at hw ⊢
  generalize 2 ^ x.lo = P at *
  generalize 2 ^ (x.hi - x.lo + 1) = Q at *
  generalize 2 ^ t = T at *
  have h5 : w / P / Q < T := by
    rw [Nat.div_div_eq_div_mul]
    exact Nat.div_lt_of_lt_mul (by simpa [Nat.mul_assoc] using hw)
  have h6 := Nat.mod_lt w hp
  have h7 := Nat.mod_lt v hq
  have e := ins_split w v P Q
  rw [e]
  have h8 : v % Q + Q * (w / P / Q) + 1 ≤ Q * T := by
    calc v % Q + Q * (w / P / Q) + 1 ≤ Q + Q * (w / P / Q) := by omega
      _ = Q * (w / P / Q + 1) := by rw [Nat.mul_add, Nat.mul_one, Nat.add_comm]
      _ ≤ Q * T := Nat.mul_le_mul_left _ h5
  calc w % P + P * (v % Q + Q * (w / P / Q)) < P + P * (v % Q + Q * (w / P / Q)) := by omega
    _ = P * (v % Q + Q * (w / P / Q) + 1) := by rw [Nat.mul_succ, Nat.add_comm]
    _ ≤ P * (Q * T) := Nat.mul_le_mul_left _ h8
    _ = P * Q * T := (Nat.mul_assoc _ _ _).symm

/-- A field reads back what was put into it, cut to its width. -/
theorem Dev.f_setF_same (d : Dev) (x : Fld) (hx : x.wf = true) (v i j k m : Nat) :
    (d.setF x v i j k m).f x i j k m = v % 2 ^ (x.hi - x.lo + 1) := by
  unfold Dev.f Dev.setF
  rw [Dev.get_set_same, BitVec.toNat_ofNat, Nat.mod_eq_of_lt (Fld.ins_lt x hx _ _ (BitVec.isLt _)), Fld.ext_ins]

/-- A field of another register instance is unchanged. -/
theorem Dev.f_setF_ne (d : Dev) (x y : Fld) (v i j k m i' j' k' m' : Nat)
    (h : regKey y.reg i' j' k' m' ≠ regKey x.reg i j k m) : (d.setF x v i j k m).f y i' j' k' m' = d.f y i' j' k' m' := by
  unfold Dev.f Dev.setF
  rw [Dev.get_set_ne _ _ _ _ _ _ _ _ _ _ _ _ h]

theorem Fld.ext_ins_above (x y : Fld) (h : x.hi < y.lo) (hx : x.lo ≤ x.hi) (w v : Nat) : y.ext (x.ins w v) = y.ext w := by
  have hp : 0 < 2 ^ x.lo := Nat.two_pow_pos _
  have hq : 0 < 2 ^ (x.hi - x.lo + 1) := Nat.two_pow_pos _
  obtain ⟨t, ht⟩ : ∃ t, y.lo = x.lo + (x.hi - x.lo + 1) + t := ⟨y.lo - (x.lo + (x.hi - x.lo + 1)), by omega⟩
  have hT : (2 : Nat) ^ y.lo = 2 ^ x.lo * 2 ^ (x.hi - x.lo + 1) * 2 ^ t := by rw [← Nat.pow_add, ← Nat.pow_add, ← ht]
  unfold Fld.ins Fld.ext bits
  rw [hT]
  generalize 2 ^ x.lo = P at *
  generalize 2 ^ (x.hi - x.lo + 1) = Q at *
  have e := ins_split w v P Q
  rw [e]
  congr 1
  rw [← Nat.div_div_eq_div_mul, ← Nat.div_div_eq_div_mul, Nat.add_mul_div_left _ _ hp, Nat.div_eq_of_lt (Nat.mod_lt _ hp), Nat.zero_add,
    Nat.add_mul_div_left _ _ hq, Nat.div_eq_of_lt (Nat.mod_lt _ hq), Nat.zero_add, ← Nat.div_div_eq_div_mul, ← Nat.div_div_eq_div_mul]

/-- A field above the one that changes in its register is unchanged. -/
theorem Dev.f_setF_above (d : Dev) (x y : Fld) (hx : x.wf = true) (hr : y.reg = x.reg) (h : x.hi < y.lo) (v i j k m : Nat) :
    (d.setF x v i j k m).f y i j k m = d.f y i j k m := by
  have hl : x.lo ≤ x.hi := by
    simp only [Fld.wf, Bool.and_eq_true, decide_eq_true_eq] at hx
    exact hx.1
  unfold Dev.f Dev.setF
  rw [hr, Dev.get_set_same, BitVec.toNat_ofNat, Nat.mod_eq_of_lt (Fld.ins_lt x hx _ _ (BitVec.isLt _)), Fld.ext_ins_above x y h hl]

theorem Fld.ext_ins_below (x y : Fld) (h : y.hi < x.lo) (hy : y.lo ≤ y.hi) (w v : Nat) : y.ext (x.ins w v) = y.ext w := by
  have hp : 0 < 2 ^ y.lo := Nat.two_pow_pos _
  have hq : 0 < 2 ^ (y.hi - y.lo + 1) := Nat.two_pow_pos _
  obtain ⟨t, ht⟩ : ∃ t, x.lo = y.lo + (y.hi - y.lo + 1) + t := ⟨x.lo - (y.lo + (y.hi - y.lo + 1)), by omega⟩
  have hT : (2 : Nat) ^ x.lo = 2 ^ y.lo * 2 ^ (y.hi - y.lo + 1) * 2 ^ t := by rw [← Nat.pow_add, ← Nat.pow_add, ← ht]
  have hle : x.ext w * 2 ^ x.lo ≤ w := by
    unfold Fld.ext bits
    exact Nat.le_trans (Nat.mul_le_mul_right _ (Nat.mod_le _ _)) (Nat.div_mul_le_self _ _)
  unfold Fld.ins
  generalize x.ext w = a at *
  generalize v % 2 ^ (x.hi - x.lo + 1) = b at *
  unfold Fld.ext bits
  rw [hT] at hle ⊢
  generalize 2 ^ y.lo = P at *
  generalize 2 ^ (y.hi - y.lo + 1) = Q at *
  generalize 2 ^ t = T at *
  obtain ⟨c, hc⟩ : ∃ c, w = a * (P * Q * T) + c := ⟨w - a * (P * Q * T), by omega⟩
  have h1 : w - a * (P * Q * T) + b * (P * Q * T) = c + P * (Q * (T * b)) := by
    rw [hc, Nat.add_sub_cancel_left, show b * (P * Q * T) = P * (Q * (T * b)) by
      rw [Nat.mul_comm b, Nat.mul_assoc P, Nat.mul_assoc P, Nat.mul_assoc Q]]
  have h2 : w = c + P * (Q * (T * a)) := by
    rw [hc, Nat.add_comm, show a * (P * Q * T) = P * (Q * (T * a)) by
      rw [Nat.mul_comm a, Nat.mul_assoc P, Nat.mul_assoc P, Nat.mul_assoc Q]]
  rw [h1, Nat.add_mul_div_left _ _ hp, Nat.add_mul_mod_self_left]
  have h3 : w / P % Q = (c + P * (Q * (T * a))) / P % Q := by rw [← h2]
  rw [h3, Nat.add_mul_div_left _ _ hp, Nat.add_mul_mod_self_left]

/-- A field below the one that changes in its register is unchanged. -/
theorem Dev.f_setF_below (d : Dev) (x y : Fld) (hx : x.wf = true) (hy : y.lo ≤ y.hi) (hr : y.reg = x.reg) (h : y.hi < x.lo)
    (v i j k m : Nat) : (d.setF x v i j k m).f y i j k m = d.f y i j k m := by
  unfold Dev.f Dev.setF
  rw [hr, Dev.get_set_same, BitVec.toNat_ofNat, Nat.mod_eq_of_lt (Fld.ins_lt x hx _ _ (BitVec.isLt _)), Fld.ext_ins_below x y h hy]

end Sys2Proof.Machine
end

