-- ==== Sys2Proof/WellFormed.lean ====
section
/-! DEFINITION. Well-formed commands: every number that names a part of the device names one that exists (R16, R19, R26).
A meaning does not assume it; a command outside these ranges is one that no sender can form. -/

namespace Sys2Proof

/-- Is every master, port, pipe, queue, stack, bank, channel or unit a command names one the device has? -/
def Instr.wf (i : Instr) : Bool :=
  match i with
  | .registerWrite ws => ws.all fun w => decide (w.m < 64)
  | .rcRead m _ _ => decide (m < 64)
  | .lowWordRead m _ => decide (m < 64)
  | .lowWordWrite m _ _ => decide (m < 64)
  | .highWordWrite m _ _ => decide (m < 64)
  | .frameReceive f => decide (f.port < 1028) && decide (f.draw < 2 ^ 24) && f.stages.all fun x => decide (1 ≤ x.1) && decide (x.1 ≤ 11)
  | .pfcFrameReceive e _ _ => decide (e < 1024)
  | .pauseRx e => decide (e < 1024)
  | .pauseExpiry e k => decide (e < 1024) && decide (k < 4)
  | .hbmLookupReturn _ bad => decide (bad < 16)
  | .hbmLookupShed _ => true
  | .alignRelease p => decide (p < 16)
  | .bufferWrite _ _ => true
  | .enqueueOverflowLink q => decide (q < 8256)
  | .mergeFifoEntry _ => true
  | .launchEligible _ => true
  | .launch _ => true
  | .bankRead bank _ ecc => decide (bank < 64) && decide (ecc < 3)
  | .queueSelect q _ => decide (q < 8256)
  | .transmitStart e => decide (e < 1028)
  | .preemptFrame e => decide (e < 1028)
  | .copyDeparture _ => true
  | .pfcRefresh i k => decide (i < 1024) && decide (k < 4)
  | .badTail _ => true
  | .frameNotAccepted _ => true
  | .discardWalk p => decide (p < 16)
  | .linkHoldExpiry e => decide (e < 1024)
  | .admPipeDerateWrite m p _ => decide (m < 64) && decide (p < 16)
  | .bufAllocReq m _ _ => decide (m < 64)
  | .bufAllocResp m => decide (m < 64)
  | .bufFree m _ => decide (m < 64)
  | .spillPageWrite q _ => decide (q < 8256)
  | .spillRefill q _ _ => decide (q < 8256)
  | .timeRateWrite m _ _ => decide (m < 64)
  | .timeSlewWrite m _ => decide (m < 64)
  | .timeSlewRateWrite m _ => decide (m < 64)
  | .timeNowNsRead m => decide (m < 64)
  | .timeStepGo m _ => decide (m < 64)
  | .newEpoch m _ _ => decide (m < 64)
  | .stepTick _ => true
  | .stateReqLocked m _ => decide (m < 64)
  | .stateReqHoldover m _ => decide (m < 64)
  | .timeErrBaseWrite m _ => decide (m < 64)
  | .residenceEntryTimeout p => decide (p < 16)
  | .timeTxqPop m p => decide (m < 64) && decide (p < 16)
  | .txqEntryAged p => decide (p < 16)
  | .txqFlush m p _ => decide (m < 64) && decide (p < 16)
  | .pinArm m n _ => decide (m < 64) && decide (n < 8)
  | .pinFire n => decide (n < 8)
  | .ppsEdge n => decide (n < 8)
  | .pinCapture n _ => decide (n < 8)
  | .pinCapPop m n => decide (m < 64) && decide (n < 8)
  | .alarmEnable m a _ => decide (m < 64) && decide (a < 16)
  | .alarmRelease m a _ => decide (m < 64) && decide (a < 16)
  | .alarmFire a => decide (a < 16)
  | .sessRead m => decide (m < 64)
  | .sessWrite m => decide (m < 64)
  | .sessClear m => decide (m < 64)
  | .recordsSend x => decide (x.k < 64)
  | .ack _ => true
  | .resend _ => true
  | .sealClose _ => true
  | .sealFrameSend x => decide (x.k < 64)
  | .evEnable m _ => decide (m < 64)
  | .evDisable m _ => decide (m < 64)
  | .measurementChange _ => true
  | .attestGo m _ => decide (m < 64)
  | .patchGo m p _ => decide (m < 64) && decide (p < 16)
  | .patchSwitch p => decide (p < 16)
  | .heatOpen m => decide (m < 64)
  | .commitNow m => decide (m < 64)
  | .commitAt m => decide (m < 64)
  | .heatAbort m => decide (m < 64)
  | .sweeperVisit t _ _ => decide (t < 2)
  | .tblAdd m _ => decide (m < 64)
  | .tblDelete m _ => decide (m < 64)
  | .tblReplace m _ => decide (m < 64)
  | .tblRead m _ => decide (m < 64)
  | .tblSearch m _ => decide (m < 64)
  | .flushPort m _ => decide (m < 64)
  | .tblDmaGo m _ => decide (m < 64)
  | .corruptEntry t _ _ _ _ => decide (t < 7)
  | .lpmRebuildDone _ => true
  | .tcamScrub p _ _ => decide (p < 16)
  | .tblNoticePop m => decide (m < 64)
  | .tblErrPop m => decide (m < 64)
  | .pacerWrite m _ _ => decide (m < 64)
  | .meterWrite m _ _ => decide (m < 64)
  | .hbmCommandSlot pc _ => decide (pc < 256)
  | .selfRefreshEntry stk => decide (stk < 8)
  | .selfRefreshExit stk => decide (stk < 8)
  | .neighbourRefresh stk _ => decide (stk < 8)
  | .scrubPass _ _ => true
  | .hbmErrPop m => decide (m < 64)
  | .portEnable m e _ => decide (m < 64) && decide (e < 1024)
  | .portDisable m e _ => decide (m < 64) && decide (e < 1024)
  | .anComplete e => decide (e < 1024)
  | .noCommon e => decide (e < 1024)
  | .trainingComplete e _ _ => decide (e < 1024)
  | .trainTimeout e => decide (e < 1024)
  | .laneLockComplete e _ => decide (e < 1024)
  | .lockTimeout e => decide (e < 1024)
  | .alignComplete e _ _ _ => decide (e < 1024)
  | .alignTimeout e => decide (e < 1024)
  | .debounceExpiry e => decide (e < 1024)
  | .faultReceived e _ _ => decide (e < 1024)
  | .faultCleared e => decide (e < 1024)
  | .linkDown e _ => decide (e < 1024)
  | .fecDegradeWindow e _ _ _ => decide (e < 1024)
  | .verifyStart e => decide (e < 1024)
  | .verifyResponse e => decide (e < 1024)
  | .verifyTimeout e => decide (e < 1024)
  | .verifyReceived e => decide (e < 1024)
  | .lldpTlvReceived e _ _ => decide (e < 1024)
  | .lpiEntry e => decide (e < 1024)
  | .lpiWake e => decide (e < 1024)
  | .scanGo m lane _ => decide (m < 64) && decide (lane < 1024)
  | .scanStop m lane _ _ _ => decide (m < 64) && decide (lane < 1024)
  | .scanDone lane _ => decide (lane < 1024)
  | .scanAborted lane _ _ => decide (lane < 1024)
  | .ivlSymbolLock k => decide (k < 4)
  | .ivlLockTimeout k => decide (k < 4)
  | .ivlTrainingComplete k _ _ _ => decide (k < 4)
  | .ivlTrainTimeout k => decide (k < 4)
  | .ivlLinkDown k => decide (k < 4)
  | .ivlSleep k => decide (k < 4)
  | .ivlWake k => decide (k < 4)
  | .wakeTimeout k => decide (k < 4)
  | .ivlMessageReceive k _ _ => decide (k < 4)
  | .ivlEthReceive e _ _ => decide (e < 1024)
  | .versionSend k => decide (k < 4)
  | .version k _ => decide (k < 4)
  | .ttReqSend k => decide (k < 4)
  | .ttReq k _ _ _ => decide (k < 4)
  | .ttResp k _ _ => decide (k < 4)
  | .ttTimeout k => decide (k < 4)
  | .ivlTtPop m k => decide (m < 64) && decide (k < 4)
  | .ivlRegRead k _ => decide (k < 4)
  | .ivlRegWrite k _ => decide (k < 4)
  | .nak k _ => decide (k < 4)
  | .echo k _ => decide (k < 4)
  | .echoReply k _ => decide (k < 4)
  | .envDerate _ _ _ => true
  | .envLift _ _ _ => true
  | .ivlEnvPop m => decide (m < 64)
  | .ctlThaw m _ => decide (m < 64)
  | .ctlMasterReset m _ => decide (m < 64)
  | .ctlVlogPop m => decide (m < 64)
  | .batonRead n _ rs => decide (n < 256) && rs.all fun m => decide (m < 64)
  | .batonRelease m n _ => decide (m < 64) && decide (n < 256)
  | .batonPeek m n => decide (m < 64) && decide (n < 256)
  | .mbDataWrite m c i _ => decide (m < 64) && decide (c < 64) && decide (i < 8)
  | .mbDoorbell m c _ _ => decide (m < 64) && decide (c < 64)
  | .mbDataRead m c i => decide (m < 64) && decide (c < 64) && decide (i < 8)
  | .spdOwnerWrite m b _ => decide (m < 64) && decide (b < 32)
  | .scratchpadAccess m _ _ _ => decide (m < 64)
  | .pstateWrite m b _ => decide (m < 64) && decide (b < 32)
  | .bankWakeDone b => decide (b < 32)
  | .lend m b _ => decide (m < 64) && decide (b < 32)
  | .reclaim m b _ => decide (m < 64) && decide (b < 32)
  | .bistPassDone b _ => decide (b < 32)
  | .ctlFwGo m _ => decide (m < 64)
  | .runningAck m => decide (m < 64)
  | .fwConfirm m => decide (m < 64)
  | .cpRestart m _ => decide (m < 64)
  | .ctlLockSet m _ => decide (m < 64)
  | .coldStart _ => true
  | .idReset m _ => decide (m < 64)
  | .fuseLoadDone _ => true
  | .firmwareVerifyDone _ => true
  | .imageLoadDone _ _ => true
  | .holdRelease m _ => decide (m < 64)
  | .enterService _ => true
  | .spiGo m _ => decide (m < 64)
  | .spiDone _ _ => true
  | .vinSample _ => true
  | .pwrDomCmd m dom _ => decide (m < 64) && decide (dom < 96)
  | .domainTransitionDone dom => decide (dom < 96)
  | .capEvaluation _ _ _ => true
  | .stepDown p => decide (p < 16)
  | .stepUp p => decide (p < 16)
  | .droopEnd _ => true
  | .thermalSample _ => true
  | .energyUpdate _ _ _ _ _ => true
  | .hintPush m _ => decide (m < 64)
  | .hintFlush m _ => decide (m < 64)
  | .pwrEvtPop m => decide (m < 64)
  | .refclkLost _ _ => true
  | .telCtrlWrite m _ _ => decide (m < 64)
  | .telRingRelposWrite m _ _ => decide (m < 64)
  | .telRingRdData m => decide (m < 64)
  | .telHistCfgWrite m n _ => decide (m < 64) && decide (n < 4128)
  | .telSnap m _ => decide (m < 64)
  | .telPcClear m _ => decide (m < 64)
  | .telPcRead m k => decide (m < 64) && decide (k < 1024)
  | .telDescSel m _ => decide (m < 64)
  | .smbusWrite cmd _ _ _ _ => decide (cmd < 256)
  | .smbusRead cmd _ => decide (cmd < 256)
  | .jtagInstruction opcode => decide (opcode < 256)
  | .registerRead m _ _ => decide (m < 64)
  | .timeTick _ => true
  | .lpiRxEntry e => decide (e < 1024)
  | .lpiRxExit e => decide (e < 1024)
  | .ivlRxSleep k => decide (k < 4)
  | .ivlRxWake k => decide (k < 4)
  | .skipSetReceive k _ => decide (k < 4)
  | .hurdleBatch => true
  | .mergeRelease => true
  | .readMatching => true
  | .ageingPass => true
  | .timedHeadCheck => true
  | .noticeSend => true
  | .recentClearPass => true
  | .reclaimPass => true
  | .slewComplete => true
  | .stepMarkClear => true
  | .wdog => true
  | .errBoundUpdate => true
  | .recordNumbering => true
  | .attestDone => true
  | .abortCleanupDone => true
  | .heatCommit => true
  | .heatRetire => true
  | .heatCleanupDone => true
  | .heatPromotion => true
  | .learnCommit => true
  | .unpin => true
  | .trackerExpiry => true
  | .tblDmaInstall => true
  | .tblTimeout => true
  | .hbmZeroFillDone => true
  | .envelopeNoticeSend => true
  | .fwVerifyDone => true
  | .runningAckTimeout => true
  | .confirmTimeout => true
  | .deviceReset => true
  | .pcieReset => true
  | .pllLock => true
  | .powerUpDone => true
  | .timeAcquired => true
  | .timeTimeout => true
  | .holdExpiry => true
  | .wakeSlot => true
  | .droopStretch => true
  | .throttle => true
  | .hintStart => true
  | .hintEnd => true
  | .undervoltageLockout => true
  | .trefLost => true
  | .trefReturn => true
  | .pwrgdLow => true
  | .tblDmaDone => true

end Sys2Proof
end

