-- ==== Sys2Proof/Tests/Slice0.lean ====
section
/-! SUPPORT. The model's own tests: well-formedness, small facts of single commands worked out from the manual, and for every
statement of Obligations.lean a state and operands that meet the hypotheses of each of its clauses. -/

set_option Elab.async false

namespace Sys2Proof.Tests

open Sys2Proof Sys2Proof.Machine

/-! ### Small states -/

/-- A device changed from the reset device, at a start-up stage. -/
def stage (n : Nat) (f : Dev → Dev) : State := { State.reset with dev := f (Dev.reset.setF F.ID_STATUS_STAGE n) }

/-- A device in service. -/
def svc (f : Dev → Dev) : State := stage 6 f

/-- A frame of 60 bytes from port 3, and a copy of it. -/
def fr : Frame :=
  { id := 5, ingress := 3, bytes := List.replicate 64 0xA5, len := 64, rxLen := 64, stamp8 := 800, edge8 := 800, edgeDev := 0, edgeHold := false, tagged := false,
    heat := 0, ann := 0, session := none, seq := 0, partition := 0, cls := 0, meterDscp := none, rewrite := none, egress := [],
    trace := none, ptp := none, inj := none, ivl := none, trapHdr := [], cfg := .zero, born := 5 }

/-- That frame as it arrives. -/
def fin : FrameIn := ⟨3, List.replicate 64 0xA5, 64, 0, ⟨600, []⟩, [], none, false, 0, none, [], []⟩

/-- A copy of that frame for a port in a class, under identifier 7. -/
def cp (e cls : Nat) : Copy := { (Dev.reset.newCopy fr e cls .unicast).2 with id := 7 }

/-- The device with one copy. -/
def hold1 (d : Dev) (c : Copy) : Dev := { d with buf := { d.buf with copies := [(c.id, c)], nextCopy := 8, nextFrame := 6 } }

/-- A front-panel port configured in mode 11 (1.6 Tb/s) and enabled. -/
def portUp (d : Dev) (e : Nat) : Dev := ((d.setF F.PORT_CFG_MODE 11 e).setF F.PORT_CFG_EN 1 e).setF F.PORT_STATUS_LINK_UP 1 e

/-- Ivgon port `k` enabled, at a stage, with version 1 agreed. -/
def ivlUp (d : Dev) (k st : Nat) : Dev :=
  ((((d.setF F.IVL_CTRL_EN 1).setF F.IVL_PORT_CFG_EN 1 k).setF F.IVL_PORT_STATUS_STAGE st k).setF F.IVL_PORT_STATUS_VERSION 1 k).setF
    F.IVL_DEVNUM_DEVNUM 9

/-- The device at a tick of the time clock and a device time in seconds. -/
def atTime (d : Dev) (sec ticks : Nat) : Dev := { d with time := { d.time with sec := sec, ticks := ticks } }

/-! ### Checks of the accesses -/

def reachesB (s : State) (m : Nat) (w : Option Nat) (r : Reg) (i j : Nat) : Bool :=
  r.has i j && issues m && !s.dev.turnedAway m &&
  s.dev.bootAllows m w.isSome (if isHostFn m then 0x0C000000 else unalias (offsetFor m (r.off i j))) &&
  s.dev.within m w (offsetFor m (r.off i j)) && decide (offsetFor m (r.off i j) % 4 = 0) &&
  !inSpd (unalias (offsetFor m (r.off i j))) && decide (lookupReg (unalias (offsetFor m (r.off i j))) = some (hitOf r i j))

theorem reaches_of {s : State} {m : Nat} {w : Option Nat} {r : Reg} {i j : Nat} (h : reachesB s m w r i j = true) : Reaches s m w r i j := by
  simp only [reachesB, Bool.and_eq_true, decide_eq_true_eq, Bool.not_eq_true'] at h
  obtain ⟨⟨⟨⟨⟨⟨⟨a, b⟩, c⟩, d⟩, e⟩, f⟩, g⟩, k⟩ := h
  exact ⟨a, b, c, d, e, f, g, k⟩

def writesB (s : State) (m : Nat) (r : Reg) (i j v : Nat) : Bool :=
  reachesB s m (some v) r i j && decide (v < 2 ^ 32) && !r.row.wide && !s.dev.boot.applying &&
  !s.dev.fieldForbidden m (hitOf r i j) (s.dev.newWord (hitOf r i j) m v ||| (v &&& r.row.wo)) &&
  !s.dev.conflicts (s.dev.putWord r i j m v) (hitOf r i j) m v

theorem writes_of {s : State} {m : Nat} {r : Reg} {i j v : Nat} (h : writesB s m r i j v = true) : Writes s m r i j v := by
  simp only [writesB, Bool.and_eq_true, decide_eq_true_eq, Bool.not_eq_true'] at h
  obtain ⟨⟨⟨⟨⟨a, b⟩, c⟩, d⟩, e⟩, f⟩ := h
  exact { reaches_of a with fits := b, narrow := c, running := d, permitted := e, accepted := f }

def reachesWideB (s : State) (m : Nat) (w : Option Nat) (off : Nat) (r : Reg) (i : Nat) (high : Bool) : Bool :=
  issues m && !s.dev.turnedAway m && s.dev.bootAllows m w.isSome (if isHostFn m then 0x0C000000 else unalias off) &&
  s.dev.within m w off && decide (off % 4 = 0) && !inSpd (unalias off) && decide (lookupReg (unalias off) = some ⟨r, i, 0, 0, high⟩) &&
  r.row.wide

theorem reachesWide_of {s : State} {m : Nat} {w : Option Nat} {off : Nat} {r : Reg} {i : Nat} {high : Bool}
    (h : reachesWideB s m w off r i high = true) : ReachesWide s m w off r i high := by
  simp only [reachesWideB, Bool.and_eq_true, decide_eq_true_eq, Bool.not_eq_true'] at h
  obtain ⟨⟨⟨⟨⟨⟨⟨a, b⟩, c⟩, d⟩, e⟩, f⟩, g⟩, k⟩ := h
  exact ⟨a, b, c, d, e, f, g, k⟩


def mb (d : Dev) : Dev := ((d.setF F.MB_BIND_EN 1 15).setF F.MB_BIND_A 0 15).setF F.MB_BIND_B 0x13 15

def spd (st : Nat) (d : Dev) : Dev := (d.setF F.SPD_BANK_CFG_OWNER 0 31).setF F.SPD_BANK_CFG_PSTATE st 31

/-- Fuses whose certificate holds the key of their secret. -/
def certified (f : FuseIn) : FuseIn := { f with certKeyX := (p256Public (identityScalar f.secret)).1, certKeyY := (p256Public (identityScalar f.secret)).2 }

def fuses : FuseIn := ⟨true, 7, List.replicate 32 3, List.replicate 32 0, 0, 0, List.replicate 32 0, 0, 0, [], [], [], 0, 0, [], [], []⟩

/-- Front-panel port 1023 enabled in a mode of one lane, at a bring-up stage. -/
def portAt (d : Dev) (st : Nat) : Dev := ((d.setF F.PORT_CFG_MODE 1 1023).setF F.PORT_CFG_EN 1 1023).setF F.PORT_STATUS_STAGE st 1023

/-- An Ivgon message for device 9 from device 5. -/
def im (cls typ dst : Nat) (body : List Byte) : IvlMsg := ⟨1, cls, typ, 1, dst, 5, 77, body⟩

/-- A route to every device through Ivgon port 3. -/
def ivlRoutes (d : Dev) : Dev := ((d.setF F.IVL_ROUTE_LO_EN 1 63).setF F.IVL_ROUTE_HI_HIGH 0x3FFFF 63).setF F.IVL_ROUTE_HI_PORT 3 63

/-- An Ivgon port 3 up, with routes, master enabled. -/
def ivlFull (d : Dev) : Dev := ((ivlRoutes (ivlUp d 3 5)).setF F.IVL_PORT_CFG_MASTER_EN 1 3).setF F.IVL_PORT_STATUS_VERSION 2 3

/-- The bytes of a NAK for device 9. -/
def nakBytes : List Byte := ivlBytes (im 2 4 9 (List.replicate 12 0))

/-- Receipt stream 63 enabled, in class 7 of port 1023, over a ring of 1 MiB with five records. -/
def strUp (d : Dev) : Dev :=
  ((((d.setF F.EV_STR_CFG_EN 1 63).setF F.EV_STR_CFG_CLASS 7 63).setF F.EV_STR_CFG_PORT 1023 63).setF F.EV_PART_CFG_RING_MIB 1 63).setQ
    .EV_PART_WRPOS 5 63

/-- A closed record whose journal entry, number 9, is known bad. -/
def closed : Closed := ⟨5, List.replicate 56 1, 3, 5, some 9, some 2⟩

def entryWords : List Nat := [(journalBase + 32 * 9) / 8]

/-- An interval of 1 ms that began at time 0. -/
def ival : Interval := ⟨0, 0, true, 1000, 0, [], [], [], false, false, false, false, false, 0, false, 0, 0⟩

def evRun (d : Dev) : Dev := { d with ev := { d.ev with interval := some ival } }

/-- Staging Heat 1, with index 65535 in the command registers of H0. -/
def staged (d : Dev) : Dev := ((d.setF F.ID_HEAT_STATE_STAGING 1).setF F.ID_HEAT_STATE_STAGED 1).setF F.TBL_CMD_INDEX_INDEX 65535

/-- The bucket of the all-zero HBM key, and an entry with it. -/
def hbmBucket : Nat := Dev.reset.bucketOf 6 (entryKey 6 0)

def hbmState : State := { svc staged with mem := (⟨[], []⟩ : Mem).hbmWrite (tableBase + 4 * hbmBucket * 64) [(7, 0x80)] }

/-- A learned L2 entry of port 1023 with the all-zero key. -/
def l2Entry (hitStale : Nat) : Nat := withCtl 128 (1023 * 2 ^ 101) (2 ^ 14 + 2 ^ 13 + hitStale)

/-- The device with that entry in its slot. -/
def l2Dev (hitStale : Nat) (d : Dev) : Dev := { d with tbl := { d.tbl with em := [(4 * Dev.reset.bucketOf 0 (entryKey 0 0), l2Entry hitStale)] } }

/-- A learn event of the all-zero key. -/
def learn : LearnEv := ⟨List.replicate 9 0, 1023, 0, 0, 0⟩

/-- A valid ACL entry. -/
def tcamEntry : TcamEnt := (⟨1, 1, 0⟩ : TcamEnt).withCtl (2 ^ 14)

/-- HBM in service. -/
def hbmOn (d : Dev) : Dev := d.setF F.HBM_CTRL_EN 1

/-- Two frames of one pipe that wait for their HBM lookups. -/
def wait (i : Nat) : Waiting := ⟨{ fr with id := i }, fin, 0, Acts.none_, .empty, false, [], none, false⟩

/-- Port 1023 up at 10 Gb/s at device time 2 s. -/
def up (d : Dev) : Dev := { portUp { d with time := { d.time with sec := 2, ticks := 1600000000 } } 1023 with ev := d.ev }

/-- A copy for port 1023 in a class at a stage. -/
def cq (cls : Nat) (st : Stage) : Copy := { cp 1023 cls with stage := st }

/-- Port 1023 up with one copy, its class with a bound and a reservation. -/
def adm (b : Nat) (d : Dev) : Dev :=
  (((hold1 (up d) (cq 0 .hurdle)).setF F.ADM_BOUND_BOUND_NS b 4092).setF F.ADM_RSV_RATE_RATE 1000 4092).setF F.ADM_RSV_BURST_BURST 100000 4092

/-- A frame for port 1023 whose parse enters patch RAM, and port 1023 whose pipe holds a microword there that ends the parse. -/
def fin1 : FrameIn := { fin with port := 1023, parse := ⟨0x4000, []⟩ }

def parsing (d : Dev) : Dev :=
  let d := ((up d).setF F.PIPE_PORT_DEFAULT_ON_NOMATCH 1 15 63).setF F.PIPE_PORT_DEFAULT_DEFAULT_PORT 1023 15 63
  { d with parse := { d.parse with patch := [(15 * 1024, 2 ^ 191)] } }

/-- A best-effort copy in the spill segment of its queue, whose tail cell is open. -/
def cspill : Copy := { cq 7 .spilled with frame := { fr with stamp8 := 15999999000 } }

def spillDev (d : Dev) : Dev :=
  let d := hold1 (up d) cspill
  { d with buf := { d.buf with tails := [(8191, ⟨5, 11⟩)], spill := [(8191, ⟨[⟨3, [7], 0⟩], [], [], 3584⟩)] } }

/-- A copy that waits in the enqueue buffer behind one of its cell time decided after it. -/
def cwait : Copy := { cq 3 .overflow with order := 1 }

def cafter : Copy := { cq 3 .queued with id := 8, order := 2 }

/-- Port 1023 up with one copy in its queue or lane. -/
def inQueue (c : Copy) (d : Dev) : Dev := let d := hold1 (up d) c; { d with buf := { d.buf with queues := [(queueOf 1023 c.served, [7])] } }

def inLane (c : Copy) (d : Dev) : Dev := let d := inQueue c d; { d with egr := { d.egr with lanes := [(queueOf 1023 c.served, [7])] } }

/-- A release-group copy in the calendar. -/
def rel : Copy := { cq 0 .calendar with kind := .release 5, bound := 16777215, frame := { fr with stamp8 := 15999999000 }, eligible := true, selected := true }

/-- A selected timed copy, and a selected best-effort copy on the line. -/
def tsel : Copy := { cq 0 .lane with selected := true, bound := 16777215, frame := { fr with stamp8 := 15999999000 } }

def bline : Copy := { cq 4 .line with selected := true, started := true, startCell := 9, fragAt := 15999999996, wire := 1000 }

/-- A best-effort copy on the line, preemption active, and a timed copy that is ready. -/
def preDev (d : Dev) : Dev :=
  let d := (hold1 (up d) bline).setF F.PORT_PREEMPT_STAT_STATE 3 1023
  let b := { d.buf with copies := [(7, bline), (8, { tsel with id := 8 })] }
  { d with buf := b, egr := { d.egr with onLine := [(1023, 7)], lanes := [(8184, [8])] } }

/-- Port 1023 down, with one best-effort copy in its queue and its hold running. -/
def heldDev : Dev :=
  let d := (inQueue (cq 7 .queued) (Dev.reset.setF F.ID_STATUS_STAGE 6)).setF F.PORT_STATUS_LINK_UP 0 1023
  { d with buf := { d.buf with hold := [(1023, 0)] } }

/-- A notice for port 1023, from session 16367. -/
def note : Notice := ⟨1023, 16367, [4092], List.replicate 110 1⟩

/-- Frame 5 of port 1023 is still arriving, or its copy has begun to leave. -/
def arriving (started : Bool) (d : Dev) : Dev := { d with buf := { d.buf with rx := [(5, ⟨1023, started⟩)] } }

/-- A firmware container of one word: its signature is (e, e) with e the hash of its first 20 bytes, and its key is lift(e) - G. -/
def fwE : Nat := 0x8a476be2b01856b7bd189b8beaf6d980bd6bfc54459ca42e0d507ecef59335be

def fwMsg : List Byte := be 4 0x4B584657 ++ be 2 3 ++ be 2 0 ++ be 4 4 ++ be 4 0 ++ be 4 4

def fwImg : List Byte := fwMsg ++ be 32 fwE ++ be 32 fwE

def fwSlot : FwSlot := ⟨3, 0, be 4 4, sha256 (be 4 4)⟩

def fwQ : Nat × Nat := (0x5d4dd8b980cba16c55a30781dc564f586b977693cbd6232425a52341265557be,
  0x3911997943c5ac4076460684316e1ad20b0acf2a668c717a862794e911e8dd8e)

def fwFuses (d : Dev) : Dev := { d with boot := { d.boot with fuses := some { fuses with
  codeKeyX := fwQ.1, codeKeyY := fwQ.2, codeDigest := keyDigest fwQ.1 fwQ.2 } } }

/-- A flash directory with that container in slot A. -/
def dirA : List Byte := be 4 0x4B584644 ++ be 8 0 ++ be 4 84 ++ be 44 0 ++ be 4 0xFBC58CE0

/-- An empty flash directory. -/
def dir0 : List Byte := be 4 0x4B584644 ++ be 56 0 ++ be 4 (crc32 (be 4 0x4B584644 ++ be 56 0))

/-- An image of one empty graph section for pipe 15, with the chain of its signing key under a root of the device's own. -/
def imMsg : List Byte := be 32 0x4b5843470001000500000000000000b000b00007000001240001000002580000 ++
  be 32 0x00000034000000f00003000000000034000000003081ed308194a00302010202 ++
  be 32 0x0101300a06082a8648ce3d0403023000300030003059301306072a8648ce3d02 ++
  be 32 0x0106082a8648ce3d0301070342000410a490523955cbc2c2d3452458fcdf97c4 ++
  be 32 0x733469f187905f5cb67347f4244eb8725142ef53dc5f96cd9b28a7cdb01259e2 ++
  be 32 0x1aad08c2c137fe1689d6315d37a37fa31d301b300e0603551d0f0101ff040403 ++
  be 32 0x02078030090603551d1304023000300a06082a8648ce3d040302034800304502 ++
  be 32 0x2100a5ad1804419cfc2c516e87406794686b4ddb614b7edd800b927e3356cae8 ++
  be 32 0xc3000220015239072340b8bbed9c8dcff265f898d28713e6ef7f7d8eb5ce3c6b ++
  be 4 0x1c1115ff

def imSig : List Byte := be 32 0xd819576ef7849327717b2e7b1f47f4f2d57814e56a8bae29bf2e89759ac41ef1 ++
  be 32 0x06f22edf004642311b589a4eef23b5104d006f21b8eec1fc71bbb045c96c4c2c

def rootKey : Nat × Nat := (0x88bb9ff22ab291a74c86fc677ba897baadee370cc6129b82d170ba3fc26415c,
  0x442da9a716067956d91eaa02b93ad409490e87cd5e758ea6a331a1deb75ba846)

def image : ImageIn := ⟨1, true, imMsg ++ imSig, [⟨15, [], [], [], []⟩]⟩

def rooted (d : Dev) : Dev :=
  let root := spkiHead ++ be 32 rootKey.1 ++ be 32 rootKey.2
  { d.setBytes .EV_ROOT_DIGEST 8 (sha256 root) with
    boot := { d.boot with fuses := some { fuses with rootSpki := root }, images := [(0, 0), (0, 356)] } }

/-- A patch container of one word for pipe 15, signed as the firmware container is. -/
def ptE : Nat := 0x71586c456b78bfd6a541217d41c38b296ed66952ca95e33afd0972ebac47e9d8

def ptMsg : List Byte := be 4 0x4B585054 ++ be 4 0xB00007 ++ be 2 0 ++ be 2 0x8000 ++ be 2 1 ++ be 2 0 ++ be 24 0

def ptImg : List Byte := ptMsg ++ be 32 ptE ++ be 32 ptE

def ptQ : Nat × Nat := (0x1700f497e27efc5e96e35b6e940a234a9a1bccb289dd4ad7514ab84b840cf3ca,
  0x2b87b6fdf5c0687aa37ab28f1b4b641c705b6c691d32e3310760a692a450520)

def ptFuses (d : Dev) : Dev := { d with boot := { d.boot with fuses := some { fuses with
  codeKeyX := ptQ.1, codeKeyY := ptQ.2, codeDigest := keyDigest ptQ.1 ptQ.2 } } }

/-- A state whose scratchpad begins with a byte string. -/
def spdWith (bs : List Byte) (s : State) : State := { s with mem := ⟨[], (bs.zipIdx.map fun x => (x.2, x.1)).filter (·.2 != 0)⟩ }

def fwState : State := spdWith fwImg (svc fun d => (((fwFuses d).setF F.CTL_FW_STATUS_STATE 1).setF F.ID_STATUS_CP_SLOT 0xA).setF F.SPD_BANK_CFG_OWNER 0 0)

def flashA : FlashIn := ⟨[], dirA, fwImg, []⟩

def ptState : State := spdWith ptImg (svc fun d => (ptFuses d).setF F.SPD_BANK_CFG_OWNER 0 0)

theorem certified_key (f : FuseIn) :
    p256Public (identityScalar (certified f).secret) = ((certified f).certKeyX, (certified f).certKeyY) := rfl

theorem fw_check : fwState.dev.fwCheck fwState.mem = .inr fwSlot := by decide +kernel

theorem fw_slot : ((stage 2 fwFuses).dev.slotOf (beAt dirA 12 4) flashA.fwA).isSome = true := by decide +kernel

theorem im_good : (stage 3 rooted).dev.imageBad image = none := by decide +kernel

/-- GO of pipe 15 on the device of `ptState`. -/
def ptGo : Dev := ptState.dev.fresh.putWord .PIPE_PATCH_CTRL 15 0 0 (setBit 0 31)

theorem pt_check : ptGo.patchCheck ptState.mem 0 15 = none := by decide +kernel

theorem held_copy {i : Nat} {y : Copy} (h : heldDev.copy? i = some y) : i = 7 ∧ y = cq 7 .queued := by
  have c : heldDev.buf.copies = [(7, cq 7 .queued)] := by decide +kernel
  simp only [Dev.copy?, c, SMap.find?] at h
  split at h
  · rename_i e
    exact ⟨by simpa using e.symm, by simpa using h.symm⟩
  · cases h

theorem oneCopy (i : Nat) (y : Copy) (h : heldDev.copy? i = some y) : y.id = i := by
  obtain ⟨rfl, rfl⟩ := held_copy h
  rfl

theorem oneQueue (k i : Nat) (hk : k < 4) (h : i ∈ heldDev.queue (8 * 1023 + 4 + k)) :
    ∃ y, heldDev.copy? i = some y ∧ queueOf y.egress y.served = 8 * 1023 + 4 + k := by
  have k3 : k = 3 ∧ i = 7 := by
    have : k = 0 ∨ k = 1 ∨ k = 2 ∨ k = 3 := by omega
    rcases this with rfl | rfl | rfl | rfl
    · rw [show heldDev.queue (8 * 1023 + 4 + 0) = [] by decide +kernel] at h; cases h
    · rw [show heldDev.queue (8 * 1023 + 4 + 1) = [] by decide +kernel] at h; cases h
    · rw [show heldDev.queue (8 * 1023 + 4 + 2) = [] by decide +kernel] at h; cases h
    · rw [show heldDev.queue (8 * 1023 + 4 + 3) = [7] by decide +kernel] at h
      exact ⟨rfl, by simpa using h⟩
  obtain ⟨rfl, rfl⟩ := k3
  exact ⟨cq 7 .queued, by decide +kernel, by decide +kernel⟩


/-- Port 1023's queues hold no copy enqueued in this cell time: they are empty. -/
theorem no_copy {d : Dev} {q n : Nat} (h : d.queue q = []) (i : Nat) (y : Copy) (hi : i ∈ d.queue q) (_ : d.copy? i = some y) : y.enqCell ≠ n := by
  rw [h] at hi
  cases hi

/-! ### Well-formed commands -/

/-- One command for each check of `Instr.wf`, one past the check's bound. -/
def illFormed : List (List Instr) := [
  [.rcRead 64 0 0, .lowWordRead 64 0, .lowWordWrite 64 0 0, .highWordWrite 64 0 0, .pfcFrameReceive 1024 0 [], .pauseRx 1024, .pauseExpiry 1024 3, .pauseExpiry 1023 4],
  [.hbmLookupReturn 0 16, .alignRelease 16, .enqueueOverflowLink 8256, .bankRead 64 0 2, .bankRead 63 0 3, .queueSelect 8256 0, .transmitStart 1028, .preemptFrame 1028],
  [.pfcRefresh 1024 3, .pfcRefresh 1023 4, .discardWalk 16, .linkHoldExpiry 1024, .admPipeDerateWrite 64 15 0, .admPipeDerateWrite 63 16 0, .bufAllocReq 64 0 0, .bufAllocResp 64],
  [.bufFree 64 0, .spillPageWrite 8256 0, .spillRefill 8256 [] 0, .timeRateWrite 64 0 0, .timeSlewWrite 64 0, .timeSlewRateWrite 64 0, .timeNowNsRead 64, .timeStepGo 64 0],
  [.newEpoch 64 0 0, .stateReqLocked 64 0, .stateReqHoldover 64 0, .timeErrBaseWrite 64 0, .residenceEntryTimeout 16, .timeTxqPop 64 15, .timeTxqPop 63 16, .txqEntryAged 16],
  [.txqFlush 64 15 0, .txqFlush 63 16 0, .pinArm 64 7 0, .pinArm 63 8 0, .pinFire 8, .ppsEdge 8, .pinCapture 8 false, .pinCapPop 64 7],
  [.pinCapPop 63 8, .alarmEnable 64 15 0, .alarmEnable 63 16 0, .alarmRelease 64 15 0, .alarmRelease 63 16 0, .alarmFire 16, .sessRead 64, .sessWrite 64],
  [.sessClear 64, .evEnable 64 0, .evDisable 64 0, .attestGo 64 0, .patchGo 64 15 0, .patchGo 63 16 0, .patchSwitch 16, .heatOpen 64],
  [.commitNow 64, .commitAt 64, .heatAbort 64, .sweeperVisit 2 0 false, .tblAdd 64 0, .tblDelete 64 0, .tblReplace 64 0, .tblRead 64 0],
  [.tblSearch 64 0, .flushPort 64 0, .tblDmaGo 64 0, .corruptEntry 7 0 0 0 0, .tcamScrub 16 0 false, .tblNoticePop 64, .tblErrPop 64, .pacerWrite 64 0 0],
  [.meterWrite 64 0 0, .hbmCommandSlot 256 ⟨0, []⟩, .selfRefreshEntry 8, .selfRefreshExit 8, .neighbourRefresh 8 0, .hbmErrPop 64, .portEnable 64 1023 0, .portEnable 63 1024 0],
  [.portDisable 64 1023 0, .portDisable 63 1024 0, .anComplete 1024, .noCommon 1024, .trainingComplete 1024 [] [], .trainTimeout 1024, .laneLockComplete 1024 [], .lockTimeout 1024],
  [.alignComplete 1024 0 0 [], .alignTimeout 1024, .debounceExpiry 1024, .faultReceived 1024 false false, .faultCleared 1024, .linkDown 1024 .lock, .fecDegradeWindow 1024 0 0 0, .verifyStart 1024],
  [.verifyResponse 1024, .verifyTimeout 1024, .verifyReceived 1024, .lldpTlvReceived 1024 false 0, .lpiEntry 1024, .lpiWake 1024, .scanGo 64 1023 0, .scanGo 63 1024 0],
  [.scanStop 64 1023 0 0 0, .scanStop 63 1024 0 0 0, .scanDone 1024 0, .scanAborted 1024 0 0, .ivlSymbolLock 4, .ivlLockTimeout 4, .ivlTrainingComplete 4 0 false 0, .ivlTrainTimeout 4],
  [.ivlLinkDown 4, .ivlSleep 4, .ivlWake 4, .wakeTimeout 4, .ivlMessageReceive 4 [] 0, .ivlEthReceive 1024 [] 0, .versionSend 4, .version 4 (im 1 1 9 [])],
  [.ttReqSend 4, .ttReq 4 (im 1 1 9 []) 0 0, .ttResp 4 (im 1 1 9 []) 0, .ttTimeout 4, .ivlTtPop 64 3, .ivlTtPop 63 4, .ivlRegRead 4 (im 1 1 9 []), .ivlRegWrite 4 (im 1 1 9 [])],
  [.nak 4 (im 1 1 9 []), .echo 4 (im 1 1 9 []), .echoReply 4 (im 1 1 9 []), .ivlEnvPop 64, .ctlThaw 64 0, .ctlMasterReset 64 0, .ctlVlogPop 64, .batonRelease 64 255 0],
  [.batonRelease 63 256 0, .batonPeek 64 255, .batonPeek 63 256, .mbDataWrite 64 63 7 0, .mbDataWrite 63 64 7 0, .mbDataWrite 63 63 8 0, .mbDoorbell 64 63 0 false, .mbDoorbell 63 64 0 false],
  [.mbDataRead 64 63 7, .mbDataRead 63 64 7, .mbDataRead 63 63 8, .spdOwnerWrite 64 31 0, .spdOwnerWrite 63 32 0, .scratchpadAccess 64 0 none 0, .pstateWrite 64 31 0, .pstateWrite 63 32 0],
  [.bankWakeDone 32, .lend 64 31 0, .lend 63 32 0, .reclaim 64 31 0, .reclaim 63 32 0, .bistPassDone 32 none, .ctlFwGo 64 0, .runningAck 64],
  [.fwConfirm 64, .cpRestart 64 0, .ctlLockSet 64 0, .idReset 64 0, .holdRelease 64 0, .spiGo 64 0, .pwrDomCmd 64 95 0, .pwrDomCmd 63 96 0],
  [.domainTransitionDone 96, .stepDown 16, .stepUp 16, .hintPush 64 0, .hintFlush 64 0, .pwrEvtPop 64, .telCtrlWrite 64 0 0, .telRingRelposWrite 64 0 0],
  [.telRingRdData 64, .telHistCfgWrite 64 4127 0, .telHistCfgWrite 63 4128 0, .telSnap 64 0, .telPcClear 64 0, .telPcRead 64 1023, .telPcRead 63 1024, .telDescSel 64 0],
  [.smbusWrite 256 0 0 0 false, .smbusRead 256 0, .jtagInstruction 256, .registerRead 64 0 0, .lpiRxEntry 1024, .lpiRxExit 1024, .ivlRxSleep 4, .ivlRxWake 4],
  [.skipSetReceive 4 ⟨0, 0⟩, .recordsSend ⟨64, []⟩, .sealFrameSend ⟨64, false⟩, .registerWrite [⟨64, 0, 4, 0, 0, true⟩], .frameReceive { fin with port := 1028 }, .frameReceive { fin with draw := 2 ^ 24 }, .frameReceive { fin with stages := [(0, .hbm [])] }, .frameReceive { fin with stages := [(12, .hbm [])] }],
  [.batonRead 256 none [0], .batonRead 0 none [64]]]

/-- The commands with every operand at its bound. -/
def wellFormed : List (List Instr) := [
  [.rcRead 63 0 0, .lowWordRead 63 0, .lowWordWrite 63 0 0, .highWordWrite 63 0 0, .pfcFrameReceive 1023 0 [], .pauseRx 1023, .pauseExpiry 1023 3, .hbmLookupReturn 0 15],
  [.alignRelease 15, .enqueueOverflowLink 8255, .bankRead 63 0 2, .queueSelect 8255 0, .transmitStart 1027, .preemptFrame 1027, .pfcRefresh 1023 3, .discardWalk 15],
  [.linkHoldExpiry 1023, .admPipeDerateWrite 63 15 0, .bufAllocReq 63 0 0, .bufAllocResp 63, .bufFree 63 0, .spillPageWrite 8255 0, .spillRefill 8255 [] 0, .timeRateWrite 63 0 0],
  [.timeSlewWrite 63 0, .timeSlewRateWrite 63 0, .timeNowNsRead 63, .timeStepGo 63 0, .newEpoch 63 0 0, .stateReqLocked 63 0, .stateReqHoldover 63 0, .timeErrBaseWrite 63 0],
  [.residenceEntryTimeout 15, .timeTxqPop 63 15, .txqEntryAged 15, .txqFlush 63 15 0, .pinArm 63 7 0, .pinFire 7, .ppsEdge 7, .pinCapture 7 false],
  [.pinCapPop 63 7, .alarmEnable 63 15 0, .alarmRelease 63 15 0, .alarmFire 15, .sessRead 63, .sessWrite 63, .sessClear 63, .evEnable 63 0],
  [.evDisable 63 0, .attestGo 63 0, .patchGo 63 15 0, .patchSwitch 15, .heatOpen 63, .commitNow 63, .commitAt 63, .heatAbort 63],
  [.sweeperVisit 1 0 false, .tblAdd 63 0, .tblDelete 63 0, .tblReplace 63 0, .tblRead 63 0, .tblSearch 63 0, .flushPort 63 0, .tblDmaGo 63 0],
  [.corruptEntry 6 0 0 0 0, .tcamScrub 15 0 false, .tblNoticePop 63, .tblErrPop 63, .pacerWrite 63 0 0, .meterWrite 63 0 0, .hbmCommandSlot 255 ⟨0, []⟩, .selfRefreshEntry 7],
  [.selfRefreshExit 7, .neighbourRefresh 7 0, .hbmErrPop 63, .portEnable 63 1023 0, .portDisable 63 1023 0, .anComplete 1023, .noCommon 1023, .trainingComplete 1023 [] []],
  [.trainTimeout 1023, .laneLockComplete 1023 [], .lockTimeout 1023, .alignComplete 1023 0 0 [], .alignTimeout 1023, .debounceExpiry 1023, .faultReceived 1023 false false, .faultCleared 1023],
  [.linkDown 1023 .lock, .fecDegradeWindow 1023 0 0 0, .verifyStart 1023, .verifyResponse 1023, .verifyTimeout 1023, .verifyReceived 1023, .lldpTlvReceived 1023 false 0, .lpiEntry 1023],
  [.lpiWake 1023, .scanGo 63 1023 0, .scanStop 63 1023 0 0 0, .scanDone 1023 0, .scanAborted 1023 0 0, .ivlSymbolLock 3, .ivlLockTimeout 3, .ivlTrainingComplete 3 0 false 0],
  [.ivlTrainTimeout 3, .ivlLinkDown 3, .ivlSleep 3, .ivlWake 3, .wakeTimeout 3, .ivlMessageReceive 3 [] 0, .ivlEthReceive 1023 [] 0, .versionSend 3],
  [.version 3 (im 1 1 9 []), .ttReqSend 3, .ttReq 3 (im 1 1 9 []) 0 0, .ttResp 3 (im 1 1 9 []) 0, .ttTimeout 3, .ivlTtPop 63 3, .ivlRegRead 3 (im 1 1 9 []), .ivlRegWrite 3 (im 1 1 9 [])],
  [.nak 3 (im 1 1 9 []), .echo 3 (im 1 1 9 []), .echoReply 3 (im 1 1 9 []), .ivlEnvPop 63, .ctlThaw 63 0, .ctlMasterReset 63 0, .ctlVlogPop 63, .batonRelease 63 255 0],
  [.batonPeek 63 255, .mbDataWrite 63 63 7 0, .mbDoorbell 63 63 0 false, .mbDataRead 63 63 7, .spdOwnerWrite 63 31 0, .scratchpadAccess 63 0 none 0, .pstateWrite 63 31 0, .bankWakeDone 31],
  [.lend 63 31 0, .reclaim 63 31 0, .bistPassDone 31 none, .ctlFwGo 63 0, .runningAck 63, .fwConfirm 63, .cpRestart 63 0, .ctlLockSet 63 0],
  [.idReset 63 0, .holdRelease 63 0, .spiGo 63 0, .pwrDomCmd 63 95 0, .domainTransitionDone 95, .stepDown 15, .stepUp 15, .hintPush 63 0],
  [.hintFlush 63 0, .pwrEvtPop 63, .telCtrlWrite 63 0 0, .telRingRelposWrite 63 0 0, .telRingRdData 63, .telHistCfgWrite 63 4127 0, .telSnap 63 0, .telPcClear 63 0],
  [.telPcRead 63 1023, .telDescSel 63 0, .smbusWrite 255 0 0 0 false, .smbusRead 255 0, .jtagInstruction 255, .registerRead 63 0 0, .lpiRxEntry 1023, .lpiRxExit 1023],
  [.ivlRxSleep 3, .ivlRxWake 3, .skipSetReceive 3 ⟨0, 0⟩, .recordsSend ⟨63, []⟩, .sealFrameSend ⟨63, false⟩, .registerWrite [⟨63, 0, 4, 0, 0, true⟩], .frameReceive { fin with port := 1027, draw := 2 ^ 24 - 1, stages := [(1, .hbm []), (11, .hbm [])] }, .batonRead 255 none [63]]]

theorem test_ill_formed_commands_are_refused : (illFormed.all fun l => l.all fun i => !i.wf) = true := by decide +kernel

theorem test_commands_at_their_bounds_are_well_formed : (wellFormed.all fun l => l.all Instr.wf) = true := by decide +kernel

/-! ### Single commands, with results worked out from the manual -/

/-- SHA-256 of "abc" (FIPS 180-4, the example of its appendix). -/
theorem test_sha256_abc : ofBe (sha256 [0x61, 0x62, 0x63]) = 0xBA7816BF8F01CFEA414140DE5DAE2223B00361A396177A9CB410FF61F20015AD := by
  decide +kernel

/-- The check values of CRC-32 and CRC-32C for the nine digits. -/
theorem test_crc_check_values :
    crc32 [0x31, 0x32, 0x33, 0x34, 0x35, 0x36, 0x37, 0x38, 0x39] = 0xCBF43926 ∧
    crc32c [0x31, 0x32, 0x33, 0x34, 0x35, 0x36, 0x37, 0x38, 0x39] = 0xE3069283 := by decide +kernel

/-- The device a command leaves, with its completions. -/
def after (c : Instr) (s : State) : Dev :=
  match exec c s with
  | .next t => t.dev
  | _ => s.dev

/-- ID_IDENTITY at offset 0 reads 0x4B582048 (R2). -/
theorem test_identity_reads : (after (.registerRead 0 0 4) (svc id)).last = [⟨0, .ok, 0x4B582048⟩] := by decide +kernel

/-- A read of a reserved offset returns 0 (R14). -/
theorem test_reserved_offset_reads_zero : (after (.registerRead 0 0x3FC 4) (svc id)).last = [⟨0, .ok, 0⟩] := by decide +kernel

/-- A time tick of 1.25 ns at the reset rate: four ticks are 5 ns (R120, R121). -/
theorem test_four_ticks_are_five_ns : ((after (.timeTick 4) (svc id)).time.ns, (after (.timeTick 4) (svc id)).time.frac) = (5, 0) := by decide +kernel

/-- A Baton no one holds goes to the reader, and the next reader sees it (R422). -/
theorem test_baton_is_taken :
    (after (.batonRead 7 none [0x10, 0x11]) (svc id)).last.map (·.data) = [0, 0x80000010] := by decide +kernel

/-- A frame of port 3 before service is discarded and counted (R453). -/
theorem test_frame_before_service_is_counted :
    (after (.frameReceive fin) (stage 5 fun d => portUp d 3)).q .ID_BOOT_DISCARD = 1 := by decide +kernel

/-- The HBM spread of R331: granule 9 is in stack 0, pseudo-channel 1. -/
theorem test_granule_spread : (stackOf 9, pcOf 9) = (0, 1) := by decide

/-- A write of another word than the key to ID_RESET resets nothing (R450). -/
theorem test_wrong_reset_key : (after (.idReset 0 1) (svc id)).bootStage = 6 := by decide +kernel

/-! ### Hypotheses that are met: for each statement, a state and operands for each of its clauses -/

theorem met_StepRunsFrontCommand :
    (∃ (s : State) (c : Instr) (rest : List Instr), s.pending = c :: rest) ∧
    (∃ (s : State), s.pending = []) :=
  ⟨⟨{ svc id with pending := [.pllLock, .wdog] }, .pllLock, [.wdog], by decide +kernel⟩,
   ⟨(svc id), by decide +kernel⟩⟩

theorem met_EveryRegisterFound :
    (∃ (r : Reg) (i j k : Nat), (match r.row.dims with | [_, _, c] => k < c.2 | _ => k = 0) ∧ r.has i j = true) :=
  ⟨.MB_DATA, 15, 7, 0, rfl, by decide +kernel⟩

theorem met_WriteByAccessCode :
    (∃ (v : Nat), v < 2 ^ 32) :=
  ⟨0xFFFFFFFF, by decide +kernel⟩

theorem met_FieldWriteChangesItsField :
    (∃ (x : Fld), x.lo ≤ x.hi ∧ x.hi < 32) :=
  ⟨F.PORT_CFG_MODE, by decide +kernel⟩

theorem met_AccessesAreTurnedAway :
    (∃ (s : State) (m : Nat), issues m = true ∧ s.dev.turnedAway m = true) ∧
    (∃ (s : State) (m off width : Nat), issues m = true ∧ s.dev.turnedAway m = false ∧ s.dev.bootAllows m false (if isHostFn m then 0x0C000000 else
      unalias (off - off % 4)) = true ∧ s.dev.within m none off = true ∧ (width ≠ 4 ∨ off % 4 ≠ 0) ∧ s.dev.ctl.vlog.length < 256) ∧
    (∃ (s : State) (m : Nat), s.dev.turnedAway m = false ∧ s.dev.bootStage ≠ 6 ∧ 1 ≤ m ∧ m ≤ 0x0F) ∧
    (∃ (s : State) (m off : Nat), s.dev.turnedAway m = false ∧ s.dev.bootStage ≠ 6 ∧ m = 0x24 ∧ unalias (off - off % 4) ≠ Reg.off .PWR_BMC_CAP) :=
  ⟨⟨svc fun d => d.setF F.CTL_CP_CTRL_HALTED 15, 0x13, by decide +kernel⟩,
   ⟨(svc id), 0, 2, 4, by decide +kernel⟩,
   ⟨stage 5 id, 15, by decide +kernel⟩,
   ⟨stage 5 id, 0x24, 0, by decide +kernel⟩⟩

theorem met_RightsViolationFreezes :
    (∃ (s : State) (m off : Nat) (v : Word), 1 ≤ m ∧ m ≤ 0x0F ∧ s.dev.turnedAway m = false ∧ s.dev.bootAllows m true 0x0C000000 = true ∧
      s.dev.within m (some v.toNat) off = false ∧ s.dev.ctl.vlog.length < 256) :=
  ⟨(svc id), 15, 0, 0, by decide +kernel⟩

theorem met_SettingsAreWrittenAndRead :
    (∃ (s : State) (r : Reg) (m i j : Nat) (v : Word), Writes s m r i j v.toNat ∧ r ∈ Settings) ∧
    (∃ (s : State) (r : Reg) (m i : Nat) (v : Word), Writes s m .FIN_GRP_WINDOW i 0 v.toNat ∧ r ∈ Settings) ∧
    (∃ (s : State) (r : Reg) (m : Nat) (v : Word), Writes s m .HBM_FLOOR 0 0 v.toNat ∧ r ∈ Settings) ∧
    (∃ (s : State) (r : Reg) (m i j : Nat), Reaches s m none r i j ∧ r ∈ Settings) :=
  ⟨⟨(svc id), .PIPE_PORT_CFG, 0, 15, 63, 0, writes_of (by decide +kernel), by decide +kernel⟩,
   ⟨(svc id), .PIPE_PORT_CFG, 0, 63, 1000, writes_of (by decide +kernel), by decide +kernel⟩,
   ⟨(svc id), .PIPE_PORT_CFG, 0, 400, writes_of (by decide +kernel), by decide +kernel⟩,
   ⟨(svc id), .PIPE_PORT_CFG, 0, 15, 63, reaches_of (by decide +kernel), by decide +kernel⟩⟩

theorem met_CounterReadClears :
    (∃ (s : State) (m : Nat), Reaches s m none .TIME_STEP_CTRL 0 0) :=
  ⟨(svc id), 0x13, reaches_of (by decide +kernel)⟩

theorem met_WideQuantitiesByHalves :
    (∃ (s : State) (m off : Nat) (r : Reg) (i : Nat), ReachesWide s m none off r i false) ∧
    (∃ (s : State) (m off : Nat) (r : Reg) (i : Nat) (v : Word), ReachesWide s m (some v.toNat) off r i false) ∧
    (∃ (s : State) (m off : Nat) (v lo : Word), ReachesWide s m (some v.toNat) off .TIME_RATE 0 true ∧ SMap.find? s.dev.ctl.pendLow m = some
      (Reg.off .TIME_RATE, lo) ∧ rateOk (v.toNat * 2 ^ 32 + lo.toNat) = true) :=
  ⟨⟨(svc id), 0, Reg.off .TIME_RATE, .TIME_RATE, 0, reachesWide_of (by decide +kernel)⟩,
   ⟨(svc id), 0, Reg.off .TIME_RATE, .TIME_RATE, 0, 7, reachesWide_of (by decide +kernel)⟩,
   ⟨svc fun d => { d with ctl := { d.ctl with pendLow := [(0, (Reg.off .TIME_RATE, 0))] } }, 0, Reg.off .TIME_RATE + 4, 0x14000, 0, reachesWide_of
     (by decide +kernel), by decide +kernel⟩⟩

theorem met_BatonsHaveOneOwner :
    (∃ (s : State) (n a b : Nat), InService s.dev ∧ n < 256 ∧ s.dev.turnedAway a = false ∧ s.dev.turnedAway b = false ∧ s.dev.privileged a = true ∧
      s.dev.privileged b = true ∧ issues a = true ∧ issues b = true ∧ s.dev.batonOwner n = none) ∧
    (∃ (s : State) (n a b o : Nat), InService s.dev ∧ n < 256 ∧ s.dev.turnedAway a = false ∧ s.dev.turnedAway b = false ∧ s.dev.privileged a = true
      ∧ s.dev.privileged b = true ∧ issues a = true ∧ issues b = true ∧ s.dev.batonOwner n = some o) ∧
    (∃ (s : State) (n a b : Nat), InService s.dev ∧ n < 256 ∧ s.dev.turnedAway a = false ∧ s.dev.turnedAway b = false ∧ s.dev.privileged a = true ∧
      s.dev.privileged b = true ∧ issues a = true ∧ issues b = true ∧ s.dev.batonOwner n = none ∧ a < b ∧ SMap.get s.dev.ctl.batonPtr n 0 ≤ a) ∧
    (∃ (s : State) (m n : Nat), Reaches s m (some 0) .BAT n 0 ∧ s.dev.batonOwner n = some m) ∧
    (∃ (s : State) (m n o : Nat), Reaches s m (some 0) .BAT n 0 ∧ s.dev.batonOwner n = some o ∧ o ≠ m) ∧
    (∃ (s : State) (m n : Nat), Reaches s m none .BAT_PEEK n 0) :=
  ⟨⟨(svc id), 255, 0, 0x13, ⟨rfl, rfl, rfl⟩, by decide +kernel⟩,
   ⟨svc fun d => d.setBatons [(255, 0x2B)], 255, 0, 0x13, 0x2B, ⟨rfl, rfl, rfl⟩, by decide +kernel⟩,
   ⟨(svc id), 255, 0, 0x13, ⟨rfl, rfl, rfl⟩, by decide +kernel⟩,
   ⟨svc fun d => d.setBatons [(255, 0)], 0, 255, reaches_of (by decide +kernel), by decide +kernel⟩,
   ⟨svc fun d => d.setBatons [(255, 0x13)], 0, 255, 0x13, reaches_of (by decide +kernel), by decide +kernel⟩,
   ⟨svc fun d => d.setBatons [(255, 0x13)], 0, 255, reaches_of (by decide +kernel)⟩⟩

theorem met_MailboxWordsArePosted :
    (∃ (s : State) (m c i : Nat) (a : Bool) (v : Word), Reaches s m (some v.toNat) .MB_DATA c i ∧ s.dev.mbSide c m = some a ∧ (s.dev.mbDir (mbOut c
      a)).full = false) ∧
    (∃ (s : State) (m c i : Nat) (a : Bool) (v : Word), Reaches s m (some v.toNat) .MB_DATA c i ∧ s.dev.mbSide c m = some a ∧ (s.dev.mbDir (mbOut c
      a)).full = true) ∧
    (∃ (s : State) (m c : Nat) (a : Bool) (v : Word), Reaches s m (some v.toNat) .MB_DOORBELL c 0 ∧ s.dev.mbSide c m = some a ∧ (s.dev.mbDir (mbOut
      c a)).full = false ∧ 1 ≤ v.toNat % 16 ∧ v.toNat % 16 ≤ 8) ∧
    (∃ (s : State) (m c i : Nat) (a : Bool), Reaches s m none .MB_DATA c i ∧ s.dev.mbSide c m = some a ∧ (s.dev.mbDir (mbOut c !a)).full = true ∧ i
      + 1 = (s.dev.mbDir (mbOut c !a)).len) :=
  ⟨⟨svc mb, 0, 15, 7, true, 5, reaches_of (by decide +kernel), by decide +kernel⟩,
   ⟨svc fun d => (mb d).setMbDir 30 { MbDir.zero with full := true }, 0, 15, 7, true, 0, reaches_of (by decide +kernel), by decide +kernel⟩,
   ⟨svc mb, 0, 15, true, 8, reaches_of (by decide +kernel), by decide +kernel⟩,
   ⟨svc fun d => (mb d).setMbDir 31 { MbDir.zero with full := true, len := 8 }, 0, 15, 7, true, reaches_of (by decide +kernel), by decide +kernel⟩⟩

theorem met_ScratchpadIsReadAndWritten :
    (∃ (s : State) (m off b : Nat) (v : Word), b = (unalias off - 0x08000000) / 0x80000 ∧ issues m = true ∧ s.dev.turnedAway m = false ∧
      s.dev.bootAllows m true (unalias off) = true ∧ s.dev.bootAllows m false (unalias off) = true ∧ s.dev.within m (some v.toNat) off = true ∧
      s.dev.within m none off = true ∧ isHostFn m = false ∧ off % 4 = 0 ∧ inSpd (unalias off) = true ∧ s.dev.bankOwner b = m ∧ s.dev.bankState b =
      0 ∧ s.dev.on F.SPD_BANK_CFG_LEND b = false) ∧
    (∃ (s : State) (m off b : Nat) (v : Word), b = (unalias off - 0x08000000) / 0x80000 ∧ issues m = true ∧ s.dev.turnedAway m = false ∧
      s.dev.bootAllows m true (unalias off) = true ∧ s.dev.bootAllows m false (unalias off) = true ∧ s.dev.within m (some v.toNat) off = true ∧
      s.dev.within m none off = true ∧ isHostFn m = false ∧ off % 4 = 0 ∧ inSpd (unalias off) = true ∧ s.dev.bankOwner b = m ∧ s.dev.bankState b ≠
      0) :=
  ⟨⟨svc (spd 0), 0, 0x08FFFFFC, _, 0x12345678, rfl, by decide +kernel⟩,
   ⟨svc (spd 2), 0, 0x08FFFFFC, _, 0, rfl, by decide +kernel⟩⟩

theorem met_ScratchpadBanksAreConfigured :
    (∃ (s : State) (m b : Nat) (v : Word), Writes s m .SPD_BANK_CFG b 0 v.toNat ∧ F.SPD_BANK_CFG_OWNER.ext (s.dev.written .SPD_BANK_CFG b 0 m
      v.toNat).toNat ≠ s.dev.f F.SPD_BANK_CFG_OWNER b ∧ F.SPD_BANK_CFG_PSTATE.ext (s.dev.written .SPD_BANK_CFG b 0 m v.toNat).toNat = s.dev.f
      F.SPD_BANK_CFG_PSTATE b) ∧
    (∃ (s : State) (m b : Nat) (v : Word), Writes s m .SPD_BANK_CFG b 0 v.toNat ∧ F.SPD_BANK_CFG_OWNER.ext (s.dev.written .SPD_BANK_CFG b 0 m
      v.toNat).toNat = s.dev.f F.SPD_BANK_CFG_OWNER b ∧ F.SPD_BANK_CFG_LEND.ext (s.dev.written .SPD_BANK_CFG b 0 m v.toNat).toNat = 0 ∧
      F.SPD_BANK_CFG_PSTATE.ext (s.dev.written .SPD_BANK_CFG b 0 m v.toNat).toNat = 0 ∧ s.dev.f F.SPD_BANK_CFG_PSTATE b = 2) ∧
    (∃ (s : State) (m b : Nat) (v : Word), Writes s m .SPD_BANK_CFG b 0 (setBit v 29) ∧ F.SPD_BANK_CFG_OWNER.ext (s.dev.written .SPD_BANK_CFG b 0 m
      (setBit v 29)).toNat = s.dev.f F.SPD_BANK_CFG_OWNER b ∧ F.SPD_BANK_CFG_PSTATE.ext (s.dev.written .SPD_BANK_CFG b 0 m (setBit v 29)).toNat =
      s.dev.f F.SPD_BANK_CFG_PSTATE b) ∧
    (∃ (s : State) (m b : Nat) (v : Word), Writes s m .SPD_BANK_CFG b 0 (clearBit v 29) ∧ F.SPD_BANK_CFG_OWNER.ext (s.dev.written .SPD_BANK_CFG b 0
      m (clearBit v 29)).toNat = s.dev.f F.SPD_BANK_CFG_OWNER b ∧ F.SPD_BANK_CFG_PSTATE.ext (s.dev.written .SPD_BANK_CFG b 0 m (clearBit v
      29)).toNat = s.dev.f F.SPD_BANK_CFG_PSTATE b) ∧
    (∃ (b : Nat), b < 32) ∧
    (∃ (s : State) (b : Nat), b < 32 ∧ s.dev.on F.SPD_BANK_STAT_BIST_ACTIVE b = true) :=
  ⟨⟨svc (spd 0), 0, 31, 0x1300, writes_of (by decide +kernel), by decide +kernel⟩,
   ⟨svc (spd 2), 0, 31, 0, writes_of (by decide +kernel), by decide +kernel⟩,
   ⟨svc (spd 0), 0, 31, 0, writes_of (by decide +kernel), by decide +kernel⟩,
   ⟨svc fun d => (spd 0 d).setF F.SPD_BANK_CFG_LEND 1 31, 0, 31, 0, writes_of (by decide +kernel), by decide +kernel⟩,
   ⟨31, by decide +kernel⟩,
   ⟨svc fun d => d.setF F.SPD_BANK_STAT_BIST_ACTIVE 1 31, 31, by decide +kernel⟩⟩

theorem met_MastersAreThawedAndReset :
    (∃ (s : State) (m n : Nat) (v : Word), n = v.toNat % 64 ∧ Writes s m .CTL_THAW 0 0 v.toNat) ∧
    (∃ (s : State) (m n : Nat) (v : Word), n = v.toNat % 64 ∧ Writes s m .CTL_MASTER_RESET 0 0 v.toNat ∧ isHostFn n = true) ∧
    (∃ (s : State) (m : Nat) (w0 w1 w2 w3 : Word) (rest : List (List Word)), Reaches s m none .CTL_VLOG_POP0 0 0 ∧ s.dev.ctl.vlog = [w0, w1, w2,
      w3] :: rest) ∧
    (∃ (s : State) (m : Nat) (v : Word), Writes s m .CTL_LOCK 0 0 (setBit v 0) ∧ s.dev.on F.CTL_LOCK_LOCK = false) ∧
    (∃ (s : State) (m n : Nat) (v : Word), Writes s m .CTL_CP_CTRL 0 0 v.toNat ∧ n < 4 ∧ v.toNat % 16 = 2 ^ n ∧ s.dev.frozen (0x10 + n) = false) :=
  ⟨⟨(svc id), 0, _, 0x13, rfl, writes_of (by decide +kernel)⟩,
   ⟨svc fun d => d.setBatons [(3, 15), (4, 1)], 0, _, 0x0F, rfl, writes_of (by decide +kernel), by decide +kernel⟩,
   ⟨svc fun d => { d with ctl := { d.ctl with vlog := [[1, 2, 3, 4]] } }, 0, 1, 2, 3, 4, [], reaches_of (by decide +kernel), by decide +kernel⟩,
   ⟨(svc id), 0, 0, writes_of (by decide +kernel), by decide +kernel⟩,
   ⟨(svc id), 0, 3, 8, writes_of (by decide +kernel), by decide +kernel⟩⟩

theorem met_FirmwareIsSwitched :
    (∃ (s : State) (m : Nat) (v : Word), Writes s m .CTL_FW_CTRL 0 0 (setBit v 31)) ∧
    (∃ (s : State) (r : Nat), s.dev.f F.CTL_FW_STATUS_STATE = 1 ∧ s.dev.fwCheck s.mem = .inl r ∧ r < 8) ∧
    (∃ (s : State) (x : FwSlot), s.dev.fwCheck s.mem = .inr x ∧ s.dev.f F.CTL_FW_STATUS_STATE = 1 ∧ s.dev.on F.ID_BOOT_STATUS_FW_RECOVERY = false ∧
      s.dev.f F.ID_STATUS_CP_SLOT = 0xA) ∧
    (∃ (s : State) (m : Nat), Writes s m .CTL_FW_CONFIRM 0 0 1 ∧ s.dev.f F.CTL_FW_STATUS_STATE = 2) ∧
    (∃ (s : State) (m : Nat), Writes s m .CTL_FW_CONFIRM 0 0 2 ∧ s.dev.f F.CTL_FW_STATUS_STATE = 3 ∧ s.dev.ctl.newSecVer < 2 ^ 16) ∧
    (∃ (s : State), s.dev.f F.CTL_FW_STATUS_STATE = 2 ∧ s.dev.f F.ID_STATUS_CP_SLOT = 0xB ∧ s.dev.f F.TIME_STATUS_STATE = 1) ∧
    (∃ (s : State), s.dev.f F.CTL_FW_STATUS_STATE = 3 ∧ s.dev.f F.ID_STATUS_CP_SLOT = 0xB ∧ s.dev.f F.TIME_STATUS_STATE = 1) :=
  ⟨⟨(svc id), 0, 4, writes_of (by decide +kernel)⟩,
   ⟨svc fun d => (d.setF F.CTL_FW_STATUS_STATE 1).setF F.SPD_BANK_CFG_OWNER 0x13 0, 5, by decide +kernel⟩,
   ⟨fwState, fwSlot, fw_check, by decide +kernel⟩,
   ⟨svc fun d => d.setF F.CTL_FW_STATUS_STATE 2, 0x10, writes_of (by decide +kernel), by decide +kernel⟩,
   ⟨svc fun d => d.setF F.CTL_FW_STATUS_STATE 3, 0x13, writes_of (by decide +kernel), by decide +kernel⟩,
   ⟨svc fun d => ((d.setF F.CTL_FW_STATUS_STATE 2).setF F.ID_STATUS_CP_SLOT 0xB).setF F.TIME_STATUS_STATE 1, by decide +kernel⟩,
   ⟨svc fun d => ((d.setF F.CTL_FW_STATUS_STATE 3).setF F.ID_STATUS_CP_SLOT 0xB).setF F.TIME_STATUS_STATE 1, by decide +kernel⟩⟩

theorem met_DeviceResetsClear :
    (∃ (c : Instr), (c = .deviceReset ∨ c = .pwrgdLow ∨ c = .undervoltageLockout ∨ (∃ x, c = .coldStart x))) ∧
    (∃ (s : State) (m : Nat) (v : Word), Writes s m .ID_RESET 0 0 v.toNat ∧ v = 0xC01DB007) ∧
    (∃ (s : State) (m : Nat) (v : Word), Writes s m .ID_RESET 0 0 v.toNat ∧ v ≠ 0xC01DB007) ∧
    (∃ (s : State) (m : Nat), m ≠ 0 ∧ issues m = true ∧ s.dev.turnedAway m = false ∧ s.dev.bootAllows m true (if isHostFn m then 0x0C000000 else
      Reg.off .ID_RESET) = true ∧ s.dev.ctl.vlog.length < 256) :=
  ⟨⟨.deviceReset, .inl rfl⟩,
   ⟨(svc id), 0, 0xC01DB007, writes_of (by decide +kernel), by decide +kernel⟩,
   ⟨(svc id), 0, 0xC01DB006, writes_of (by decide +kernel), by decide +kernel⟩,
   ⟨(svc id), 0x2B, by decide +kernel⟩⟩

theorem met_StartUpReadsFuses :
    (∃ (s : State), s.dev.bootStage = 0 ∧ s.dev.boot.inReset = false ∧ s.dev.boot.jtagHeld = false ∧ s.dev.boot.cooling = false ∧ s.dev.f
      F.ID_STRAP_TREF_SEL ≠ 3) ∧
    (∃ (s : State) (f : FuseIn), s.dev.bootStage = 1 ∧ s.dev.f F.ID_BOOT_STATUS_CAUSE = 0 ∧ s.dev.boot.fuses = none ∧ f.parityOk = false) ∧
    (∃ (s : State), s.dev.bootStage = 1 ∧ s.dev.f F.ID_BOOT_STATUS_CAUSE ≠ 0) ∧
    (∃ (s : State) (f : FuseIn), p256Public (identityScalar f.secret) = (f.certKeyX, f.certKeyY) ∧ s.dev.bootStage = 1 ∧ s.dev.f
      F.ID_BOOT_STATUS_CAUSE = 0 ∧ s.dev.boot.fuses = none ∧ f.parityOk = true) :=
  ⟨⟨State.reset, by decide +kernel⟩,
   ⟨stage 1 id, { fuses with parityOk := false }, by decide +kernel⟩,
   ⟨stage 1 fun d => d.setF F.ID_BOOT_STATUS_CAUSE 1, by decide +kernel⟩,
   ⟨stage 1 id, certified fuses, certified_key _, by decide +kernel⟩⟩

theorem met_StartUpVerifiesFirmware :
    (∃ (s : State), s.dev.bootStage = 2 ∧ s.dev.on F.ID_BOOT_STATUS_FW_RECOVERY = false ∧ s.dev.f F.ID_BOOT_STATUS_CAUSE ≠ 0) ∧
    (∃ (s : State) (f : FlashIn), s.dev.bootStage = 2 ∧ s.dev.on F.ID_BOOT_STATUS_FW_RECOVERY = false ∧ s.dev.f F.ID_BOOT_STATUS_CAUSE = 0 ∧
      flashDirectory f = none) ∧
    (∃ (s : State) (f : FlashIn) (dir : List Byte), s.dev.bootStage = 2 ∧ s.dev.on F.ID_BOOT_STATUS_FW_RECOVERY = false ∧ s.dev.f
      F.ID_BOOT_STATUS_CAUSE = 0 ∧ flashDirectory f = some dir ∧ beAt dir 12 4 = 0 ∧ beAt dir 20 4 = 0) ∧
    (∃ (s : State) (f : FlashIn) (dir : List Byte), (s.dev.slotOf (beAt dir 12 4) f.fwA).isSome = true ∧ s.dev.bootStage = 2 ∧ s.dev.on
      F.ID_BOOT_STATUS_FW_RECOVERY = false ∧ s.dev.f F.ID_BOOT_STATUS_CAUSE = 0 ∧ flashDirectory f = some dir) :=
  ⟨⟨stage 2 fun d => d.setF F.ID_BOOT_STATUS_CAUSE 4, by decide +kernel⟩,
   ⟨stage 2 id, ⟨[], [], [], []⟩, by decide +kernel⟩,
   ⟨stage 2 id, ⟨dir0, [], [], []⟩, dir0, by decide +kernel⟩,
   ⟨stage 2 fwFuses, flashA, dirA, fw_slot, by decide +kernel⟩⟩

theorem met_StartUpAppliesTheImage :
    (∃ (s : State), s.dev.bootStage = 3) ∧
    (∃ (s : State) (x : ImageIn), s.dev.imageBad x = none ∧ s.dev.bootStage = 3 ∧ (s.dev.imageSlot x).2 ≠ 0 ∧ (sectionsOf x.bytes).map (·.typ) =
      [3] ∧ (∀ g ∈ x.graphs, g.pipe < 16 ∧ g.nodes = [] ∧ g.trans = []) ∧ x.graphs ≠ []) ∧
    (∃ (s : State), s.dev.bootStage = 4) :=
  ⟨⟨stage 3 id, by decide +kernel⟩,
   ⟨stage 3 rooted, image, im_good, by decide +kernel⟩,
   ⟨stage 4 id, by decide +kernel⟩⟩

theorem met_StartUpEntersService :
    (∃ (s : State), s.dev.bootStage = 5 ∧ s.dev.boot.acquired = false ∧ s.dev.boot.timeSource = 0 ∧ s.dev.boot.holdS = 0) ∧
    (∃ (s : State), s.dev.bootStage = 5 ∧ s.dev.boot.acquired = false ∧ s.dev.boot.timeSource ≠ 0 ∧ s.dev.timeState ≠ 1 ∧ s.dev.on
      F.TIME_STATUS_STEP_USED = true ∧ s.dev.boot.holdS ≠ 0) ∧
    (∃ (s : State) (m : Nat) (v : Word), Writes s m .ID_BOOT_CTRL 0 0 (setBit v 31) ∧ s.dev.on F.ID_BOOT_STATUS_HELD = true) ∧
    (∃ (s : State), s.dev.bootStage = 5 ∧ s.dev.boot.acquired = true ∧ s.dev.on F.ID_BOOT_STATUS_HELD = false ∧ s.dev.boot.heldEvEn = false ∧
      s.dev.evOn = false ∧ s.dev.boot.raiseFloor = false) ∧
    (∃ (s : State), s.dev.bootStage = 5 ∧ s.dev.boot.acquired = false ∧ (s.dev.boot.timeSource = 0 ∨ s.dev.timeState = 1) ∧ s.dev.boot.holdS = 0) :=
  ⟨⟨stage 5 id, by decide +kernel⟩,
   ⟨stage 5 fun d => { d.setF F.TIME_STATUS_STEP_USED 1 with boot := { d.boot with holdS := 1, timeSource := 1 } }, by decide +kernel⟩,
   ⟨stage 5 fun d => d.setF F.ID_BOOT_STATUS_HELD 1, 0, 0, writes_of (by decide +kernel), by decide +kernel⟩,
   ⟨stage 5 fun d => { d with boot := { d.boot with acquired := true } }, by decide +kernel⟩,
   ⟨stage 5 id, by decide +kernel⟩⟩

theorem met_FlashClocksAndTestPort :
    (∃ (s : State) (m : Nat) (v : Word), Writes s m .ID_SPI_CMD 0 0 (setBit v 31)) ∧
    (∃ (s : State) (n : Nat), s.dev.boot.spi = some (true, n)) ∧
    (∃ (s : State), s.dev.held = false) ∧
    (∃ (s : State), s.dev.boot.jtagHeld = false ∧ s.dev.boot.unpowered = false) ∧
    (∃ (s : State), s.dev.boot.unpowered = false) ∧
    (∃ (s : State) (v : Word), Writes s 0x24 .PWR_BMC_CAP 0 0 v.toNat ∧ s.dev.boot.inReset = false ∧ s.dev.boot.jtagHeld = false ∧ s.dev.frozen
      0x24 = false) ∧
    (∃ (s : State), Reaches s 0x24 none .PWR_BMC_CAP 0 0 ∧ s.dev.boot.inReset = false ∧ s.dev.boot.jtagHeld = false ∧ s.dev.frozen 0x24 = false) :=
  ⟨⟨stage 0xF id, 0, 0x9F, writes_of (by decide +kernel)⟩,
   ⟨stage 0xF fun d => { d with boot := { d.boot with spi := some (true, 256) } }, 256, by decide +kernel⟩,
   ⟨(svc id), by decide +kernel⟩,
   ⟨stage 4 id, by decide +kernel⟩,
   ⟨(svc id), by decide +kernel⟩,
   ⟨(svc id), 1000, writes_of (by decide +kernel), by decide +kernel⟩,
   ⟨(svc id), reaches_of (by decide +kernel), by decide +kernel⟩⟩

theorem met_DeviceTimeIsCounted :
    (∃ (s : State) (n : Nat), s.dev.held = false ∧ s.dev.time.slewRem = 0 ∧ (s.dev.time.total + n * s.dev.q .TIME_RATE) / 2 ^ 48 / 1000000000 < 2 ^
      48) ∧
    (∃ (s : State) (m : Nat) (lo hi : Word), ReachesWide s m (some lo.toNat) (offsetFor m (Reg.off .TIME_RATE)) .TIME_RATE 0 false ∧ ReachesWide s
      m (some hi.toNat) (offsetFor m (Reg.off .TIME_RATE) + 4) .TIME_RATE 0 true ∧ rateOk (hi.toNat * 2 ^ 32 + lo.toNat) = true) ∧
    (∃ (s : State) (m : Nat) (v : Word), Writes s m .TIME_SLEW 0 0 v.toNat) ∧
    (∃ (s : State) (m : Nat) (v : Word), Writes s m .TIME_SLEW_RATE 0 0 v.toNat) ∧
    (∃ (s : State), 0 < s.dev.time.slewShare ∧ s.dev.time.slewRem ≠ 0) ∧
    (∃ (s : State) (m : Nat), Reaches s m none .TIME_NOW_NS 0 0) :=
  ⟨⟨(svc id), 1, by decide +kernel⟩,
   ⟨(svc id), 0, 1, 0x14000, reachesWide_of (by decide +kernel), reachesWide_of (by decide +kernel), by decide +kernel⟩,
   ⟨(svc id), 0, 0xFFFFFFFF, writes_of (by decide +kernel)⟩,
   ⟨(svc id), 0, 100000, writes_of (by decide +kernel)⟩,
   ⟨svc fun d => { d with time := { d.time with slewRem := -5 } }, by decide +kernel⟩,
   ⟨svc fun d => atTime d 7 1000, 0, reaches_of (by decide +kernel)⟩⟩

theorem met_StepsAndEpochs :
    (∃ (s : State) (m n : Nat) (v : Word) (r : StepReq), r = (s.dev.putWord .TIME_STEP_CTRL 0 0 m (setBit (word (clearBit v 30)) 31)).stepReq false
      ∧ Writes s m .TIME_STEP_CTRL 0 0 (setBit (word (clearBit v 30)) 31) ∧ s.dev.on F.TIME_STATUS_STEP_USED = false ∧ s.dev.time.pendingStep =
      none ∧ s.dev.stepTarget r = some n) ∧
    (∃ (s : State) (m : Nat) (v : Word), Writes s m .TIME_STEP_CTRL 0 0 (setBit (word (clearBit v 30)) 31) ∧ s.dev.on F.TIME_STATUS_STEP_USED =
      true ∧ s.dev.ctl.vlog.length < 256) ∧
    (∃ (s : State) (m : Nat) (v : Word), Writes s m .TIME_STEP_CTRL 0 0 (setBit v 30) ∧ bit v.toNat 31 = false ∧ s.dev.on F.TIME_STATUS_STEP_MARK =
      false ∧ s.dev.time.pendingStep = none ∧ s.dev.ev.interval = none) ∧
    (∃ (s : State) (r : StepReq), s.dev.time.pendingStep = some r ∧ r.absolute = true ∧ r.newEpoch = false ∧ r.ns < 1000000000 ∧ s.dev.ev.interval
      = none ∧ s.dev.buf.copies = [] ∧ s.dev.time.txq = [] ∧ s.dev.time.caps = [] ∧ s.dev.time.pins = [] ∧ s.dev.time.alarms = []) ∧
    (∃ (s : State), s.dev.time.stepAt + 880000000 ≤ s.dev.time.ticks) :=
  ⟨⟨svc fun d => atTime d 7 1000, 0, 7000000000, 1, _, rfl, writes_of (by decide +kernel), by decide +kernel⟩,
   ⟨svc fun d => d.setF F.TIME_STATUS_STEP_USED 1, 0, 0, writes_of (by decide +kernel), by decide +kernel⟩,
   ⟨(svc id), 0, 0, writes_of (by decide +kernel), by decide +kernel⟩,
   ⟨svc fun d => { d with time := { d.time with pendingStep := some ⟨true, false, 9, 999999999, false⟩ } }, ⟨true, false, 9, 999999999, false⟩, by
     decide +kernel⟩,
   ⟨svc fun d => atTime d 7 880000000, by decide +kernel⟩⟩

theorem met_TimeStateAndErrorBound :
    (∃ (s : State) (m : Nat) (v : Word), Writes s m .TIME_CTRL 0 0 (2 ^ 30 + v.toNat % 2 ^ 30) ∧ s.dev.f F.TIME_STATUS_STATE ≠ 1) ∧
    (∃ (s : State) (m : Nat) (v : Word), Writes s m .TIME_CTRL 0 0 (2 ^ 31 + v.toNat % 2 ^ 30) ∧ s.dev.f F.TIME_STATUS_STATE ≠ 2) ∧
    (∃ (s : State), s.dev.f F.TIME_STATUS_STATE = 1 ∧ s.dev.f F.TIME_HOLD_CFG_WDOG_MS ≠ 0) ∧
    (∃ (s : State) (m : Nat) (v : Word), Writes s m .TIME_ERR_BASE 0 0 v.toNat) :=
  ⟨⟨(svc id), 0, 0, writes_of (by decide +kernel), by decide +kernel⟩,
   ⟨(svc id), 0, 0, writes_of (by decide +kernel), by decide +kernel⟩,
   ⟨svc fun d => (d.setF F.TIME_STATUS_STATE 1).setF F.TIME_HOLD_CFG_WDOG_MS 1, by decide +kernel⟩,
   ⟨(svc id), 0, 0xFFFFFFFF, writes_of (by decide +kernel)⟩⟩

theorem met_StampQueuesArePopped :
    (∃ (s : State) (m p : Nat) (x : TxEntry) (rest : List TxEntry), Reaches s m none .TIME_TXQ_POP_LO p 0 ∧ s.dev.txqOf p = x :: rest ∧ x.owner = m
      ∧ x.ident < 2 ^ 16) ∧
    (∃ (s : State) (p : Nat) (x : TxEntry) (rest : List TxEntry), s.dev.txqOf p = x :: rest) ∧
    (∃ (s : State) (m p : Nat) (v : Word), Writes s m .TIME_TXQ_CTRL p 0 (setBit v 31)) :=
  ⟨⟨svc fun d => d.setTxq 15 [⟨0, 65535, 1023, 8000, false, 0⟩], 0, 15, ⟨0, 65535, 1023, 8000, false, 0⟩, [], reaches_of (by decide +kernel), by
      decide +kernel⟩,
   ⟨svc fun d => d.setTxq 15 [⟨0, 65535, 1023, 8000, false, 0⟩], 15, ⟨0, 65535, 1023, 8000, false, 0⟩, [], by decide +kernel⟩,
   ⟨(svc id), 0, 15, 64, writes_of (by decide +kernel)⟩⟩

theorem met_PinsAndAlarmsFire :
    (∃ (s : State) (m n : Nat) (v : Word), Writes s m .TIME_PIN_CFG n 0 (setBit v 24) ∧ F.TIME_PIN_CFG_MODE.ext (s.dev.written .TIME_PIN_CFG n 0 m
      (setBit v 24)).toNat = 2 ∧ s.dev.pinMode n = 2 ∧ s.dev.now8 + 800 < s.dev.pinT n) ∧
    (∃ (s : State) (m n : Nat) (v : Word), Writes s m .TIME_PIN_CFG n 0 (setBit v 24) ∧ F.TIME_PIN_CFG_MODE.ext (s.dev.written .TIME_PIN_CFG n 0 m
      (setBit v 24)).toNat = 2 ∧ s.dev.pinMode n = 2 ∧ s.dev.pinT n ≤ s.dev.now8 + 800) ∧
    (∃ (s : State) (n c : Nat), SMap.find? s.dev.time.pins n = some c ∧ s.dev.pinMode n = 2) ∧
    (∃ (s : State) (n : Nat), s.dev.held = false ∧ s.dev.pinMode n = 1 ∧ s.dev.timeState ≠ 0) ∧
    (∃ (s : State) (n : Nat), s.dev.held = false ∧ s.dev.pinMode n = 4 ∧ s.dev.f F.TIME_PIN_CFG_EDGE n = 1 ∧ SMap.find? s.dev.time.lastEdge n =
      none ∧ (SMap.get s.dev.time.caps n []).length < 16) ∧
    (∃ (s : State) (m n c : Nat) (rest : List Nat), Reaches s m none .TIME_PIN_CAP_NS n 0 ∧ SMap.get s.dev.time.caps n [] = c :: rest) ∧
    (∃ (s : State) (m a : Nat) (v : Word), Writes s m .TIME_ALARM_CFG a 0 (setBit v 31) ∧ s.dev.f F.TIME_ALARM_CFG_OWNER a = 0x3F ∧ s.dev.now8 +
      800 < s.dev.alarmT a ∧ m < 64) ∧
    (∃ (s : State) (m a : Nat) (v : Word), Writes s m .TIME_ALARM_CFG a 0 (clearBit v 31)) ∧
    (∃ (s : State) (a c : Nat), SMap.find? s.dev.time.alarms a = some c) :=
  ⟨⟨svc fun d => (d.setF F.TIME_PIN_CFG_MODE 2 7).setF F.TIME_PIN_T_NS_NS 101 7, 0, 7, 0x44000000, writes_of (by decide +kernel), by
      decide +kernel⟩,
   ⟨svc fun d => (d.setF F.TIME_PIN_CFG_MODE 2 7).setF F.TIME_PIN_T_NS_NS 100 7, 0, 7, 0x44000000, writes_of (by decide +kernel), by decide +kernel⟩,
   ⟨svc fun d => let d := d.setF F.TIME_PIN_CFG_MODE 2 7; { d with time := { d.time with pins := [(7, 808)] } }, 7, 808, by decide +kernel⟩,
   ⟨svc fun d => (atTime d 7 0 |>.setF F.TIME_PIN_CFG_MODE 1 7).setF F.TIME_STATUS_STATE 1, 7, by decide +kernel⟩,
   ⟨svc fun d => (atTime d 7 0 |>.setF F.TIME_PIN_CFG_MODE 4 7).setF F.TIME_PIN_CFG_EDGE 1 7, 7, by decide +kernel⟩,
   ⟨svc fun d => { d with time := { d.time with caps := [(7, [8000])] } }, 0, 7, 8000, [], reaches_of (by decide +kernel), by decide +kernel⟩,
   ⟨svc fun d => (d.setF F.TIME_ALARM_CFG_OWNER 0x3F 15).setF F.TIME_ALARM_T_NS_NS 101 15, 0, 15, 0, writes_of (by decide +kernel), by
     decide +kernel⟩,
   ⟨svc fun d => d.setF F.TIME_ALARM_CFG_OWNER 0 15, 0, 15, 0, writes_of (by decide +kernel)⟩,
   ⟨svc fun d => { d with time := { d.time with alarms := [(15, 8)] } }, 15, 8, by decide +kernel⟩⟩

theorem met_BringUpMovesByStages :
    (∃ (s : State) (e : Nat), e < 1024 ∧ s.dev.on F.PORT_CFG_EN e = true ∧ s.dev.f F.PORT_STATUS_STAGE e = 2) ∧
    (∃ (s : State) (e : Nat), e < 1024 ∧ s.dev.on F.PORT_CFG_EN e = true ∧ s.dev.f F.PORT_STATUS_STAGE e = 3) ∧
    (∃ (s : State) (e k : Nat) (lanes : List LaneIn), e < 1024 ∧ s.dev.on F.PORT_CFG_EN e = true ∧ s.dev.f F.PORT_STATUS_STAGE e = 4 ∧ lanes.length
      = modeLanes (s.dev.mode e) ∧ k < lanes.length ∧ (∀ x, x ∈ lanes → x.signal = true ∧ x.cdr = true ∧ x.adapted = true)) ∧
    (∃ (s : State) (e k : Nat) (lanes : List LaneIn), e < 1024 ∧ s.dev.on F.PORT_CFG_EN e = true ∧ s.dev.f F.PORT_STATUS_STAGE e = 4 ∧ lanes.length
      = modeLanes (s.dev.mode e) ∧ k < lanes.length) ∧
    (∃ (s : State) (e map skew8 : Nat), e < 1024 ∧ s.dev.on F.PORT_CFG_EN e = true ∧ s.dev.f F.PORT_STATUS_STAGE e = 5 ∧ skew8 ≤ 1440 ∧ map < 2 ^
      24) ∧
    (∃ (s : State) (e : Nat), e < 1024 ∧ s.dev.on F.PORT_CFG_EN e = true ∧ s.dev.f F.PORT_STATUS_STAGE e = 8) ∧
    (∃ (s : State) (e : Nat), e < 1024 ∧ s.dev.on F.PORT_CFG_EN e = true ∧ s.dev.on F.PORT_STATUS_LINK_UP e = false ∧ s.dev.domain (e / 16) = 0 ∧
      s.dev.boot.applying = false ∧ s.dev.f F.PORT_STATUS_STAGE e = 3) ∧
    (∃ (s : State) (e : Nat), e < 1024 ∧ s.dev.on F.PORT_CFG_EN e = true ∧ s.dev.on F.PORT_STATUS_LINK_UP e = false ∧ s.dev.domain (e / 16) = 0 ∧
      s.dev.boot.applying = false ∧ s.dev.f F.PORT_STATUS_STAGE e = 4) ∧
    (∃ (s : State) (e : Nat), e < 1024 ∧ s.dev.on F.PORT_CFG_EN e = true ∧ s.dev.on F.PORT_STATUS_LINK_UP e = false ∧ s.dev.domain (e / 16) = 0 ∧
      s.dev.boot.applying = false ∧ s.dev.f F.PORT_STATUS_STAGE e = 5) :=
  ⟨⟨svc fun d => portAt d 2, 1023, by decide +kernel⟩,
   ⟨svc fun d => portAt d 3, 1023, by decide +kernel⟩,
   ⟨svc fun d => portAt d 4, 1023, 0, [⟨true, true, true, 0⟩], by decide +kernel⟩,
   ⟨svc fun d => portAt d 4, 1023, 0, [⟨true, true, false, 0⟩], by decide +kernel⟩,
   ⟨svc fun d => portAt d 5, 1023, 0xFFFFFF, 1440, by decide +kernel⟩,
   ⟨svc fun d => portAt d 8, 1023, by decide +kernel⟩,
   ⟨svc fun d => portAt d 3, 1023, by decide +kernel⟩,
   ⟨svc fun d => portAt d 4, 1023, by decide +kernel⟩,
   ⟨svc fun d => portAt d 5, 1023, by decide +kernel⟩⟩

theorem met_PortsAreEnabledAndDisabled :
    (∃ (s : State) (m e : Nat) (v : Word), Writes s m .PORT_CFG e 0 (setBit v 31) ∧ s.dev.on F.PORT_CFG_EN e = false ∧ s.dev.domain (e / 16) = 0) ∧
    (∃ (s : State) (m e : Nat) (v : Word), Writes s m .PORT_CFG e 0 (setBit v 31) ∧ s.dev.on F.PORT_CFG_EN e = false ∧ s.dev.domain (e / 16) ≠ 0) ∧
    (∃ (s : State) (m e : Nat) (v : Word), Writes s m .PORT_CFG e 0 (clearBit v 31) ∧ s.dev.on F.PORT_CFG_EN e = true) :=
  ⟨⟨svc fun d => (portAt d 0).setF F.PORT_CFG_EN 0 1023, 0, 1023, 0x09000000, writes_of (by decide +kernel), by decide +kernel⟩,
   ⟨svc fun d => ((portAt d 0).setF F.PORT_CFG_EN 0 1023).setF F.PWR_DOM_STAT_STATE 2 63, 0, 1023, 0x09000000, writes_of (by decide +kernel), by
     decide +kernel⟩,
   ⟨svc fun d => portAt d 3, 0, 1023, 1, writes_of (by decide +kernel), by decide +kernel⟩⟩

theorem met_LinksRiseAndFall :
    (∃ (s : State) (e : Nat), e < 1024 ∧ s.dev.on F.PORT_CFG_EN e = true ∧ s.dev.f F.PORT_STATUS_STAGE e = 6) ∧
    (∃ (s : State) (e : Nat), e < 1024 ∧ s.dev.on F.PORT_CFG_EN e = true ∧ s.dev.f F.PORT_STATUS_STAGE e ≠ 6) ∧
    (∃ (s : State) (e : Nat), e < 1024 ∧ s.dev.on F.PORT_CFG_EN e = true ∧ 6 ≤ s.dev.f F.PORT_STATUS_STAGE e ∧ s.dev.f F.PORT_STATUS_STAGE e ≤ 8) ∧
    (∃ (s : State) (e : Nat), e < 1024 ∧ s.dev.on F.PORT_CFG_EN e = true ∧ 6 ≤ s.dev.f F.PORT_STATUS_STAGE e ∧ s.dev.f F.PORT_STATUS_STAGE e ≤ 8) ∧
    (∃ (s : State) (e : Nat), e < 1024 ∧ s.dev.on F.PORT_CFG_EN e = true ∧ (s.dev.f F.PORT_STATUS_STAGE e < 6 ∨ 8 < s.dev.f F.PORT_STATUS_STAGE e)) ∧
    (∃ (s : State) (e c : Nat), e < 1024 ∧ s.dev.on F.PORT_CFG_EN e = true ∧ s.dev.configured e = true ∧ 5 ≤ s.dev.f F.PORT_STATUS_STAGE e ∧
      s.dev.fecOff e = false ∧ s.dev.f F.PORT_FEC_CFG_DEGRADE_SYM e ≠ 0 ∧ s.dev.f F.PORT_FEC_CFG_DEGRADE_SYM e < c) ∧
    (∃ (s : State) (e c : Nat), e < 1024 ∧ s.dev.on F.PORT_CFG_EN e = true ∧ s.dev.configured e = true ∧ 5 ≤ s.dev.f F.PORT_STATUS_STAGE e ∧
      s.dev.fecOff e = false ∧ (s.dev.f F.PORT_FEC_CFG_DEGRADE_SYM e = 0 ∨ c ≤ s.dev.f F.PORT_FEC_CFG_DEGRADE_SYM e)) ∧
    (∃ (s : State) (e : Nat), e < 1024 ∧ s.dev.on F.PORT_CFG_EN e = true ∧ s.dev.configured e = true ∧ 5 ≤ s.dev.f F.PORT_STATUS_STAGE e ∧
      s.dev.fecOff e = true) ∧
    (∃ (s : State) (e : Nat), e < 1024 ∧ s.dev.on F.PORT_CFG_EN e = true ∧ (s.dev.configured e = false ∨ s.dev.f F.PORT_STATUS_STAGE e < 5)) :=
  ⟨⟨svc fun d => portAt d 6, 1023, by decide +kernel⟩,
   ⟨svc fun d => portAt d 5, 1023, by decide +kernel⟩,
   ⟨svc fun d => portAt d 6, 1023, by decide +kernel⟩,
   ⟨svc fun d => portAt d 8, 1023, by decide +kernel⟩,
   ⟨svc fun d => portAt d 5, 1023, by decide +kernel⟩,
   ⟨svc fun d => (portAt d 7).setF F.PORT_FEC_CFG_DEGRADE_SYM 1 1023, 1023, 2, by decide +kernel⟩,
   ⟨svc fun d => (portAt d 7).setF F.PORT_FEC_CFG_DEGRADE_SYM 1 1023, 1023, 1, by decide +kernel⟩,
   ⟨svc fun d => (portAt d 7).setF F.PORT_CFG_FEC_OFF 1 1023, 1023, by decide +kernel⟩,
   ⟨svc fun d => portAt d 4, 1023, by decide +kernel⟩⟩

theorem met_PreemptionIsVerified :
    (∃ (s : State) (e : Nat), e < 1024 ∧ s.dev.on F.PORT_STATUS_LINK_UP e = true ∧ s.dev.f F.PORT_PREEMPT_STAT_STATE e = 2 ∧ s.dev.f
      F.PORT_PREEMPT_STAT_ATTEMPTS e = 0) ∧
    (∃ (s : State) (e : Nat), e < 1024 ∧ s.dev.f F.PORT_PREEMPT_STAT_STATE e = 2 ∧ s.dev.f F.PORT_PREEMPT_STAT_ATTEMPTS e ≠ 0 ∧ s.dev.f
      F.PORT_PREEMPT_STAT_PARTNER_ADDFRAG e = 0) ∧
    (∃ (s : State) (e : Nat), e < 1024 ∧ s.dev.f F.PORT_PREEMPT_STAT_STATE e = 2 ∧ s.dev.f F.PORT_PREEMPT_STAT_ATTEMPTS e ≠ 0 ∧ SMap.get
      s.dev.ports.limit e 0 ≤ s.dev.f F.PORT_PREEMPT_STAT_ATTEMPTS e) ∧
    (∃ (s : State) (e : Nat), e < 1024 ∧ s.dev.on F.PORT_STATUS_LINK_UP e = true) ∧
    (∃ (s : State) (e : Nat), e < 1024 ∧ s.dev.configured e = true ∧ s.dev.f F.PORT_PREEMPT_CFG_MODE e ≠ 1) :=
  ⟨⟨svc fun d => ((portAt d 7).setF F.PORT_STATUS_LINK_UP 1 1023).setF F.PORT_PREEMPT_STAT_STATE 2 1023, 1023, by decide +kernel⟩,
   ⟨svc fun d => ((portAt d 7).setF F.PORT_PREEMPT_STAT_STATE 2 1023).setF F.PORT_PREEMPT_STAT_ATTEMPTS 3 1023, 1023, by decide +kernel⟩,
   ⟨svc fun d => ((portAt d 7).setF F.PORT_PREEMPT_STAT_STATE 2 1023).setF F.PORT_PREEMPT_STAT_ATTEMPTS 3 1023, 1023, by decide +kernel⟩,
   ⟨svc fun d => (portAt d 7).setF F.PORT_STATUS_LINK_UP 1 1023, 1023, by decide +kernel⟩,
   ⟨svc fun d => portAt d 7, 1023, by decide +kernel⟩⟩

theorem met_IdleAndScans :
    (∃ (s : State) (e l : Nat), e < 1024 ∧ l < 1024 ∧ s.dev.on F.PORT_CFG_EN e = true ∧ s.dev.f F.PORT_STATUS_STAGE e = 7 ∧ s.dev.on
      F.PORT_CFG_LPI_TX_EN e = true ∧ s.dev.on F.PORT_STATUS_LPI_TX e = false ∧ s.dev.lineBusy e = false) ∧
    (∃ (s : State) (e l : Nat), e < 1024 ∧ l < 1024 ∧ s.dev.on F.PORT_CFG_EN e = true ∧ s.dev.f F.PORT_STATUS_STAGE e = 7 ∧ s.dev.on
      F.PORT_STATUS_LPI_TX e = true ∧ s.dev.lineBusy e = true) ∧
    (∃ (s : State) (e l : Nat), e < 1024 ∧ l < 1024 ∧ s.dev.on F.PORT_CFG_EN e = true ∧ s.dev.f F.PORT_STATUS_STAGE e = 7 ∧ s.dev.on
      F.PORT_CFG_LPI_RX_EN e = true) ∧
    (∃ (s : State) (m e l : Nat) (v : Word), Writes s m .LANE_SCAN_CFG l 0 (setBit (word (clearBit v 30)) 31) ∧ e < 1024 ∧ l < 1024) ∧
    (∃ (s : State) (m e l err cmp : Nat) (v : Word), Writes s m .LANE_SCAN_CFG l 0 (setBit (word (clearBit v 31)) 30) ∧ e < 1024 ∧ l < 1024 ∧
      s.dev.on F.LANE_SCAN_STAT_BUSY l = true ∧ err ≤ cmp ∧ cmp ≤ 65536) ∧
    (∃ (s : State) (e l err : Nat), e < 1024 ∧ l < 1024 ∧ s.dev.on F.LANE_SCAN_STAT_BUSY l = true ∧ err ≤ 65536) ∧
    (∃ (s : State) (e l err cmp : Nat), e < 1024 ∧ l < 1024 ∧ s.dev.on F.LANE_SCAN_STAT_BUSY l = true ∧ err ≤ cmp ∧ cmp ≤ 65536) :=
  ⟨⟨svc fun d => (portAt d 7).setF F.PORT_CFG_LPI_TX_EN 1 1023, 1023, 0, by decide +kernel⟩,
   ⟨svc fun d => { (portAt d 7).setF F.PORT_STATUS_LPI_TX 1 1023 with egr := { d.egr with onLine := [(1023, 5)] } }, 1023, 0, by decide +kernel⟩,
   ⟨svc fun d => (portAt d 7).setF F.PORT_CFG_LPI_RX_EN 1 1023, 1023, 0, by decide +kernel⟩,
   ⟨svc fun d => (portAt d 7).setF F.LANE_STATUS_CDR_LOCK 1 1023, 0, 0, 1023, 0x10000000, writes_of (by decide +kernel), by decide +kernel⟩,
   ⟨svc fun d => (portAt d 7).setF F.LANE_SCAN_STAT_BUSY 1 1023, 0, 0, 1023, 65535, 65536, 0x10000000, writes_of (by decide +kernel), by
     decide +kernel⟩,
   ⟨svc fun d => (portAt d 7).setF F.LANE_SCAN_STAT_BUSY 1 1023, 0, 1023, 65535, by decide +kernel⟩,
   ⟨svc fun d => (portAt d 7).setF F.LANE_SCAN_STAT_BUSY 1 1023, 0, 1023, 65535, 65536, by decide +kernel⟩⟩

theorem met_DomainsMove :
    (∃ (s : State) (m n st : Nat) (v : Word) (d : Dev), d = s.dev.fresh.putWord .PWR_DOM_CMD n 0 m v.toNat ∧ Writes s m .PWR_DOM_CMD n 0 v.toNat ∧
      n < 96 ∧ s.dev.inTransition n = false ∧ s.dev.pwr.shed.contains n = false ∧ F.PWR_DOM_CMD_STATE.ext (s.dev.written .PWR_DOM_CMD n 0 m
      v.toNat).toNat = st ∧ s.dev.f F.PWR_DOM_STAT_STATE n = 0 ∧ st ≠ 0) ∧
    (∃ (s : State) (m n st : Nat) (v : Word) (d : Dev), d = s.dev.fresh.putWord .PWR_DOM_CMD n 0 m v.toNat ∧ Writes s m .PWR_DOM_CMD n 0 v.toNat ∧
      n < 96 ∧ s.dev.inTransition n = false ∧ s.dev.pwr.shed.contains n = false ∧ F.PWR_DOM_CMD_STATE.ext (s.dev.written .PWR_DOM_CMD n 0 m
      v.toNat).toNat = st ∧ s.dev.f F.PWR_DOM_STAT_STATE n ≠ st ∧ st ≠ 0 ∧ ((64 ≤ n ∧ n ≠ 92) ∨ s.dev.f F.PWR_DOM_STAT_STATE n ≠ 0)) ∧
    (∃ (s : State) (m n st : Nat) (v : Word) (d : Dev), d = s.dev.fresh.putWord .PWR_DOM_CMD n 0 m v.toNat ∧ Writes s m .PWR_DOM_CMD n 0 v.toNat ∧
      n < 96 ∧ s.dev.inTransition n = false ∧ s.dev.pwr.shed.contains n = false ∧ F.PWR_DOM_CMD_STATE.ext (s.dev.written .PWR_DOM_CMD n 0 m
      v.toNat).toNat = st ∧ s.dev.f F.PWR_DOM_STAT_STATE n = st) ∧
    (∃ (s : State) (m n st : Nat) (v : Word) (d : Dev), d = s.dev.fresh.putWord .PWR_DOM_CMD n 0 m v.toNat ∧ Writes s m .PWR_DOM_CMD n 0 v.toNat ∧
      n < 96 ∧ s.dev.inTransition n = false ∧ s.dev.pwr.shed.contains n = false ∧ F.PWR_DOM_CMD_STATE.ext (s.dev.written .PWR_DOM_CMD n 0 m
      v.toNat).toNat = st ∧ s.dev.f F.PWR_DOM_STAT_STATE n ≠ 0 ∧ st = 0) ∧
    (∃ (s : State) (m n st : Nat) (v : Word) (d : Dev), d = s.dev.fresh.putWord .PWR_DOM_CMD n 0 m v.toNat ∧ Writes s m .PWR_DOM_CMD n 0 v.toNat ∧
      n < 96 ∧ s.dev.inTransition n = true ∧ F.PWR_DOM_CMD_STATE.ext (s.dev.written .PWR_DOM_CMD n 0 m v.toNat).toNat = st) ∧
    (∃ (s : State) (m n st : Nat) (v : Word) (d : Dev), d = s.dev.fresh.putWord .PWR_DOM_CMD n 0 m v.toNat ∧ Writes s m .PWR_DOM_CMD n 0 v.toNat ∧
      n < 96 ∧ s.dev.inTransition n = false ∧ s.dev.pwr.shed.contains n = true ∧ F.PWR_DOM_CMD_STATE.ext (s.dev.written .PWR_DOM_CMD n 0 m
      v.toNat).toNat = st ∧ st = 0) ∧
    (∃ (s : State) (m n st : Nat) (v : Word) (d : Dev), d = s.dev.fresh.putWord .PWR_DOM_CMD n 0 m v.toNat ∧ Writes s m .PWR_DOM_CMD n 0 v.toNat ∧
      n < 96 ∧ s.dev.inTransition n = false ∧ s.dev.pwr.shed.contains n = true ∧ F.PWR_DOM_CMD_STATE.ext (s.dev.written .PWR_DOM_CMD n 0 m
      v.toNat).toNat = st ∧ st ≠ 0 ∧ s.dev.f F.PWR_DOM_STAT_STATE n ≠ 0 ∧ s.dev.f F.PWR_DOM_STAT_STATE n ≠ st) ∧
    (∃ (s : State) (n : Nat) (rest : List Nat), n < 96 ∧ s.dev.pwr.wakeQ = n :: rest) ∧
    (∃ (s : State) (n : Nat), n < 96 ∧ s.dev.pwr.wakeQ = []) ∧
    (∃ (s : State) (n st : Nat), n < 96 ∧ SMap.find? s.dev.pwr.moving n = some st ∧ st < 3 ∧ s.dev.pwr.events.length < 64 ∧ SMap.find?
      s.dev.pwr.recorded n = none) ∧
    (∃ (s : State) (n st r : Nat), n < 96 ∧ SMap.find? s.dev.pwr.moving n = some st ∧ st < 3 ∧ s.dev.pwr.events.length < 64 ∧ SMap.find?
      s.dev.pwr.recorded n = some r ∧ s.dev.pwr.shed.contains n = false ∧ s.dev.boot.applying = false ∧ s.dev.pwr.wakeQ.contains n = false) ∧
    (∃ (s : State) (n : Nat), n < 96 ∧ SMap.find? s.dev.pwr.moving n = none) :=
  ⟨⟨(svc id), 0, 79, 2, 0x80000000, _, rfl, writes_of (by decide +kernel), by decide +kernel⟩,
   ⟨(svc id), 0, 79, 2, 0x80000000, _, rfl, writes_of (by decide +kernel), by decide +kernel⟩,
   ⟨svc fun d => d.setF F.PWR_DOM_STAT_STATE 2 79, 0, 79, 2, 0x80000000, _, rfl, writes_of (by decide +kernel), by decide +kernel⟩,
   ⟨svc fun d => d.setF F.PWR_DOM_STAT_STATE 2 79, 0, 79, 0, 0, _, rfl, writes_of (by decide +kernel), by decide +kernel⟩,
   ⟨svc fun d => { d with pwr := { d.pwr with moving := [(79, 2)] } }, 0, 79, 0, 0, _, rfl, writes_of (by decide +kernel), by decide +kernel⟩,
   ⟨svc fun d => { d.setF F.PWR_DOM_STAT_STATE 1 79 with pwr := { d.pwr with shed := [79] } }, 0, 79, 0, 0, _, rfl, writes_of (by decide +kernel),
     by decide +kernel⟩,
   ⟨svc fun d => { d.setF F.PWR_DOM_STAT_STATE 1 79 with pwr := { d.pwr with shed := [79] } }, 0, 79, 2, 0x80000000, _, rfl, writes_of (by
     decide +kernel), by decide +kernel⟩,
   ⟨svc fun d => { d with pwr := { d.pwr with wakeQ := [79, 7] } }, 79, [7], by decide +kernel⟩,
   ⟨(svc id), 79, by decide +kernel⟩,
   ⟨svc fun d => { d with pwr := { d.pwr with moving := [(79, 2)] } }, 79, 2, by decide +kernel⟩,
   ⟨svc fun d => { d with pwr := { d.pwr with moving := [(79, 2)], recorded := [(79, 1)] } }, 79, 2, 1, by decide +kernel⟩,
   ⟨(svc id), 79, by decide +kernel⟩⟩

theorem met_PipesStep :
    (∃ (s : State) (p st t8 : Nat), p < 16 ∧ SMap.find? s.dev.pwr.slowing p = some (st, t8) ∧ t8 ≤ s.dev.now8 ∧ st < 8 ∧ s.dev.pwr.events.length <
      64) ∧
    (∃ (s : State) (p st t8 : Nat), p < 16 ∧ SMap.find? s.dev.pwr.slowing p = some (st, t8) ∧ s.dev.now8 < t8) ∧
    (∃ (s : State) (p : Nat), p < 16 ∧ SMap.find? s.dev.pwr.slowing p = none) ∧
    (∃ (s : State) (p st : Nat) (w : Word), w = (SMap.find? s.dev.pwr.request p).getD (s.dev.get .ADM_PIPE_DERATE p) ∧ p < 16 ∧ SMap.find?
      s.dev.pwr.speeding p = some st ∧ st < 8 ∧ s.dev.pwr.events.length < 64) ∧
    (∃ (s : State) (p : Nat), p < 16 ∧ SMap.find? s.dev.pwr.speeding p = none) ∧
    (∃ (s : State) (p : Nat), p < 16 ∧ s.dev.held = false ∧ s.dev.pwr.droop = false) ∧
    (∃ (s : State) (p : Nat), p < 16 ∧ s.dev.held = false ∧ s.dev.pwr.droop = true) :=
  ⟨⟨svc fun d => { d with pwr := { d.pwr with slowing := [(15, (7, 0))] } }, 15, 7, 0, by decide +kernel⟩,
   ⟨svc fun d => { d with pwr := { d.pwr with slowing := [(15, (7, 1))] } }, 15, 7, 1, by decide +kernel⟩,
   ⟨(svc id), 15, by decide +kernel⟩,
   ⟨svc fun d => { d with pwr := { d.pwr with speeding := [(15, 7)] } }, 15, 7, _, rfl, by decide +kernel⟩,
   ⟨(svc id), 15, by decide +kernel⟩,
   ⟨(svc id), 15, by decide +kernel⟩,
   ⟨svc fun d => { d with pwr := { d.pwr with droop := true } }, 15, by decide +kernel⟩⟩

theorem met_CapsFollowTheSensors :
    (∃ (s : State) (mv b : Nat), mv < 2 ^ 16 ∧ b < 256 ∧ s.dev.held = false) ∧
    (∃ (s : State) (mv b : Nat), mv < 2 ^ 16 ∧ b < 256 ∧ s.dev.held = false ∧ celsius b < 97) ∧
    (∃ (s : State) (mv b : Nat), mv < 2 ^ 16 ∧ b < 256 ∧ s.dev.held = false ∧ 115 ≤ celsius b ∧ s.dev.pwr.hotOnce = [0] ∧ s.dev.tripped = false) ∧
    (∃ (s : State) (mv b : Nat), mv < 2 ^ 16 ∧ b < 256 ∧ s.dev.held = false) ∧
    (∃ (s : State) (mv b die iin : Nat) (d : Dev), d = (((s.dev.fresh.setF F.PWR_POWER_DIE_DW die).setF F.PWR_POWER_IIN_DA
      iin).syncCap).retargetMask 0xFFFF ∧ mv < 2 ^ 16 ∧ b < 256 ∧ s.dev.held = false ∧ die ≤ d.effectiveCap * 10 ∧ d.effectiveCap * 10 - d.f
      F.PWR_CAP_CFG_HYST_W * 10 < die) ∧
    (∃ (s : State) (c : Instr), (c = .throttle ∨ c = .droopStretch ∨ (∃ mv, c = .vinSample mv) ∨ (∃ x, c = .thermalSample x) ∨ (∃ n, c = .timeTick
      n)) ∧ s.dev.held = true) ∧
    (∃ (s : State) (lg pp bq hb other : List Nat), lg.length = 64 ∧ pp.length = 16 ∧ bq.length = 4 ∧ hb.length = 8 ∧ other.length = 5 ∧ s.dev.held
      = false) :=
  ⟨⟨(svc id), 65535, 0, by decide +kernel⟩,
   ⟨(svc id), 0, 96, by decide +kernel⟩,
   ⟨svc fun d => { d with pwr := { d.pwr with hotOnce := [0] } }, 0, 115, by decide +kernel⟩,
   ⟨(svc id), 0, 0, by decide +kernel⟩,
   ⟨(svc id), 0, 0, 15400, 0, _, rfl, by decide +kernel⟩,
   ⟨svc fun d => { d with boot := { d.boot with inReset := true } }, .throttle, .inl rfl, by decide +kernel⟩,
   ⟨(svc id), List.replicate 64 1, List.replicate 16 1, List.replicate 4 1, List.replicate 8 1, List.replicate 5 1, by decide +kernel⟩⟩

theorem met_HintsAreQueued :
    (∃ (s : State) (m : Nat) (v : Word) (h : Hint), Writes s m .PWR_HINT_PUSH 0 0 (setBit v 31) ∧ bit v.toNat 30 = false ∧ s.dev.pwr.hints.length <
      16 ∧ h = ⟨s.dev.regTime .PWR_HINT_START_NS .PWR_HINT_START_SEC_LO .PWR_HINT_START_SEC_HI, s.dev.f F.PWR_HINT_DURATION_MS, s.dev.f
      F.PWR_HINT_LOAD_PIPES, s.dev.f F.PWR_HINT_LOAD_PCT, false⟩ ∧ s.dev.now8 < h.start8) ∧
    (∃ (s : State) (m : Nat) (v : Word), Writes s m .PWR_HINT_PUSH 0 0 (setBit v 31) ∧ bit v.toNat 30 = false ∧ 16 ≤ s.dev.pwr.hints.length) ∧
    (∃ (s : State) (m : Nat) (v : Word), Writes s m .PWR_HINT_PUSH 0 0 (setBit v 30) ∧ bit v.toNat 31 = false) ∧
    (∃ (s : State) (h : Hint) (rest : List Hint), s.dev.pwr.hints = h :: rest ∧ h.active = false ∧ h.start8 ≤ s.dev.now8 + s.dev.f
      F.PWR_HINT_CFG_LEAD_US * 8000 ∧ h ∉ rest) ∧
    (∃ (s : State) (h : Hint) (rest : List Hint), s.dev.pwr.hints = h :: rest ∧ h.end8 ≤ s.dev.now8) ∧
    (∃ (s : State) (m : Nat) (a b c e : Word) (more : List (List Word)), Reaches s m none .PWR_EVT_POP0 0 0 ∧ s.dev.pwr.events = [a, b, c, e] ::
      more) :=
  ⟨⟨svc fun d => d.setF F.PWR_HINT_START_NS_NS 1, 0, 0, ⟨8, 0, 0, 0, false⟩, writes_of (by decide +kernel), by decide +kernel⟩,
   ⟨svc fun d => { d with pwr := { d.pwr with hints := List.replicate 16 ⟨8, 0, 0, 0, false⟩ } }, 0, 0, writes_of (by decide +kernel), by
     decide +kernel⟩,
   ⟨(svc id), 0, 0, writes_of (by decide +kernel), by decide +kernel⟩,
   ⟨svc fun d => { d.setF F.PWR_HINT_CFG_LEAD_US 1 with pwr := { d.pwr with hints := [⟨8, 1, 1, 50, false⟩] } }, ⟨8, 1, 1, 50, false⟩, [], by
     decide +kernel⟩,
   ⟨svc fun d => { d with pwr := { d.pwr with hints := [⟨0, 0, 1, 50, true⟩] } }, ⟨0, 0, 1, 50, true⟩, [], by decide +kernel⟩,
   ⟨svc fun d => { d with pwr := { d.pwr with events := [[1, 2, 3, 4]] } }, 0, 1, 2, 3, 4, [], reaches_of (by decide +kernel), by decide +kernel⟩⟩

theorem met_TraceRingIsWrittenAndRead :
    (∃ (s : State) (m : Nat) (v : Word) (d : Dev), d = s.dev.fresh.putWord .TEL_CTRL 0 0 m v.toNat ∧ Writes s m .TEL_CTRL 0 0 v.toNat ∧ (d.ringOn =
      true ∧ (s.dev.ringOn = true ∨ s.dev.tel.blocks ≠ []) ∨ d.ringOn = false ∧ s.dev.ringInFlight = true)) ∧
    (∃ (s : State) (m : Nat) (v : Word) (d : Dev), d = s.dev.fresh.putWord .TEL_CTRL 0 0 m v.toNat ∧ Writes s m .TEL_CTRL 0 0 v.toNat ∧ d.ringOn =
      false ∧ s.dev.ringInFlight = false) ∧
    (∃ (s : State) (m : Nat) (v : Word) (d : Dev), d = s.dev.fresh.putWord .TEL_CTRL 0 0 m v.toNat ∧ Writes s m .TEL_CTRL 0 0 v.toNat ∧ d.ringOn =
      true ∧ s.dev.ringOn = false ∧ s.dev.tel.blocks = [] ∧ s.dev.f F.BUF_POOL_FREE_FREE 3 = 0 ∧ 0 < s.dev.f F.TEL_RING_CFG_BLOCKS) ∧
    (∃ (s : State) (m : Nat) (lo hi : Word), ReachesWide s m (some lo.toNat) (offsetFor m (Reg.off .TEL_RING_RELPOS)) .TEL_RING_RELPOS 0 false ∧
      ReachesWide s m (some hi.toNat) (offsetFor m (Reg.off .TEL_RING_RELPOS) + 4) .TEL_RING_RELPOS 0 true ∧ s.dev.q .TEL_RING_RELPOS ≤ hi.toNat *
      2 ^ 32 + lo.toNat ∧ hi.toNat * 2 ^ 32 + lo.toNat ≤ s.dev.q .TEL_RING_WRPOS) ∧
    (∃ (s : State) (m a : Nat), a = s.dev.ringAddr (s.dev.q .TEL_RING_RD_POS 0 0 0 m) ∧ Reaches s m none .TEL_RING_RD_DATA0 0 0 ∧ s.dev.tel.blocks
      ≠ [] ∧ s.dev.q .TEL_RING_RELPOS ≤ s.dev.q .TEL_RING_RD_POS 0 0 0 m ∧ s.dev.q .TEL_RING_RD_POS 0 0 0 m < s.dev.q .TEL_RING_WRPOS ∧
      s.dev.knownBad a 32 = false) ∧
    (∃ (s : State) (m a : Nat), a = s.dev.ringAddr (s.dev.q .TEL_RING_RD_POS 0 0 0 m) ∧ Reaches s m none .TEL_RING_RD_DATA0 0 0 ∧ s.dev.tel.blocks
      ≠ [] ∧ s.dev.q .TEL_RING_RELPOS ≤ s.dev.q .TEL_RING_RD_POS 0 0 0 m ∧ s.dev.q .TEL_RING_RD_POS 0 0 0 m < s.dev.q .TEL_RING_WRPOS ∧
      s.dev.knownBad a 32 = true) ∧
    (∃ (s : State) (m : Nat), Reaches s m none .TEL_RING_RD_DATA0 0 0 ∧ s.dev.q .TEL_RING_WRPOS ≤ s.dev.q .TEL_RING_RD_POS 0 0 0 m) :=
  ⟨⟨svc fun d => d.setF F.TEL_CTRL_TRACE_EN 1, 0, word (2 ^ F.TEL_CTRL_TRACE_EN.lo), _, rfl, writes_of (by decide +kernel), by decide +kernel⟩,
   ⟨svc fun d => d.setF F.TEL_CTRL_TRACE_EN 1, 0, 0, _, rfl, writes_of (by decide +kernel), by decide +kernel⟩,
   ⟨svc fun d => (d.setF F.BUF_POOL_FREE_FREE 0 3).setF F.TEL_RING_CFG_BLOCKS 1, 0, word (2 ^ F.TEL_CTRL_TRACE_EN.lo), _, rfl, writes_of (by
     decide +kernel), by decide +kernel⟩,
   ⟨(svc id), 0, 0, 0, reachesWide_of (by decide +kernel), reachesWide_of (by decide +kernel), by decide +kernel⟩,
   ⟨svc fun d => { d.setQ .TEL_RING_WRPOS 1 with tel := { d.tel with blocks := [0] } }, 0, _, rfl, reaches_of (by decide +kernel), by
     decide +kernel⟩,
   ⟨svc fun d => let d := { d.setQ .TEL_RING_WRPOS 1 with tel := { d.tel with blocks := [0] } };
     { d with hbm := { d.hbm with bad := [d.ringAddr 0 / 8] } }, 0, _, rfl, reaches_of (by decide +kernel), by decide +kernel⟩,
   ⟨(svc id), 0, reaches_of (by decide +kernel), by decide +kernel⟩⟩

theorem met_CountersAndWindowsRead :
    (∃ (s : State) (m n : Nat) (v : Word), Writes s m .TEL_HIST_CFG n 0 v.toNat ∧ bit v.toNat 31 = true) ∧
    (∃ (s : State) (m : Nat) (v : Word), Writes s m .TEL_SNAP 0 0 (setBit v 31)) ∧
    (∃ (s : State) (m : Nat) (v : Word), Writes s m .TEL_PC_CLEAR 0 0 (setBit v 31)) ∧
    (∃ (s : State) (m k : Nat), Reaches s m none .TEL_PC k 0 ∧ s.dev.on F.TEL_PC_CFG_CHAIN k = false) ∧
    (∃ (s : State) (m : Nat) (v : Word), Writes s m .TEL_DESC_SEL 0 0 v.toNat ∧ (∀ x, x ∈ s.dev.copyList → x.desc ≠ some (F.TEL_DESC_SEL_INDEX.ext
      (s.dev.written .TEL_DESC_SEL 0 0 m v.toNat).toNat))) ∧
    (∃ (s : State) (m : Nat) (v : Word) (c : Copy), Writes s m .TEL_DESC_SEL 0 0 v.toNat ∧ s.dev.copyList.find? (fun x => x.desc == some
      (F.TEL_DESC_SEL_INDEX.ext (s.dev.written .TEL_DESC_SEL 0 0 m v.toNat).toNat)) = some c) :=
  ⟨⟨(svc id), 0, 31, 0x80000000, writes_of (by decide +kernel), by decide +kernel⟩,
   ⟨(svc id), 0, 0, writes_of (by decide +kernel)⟩,
   ⟨(svc id), 0, 1023, writes_of (by decide +kernel)⟩,
   ⟨(svc id), 0, 1023, reaches_of (by decide +kernel), by decide +kernel⟩,
   ⟨(svc id), 0, 0xFFFFFFFF, writes_of (by decide +kernel), by decide +kernel⟩,
   ⟨svc fun d => hold1 d { cp 3 0 with desc := some 3 }, 0, 3, { cp 3 0 with desc := some 3 }, writes_of (by decide +kernel), by decide +kernel⟩⟩

theorem met_IvlPortsComeUp :
    (∃ (s : State) (k : Nat), s.dev.ivlActive k = true ∧ s.dev.ivlStage k = 2 ∧ s.dev.ivlCarrier k = none) ∧
    (∃ (s : State) (k e : Nat), s.dev.ivlActive k = true ∧ s.dev.ivlStage k = 2 ∧ s.dev.ivlCarrier k = some e ∧ s.dev.linkUp e = true) ∧
    (∃ (s : State) (k : Nat), s.dev.ivlActive k = true ∧ s.dev.ivlStage k = 2 ∧ s.dev.ivlUp k = false) ∧
    (∃ (s : State) (k skew : Nat), s.dev.ivlActive k = true ∧ s.dev.ivlStage k = 3 ∧ skew ≤ 8 ∧ s.dev.on F.IVL_PORT_CFG_AUTO_POL k = true) ∧
    (∃ (s : State) (k : Nat), s.dev.ivlActive k = true ∧ s.dev.ivlStage k = 3 ∧ s.dev.ivlUp k = false) ∧
    (∃ (s : State) (k : Nat), s.dev.ivlActive k = true ∧ s.dev.ivlStage k = 5 ∧ s.dev.on F.IVL_PORT_STATUS_RX_SLEEP k = true) ∧
    (∃ (s : State) (k : Nat), s.dev.ivlActive k = true ∧ s.dev.ivlStage k = 5 ∧ s.dev.on F.IVL_PORT_STATUS_RX_SLEEP k = false) :=
  ⟨⟨svc fun d => ivlUp d 3 2, 3, by decide +kernel⟩,
   ⟨svc fun d => (((ivlUp d 3 2).setF F.IVL_PORT_CFG_CARRIER 1 3).setF F.IVL_PORT_CFG_ETH_PORT 1023 3).setF F.PORT_STATUS_LINK_UP 1 1023, 3, 1023,
     by decide +kernel⟩,
   ⟨svc fun d => ivlUp d 3 2, 3, by decide +kernel⟩,
   ⟨svc fun d => (ivlUp d 3 3).setF F.IVL_PORT_CFG_AUTO_POL 1 3, 3, 8, by decide +kernel⟩,
   ⟨svc fun d => ivlUp d 3 3, 3, by decide +kernel⟩,
   ⟨svc fun d => (ivlUp d 3 5).setF F.IVL_PORT_STATUS_RX_SLEEP 1 3, 3, by decide +kernel⟩,
   ⟨svc fun d => ivlUp d 3 5, 3, by decide +kernel⟩⟩

theorem met_IvlPortsSleepAndAgree :
    (∃ (s : State) (k : Nat), s.dev.ivlActive k = true ∧ s.dev.ivlCarrier k = none ∧ s.dev.ivlStage k = 5 ∧ s.dev.on F.IVL_PORT_CFG_SLEEP_TX_EN k =
      true ∧ s.dev.ivlQueue k = []) ∧
    (∃ (s : State) (k : Nat), s.dev.ivlActive k = true ∧ s.dev.ivlCarrier k = none ∧ s.dev.ivlStage k = 5 ∧ s.dev.on F.IVL_PORT_STATUS_TX_SLEEP k =
      true ∧ s.dev.ivlQueue k ≠ []) ∧
    (∃ (s : State) (k : Nat), s.dev.ivlActive k = true ∧ s.dev.ivlCarrier k = none ∧ s.dev.ivlStage k = 5) ∧
    (∃ (s : State) (k : Nat), s.dev.ivlActive k = true ∧ s.dev.ivlCarrier k = none ∧ s.dev.ivlStage k = 4 ∧ s.dev.ivl.heard.contains k = true) ∧
    (∃ (s : State) (k : Nat), s.dev.ivlActive k = true ∧ s.dev.ivlCarrier k = none ∧ s.dev.ivlStage k = 4 ∧ s.dev.ivl.heard.contains k = false ∧
      s.dev.on F.IVL_PORT_STATUS_TX_SLEEP k = false) ∧
    (∃ (s : State) (k v : Nat) (msg : IvlMsg), s.dev.ivlActive k = true ∧ s.dev.ivlCarrier k = none ∧ s.dev.ivlStage k = 4 ∧ s.dev.ivlTakes k 4 1
      msg = true ∧ v = agreed (beAt msg.body 0 2) (s.dev.f F.IVL_CTRL_VER_MASK) ∧ v ≠ 0) :=
  ⟨⟨svc fun d => (ivlUp d 3 5).setF F.IVL_PORT_CFG_SLEEP_TX_EN 1 3, 3, by decide +kernel⟩,
   ⟨svc fun d => ((ivlUp d 3 5).setF F.IVL_PORT_STATUS_TX_SLEEP 1 3).setIvlQueue 3 [(0, [1, 2])], 3, by decide +kernel⟩,
   ⟨svc fun d => ivlUp d 3 5, 3, by decide +kernel⟩,
   ⟨svc fun d => let d := ivlUp d 3 4; { d with ivl := { d.ivl with heard := [3] } }, 3, by decide +kernel⟩,
   ⟨svc fun d => ivlUp d 3 4, 3, by decide +kernel⟩,
   ⟨svc fun d => (ivlUp d 3 4).setF F.IVL_CTRL_VER_MASK 3, 3, 2, im 4 1 0x3FFFF (be 2 3 ++ be 10 0), by decide +kernel⟩⟩

theorem met_TimeIsExchanged :
    (∃ (s : State) (k id : Nat), s.dev.ivlActive k = true ∧ s.dev.ivlStage k = 5 ∧ s.dev.ivlCarrier k = none ∧ s.dev.on F.IVL_PORT_STATUS_TX_SLEEP
      k = false ∧ 1 ≤ s.dev.ivlVersion k ∧ s.dev.on F.IVL_PORT_CFG_FOLLOW k = true ∧ s.dev.ivl.exchangeId = id ∧ id < 65536) ∧
    (∃ (s : State) (k : Nat) (msg : IvlMsg), s.dev.ivlActive k = true ∧ s.dev.ivlStage k = 5 ∧ s.dev.ivlCarrier k = none ∧ s.dev.on
      F.IVL_PORT_STATUS_TX_SLEEP k = false ∧ 1 ≤ s.dev.ivlVersion k ∧ s.dev.ivlTakes k 1 1 msg = true) ∧
    (∃ (s : State) (k id : Nat) (msg : IvlMsg) (x : Exchange), s.dev.ivlActive k = true ∧ s.dev.ivlStage k = 5 ∧ s.dev.ivlCarrier k = none ∧
      s.dev.on F.IVL_PORT_STATUS_TX_SLEEP k = false ∧ 1 ≤ s.dev.ivlVersion k ∧ s.dev.ivlTakes k 1 2 msg = true ∧ id = beAt msg.body 0 2 ∧
      SMap.find? s.dev.ivl.exchanges (k * 65536 + id) = some x ∧ (SMap.get s.dev.ivl.results k []).length < 16) ∧
    (∃ (s : State) (k id : Nat) (x : Exchange), s.dev.ivl.exchanges = [(k * 65536 + id, x)] ∧ id < 65536) ∧
    (∃ (s : State) (m k : Nat) (a b c d e f g h : Word) (rest : List (List Word)), Reaches s m none .IVL_TT_POP0 k 0 ∧ SMap.get s.dev.ivl.results k
      [] = [a, b, c, d, e, f, g, h] :: rest) :=
  ⟨⟨svc fun d => let d := (ivlUp d 3 5).setF F.IVL_PORT_CFG_FOLLOW 1 3; { d with ivl := { d.ivl with exchangeId := 65535 } }, 3, 65535, by
      decide +kernel⟩,
   ⟨svc fun d => atTime (ivlUp d 3 5) 7 1000, 3, im 1 1 9 (be 2 65535 ++ be 2 0), by decide +kernel⟩,
   ⟨svc fun d => let d := (ivlUp d 3 5).setF F.IVL_PORT_CFG_FOLLOW 1 3; { d with ivl := { d.ivl with exchanges := [(262143, ⟨65535, 0, 0⟩)] } }, 3,
     65535, im 1 2 9 (be 2 65535 ++ be 34 0), ⟨65535, 0, 0⟩, by decide +kernel⟩,
   ⟨svc fun d => { d with ivl := { d.ivl with exchanges := [(262143, ⟨65535, 0, 0⟩)] } }, 3, 65535, ⟨65535, 0, 0⟩, by decide +kernel⟩,
   ⟨svc fun d => { d with ivl := { d.ivl with results := [(3, [[1, 2, 3, 4, 5, 6, 7, 8]])] } }, 0, 3, 1, 2, 3, 4, 5, 6, 7, 8, [], reaches_of (by
     decide +kernel), by decide +kernel⟩⟩

theorem met_IvlMessagesAreConsumed :
    (∃ (s : State) (k : Nat) (bs : List Byte), s.dev.ivlActive k = true ∧ s.dev.ivlStage k = 5 ∧ s.dev.ivlCarrier k = none ∧ 20 + beAt bs 10 2 ≤
      bs.length ∧ crc32Field (bs.take (16 + beAt bs 10 2)) ≠ slice bs (16 + beAt bs 10 2) 4) ∧
    (∃ (s : State) (k : Nat) (bs : List Byte) (msg : IvlMsg), msg = ivlParse bs ∧ s.dev.ivlActive k = true ∧ s.dev.ivlStage k = 5 ∧
      s.dev.ivlCarrier k = none ∧ 20 + beAt bs 10 2 ≤ bs.length ∧ crc32Field (bs.take (16 + beAt bs 10 2)) = slice bs (16 + beAt bs 10 2) 4 ∧
      msg.cls = 2 ∧ msg.typ = 4 ∧ beAt bs 10 2 = 12 ∧ 1 ≤ s.dev.ivlVersion k ∧ msg.dst = s.dev.devNum ∧ msg.dst ≠ broadcast) ∧
    (∃ (s : State) (k e : Nat) (bs : List Byte) (msg : IvlMsg), msg = ivlParse (bs.drop 14) ∧ s.dev.ivlActive k = true ∧ s.dev.ivlStage k = 5 ∧ e <
      1024 ∧ s.dev.mayArrive e = true ∧ s.dev.on F.IVL_ETH_PORT_RX_EN e = true ∧ (upto 4).find? (fun k => s.dev.ivlCarrier k == some e &&
      (s.dev.ivlInStage k 4 || s.dev.ivlInStage k 5)) = some k ∧ s.dev.domain 92 = 0 ∧ beAt bs 12 2 = s.dev.f F.IVL_ETH_CFG_ETYPE ∧ 20 + beAt
      (bs.drop 14) 10 2 ≤ (bs.drop 14).length ∧ crc32Field ((bs.drop 14).take 28) = slice (bs.drop 14) 28 4 ∧ beAt (bs.drop 14) 10 2 = 12 ∧ msg.cls
      = 2 ∧ msg.typ = 4 ∧ 1 ≤ s.dev.ivlVersion k ∧ msg.dst = s.dev.devNum ∧ msg.dst ≠ broadcast) ∧
    (∃ (s : State) (k : Nat) (msg : IvlMsg), s.dev.ivlActive k = true ∧ s.dev.ivlStage k = 5 ∧ s.dev.ivlTakes k 2 4 msg = true ∧ msg.dst =
      s.dev.devNum ∧ msg.dst ≠ broadcast) ∧
    (∃ (s : State) (k : Nat) (msg : IvlMsg), s.dev.ivlActive k = true ∧ s.dev.ivlStage k = 5 ∧ s.dev.ivlTakes k 2 6 msg = true ∧ msg.dst =
      s.dev.devNum ∧ msg.dst ≠ broadcast) ∧
    (∃ (s : State) (k p : Nat) (msg : IvlMsg), s.dev.ivlActive k = true ∧ s.dev.ivlStage k = 5 ∧ s.dev.ivlTakes k 2 5 msg = true ∧ msg.dst =
      s.dev.devNum ∧ msg.dst ≠ broadcast ∧ s.dev.ivlRoute msg.src = some p ∧ s.dev.ivlActive p = true ∧ s.dev.ivlStage p = 5 ∧ s.dev.ivlCarrier p =
      none ∧ s.dev.on F.IVL_PORT_STATUS_TX_SLEEP p = false ∧ 2 ≤ s.dev.ivlVersion p) ∧
    (∃ (s : State) (k p : Nat) (msg : IvlMsg), Reaches s (mIVL0 + k) none .ID_IDENTITY 0 0 ∧ s.dev.ivlActive k = true ∧ s.dev.ivlStage k = 5 ∧
      s.dev.ivlTakes k 2 1 msg = true ∧ msg.dst = s.dev.devNum ∧ msg.dst ≠ broadcast ∧ s.dev.serving = true ∧ beAt msg.body 8 2 = 1 ∧ beAt msg.body
      4 4 = 0 ∧ SMap.find? s.dev.regs 0 = none ∧ s.dev.ivlRoute msg.src = some p ∧ s.dev.ivlActive p = true ∧ s.dev.ivlStage p = 5 ∧
      s.dev.ivlCarrier p = none ∧ s.dev.on F.IVL_PORT_STATUS_TX_SLEEP p = false ∧ 1 ≤ s.dev.ivlVersion p) ∧
    (∃ (s : State) (k i : Nat) (msg : IvlMsg), Reaches s (mIVL0 + k) (some 0) .BAT i 0 ∧ s.dev.ivlActive k = true ∧ s.dev.ivlStage k = 5 ∧
      s.dev.ivlTakes k 2 2 msg = true ∧ msg.dst = s.dev.devNum ∧ msg.dst ≠ broadcast ∧ s.dev.serving = true ∧ beAt msg.body 8 2 = 1 ∧ beAt msg.body
      12 4 = 0 ∧ beAt msg.body 4 4 = Reg.off .BAT i ∧ s.dev.batonOwner i = some (mIVL0 + k)) :=
  ⟨⟨svc ivlFull, 3, List.replicate 36 0, by decide +kernel⟩,
   ⟨svc ivlFull, 3, nakBytes, _, rfl, by decide +kernel⟩,
   ⟨svc fun d => ((((((ivlFull d).setF F.IVL_PORT_CFG_CARRIER 1 3).setF F.IVL_PORT_CFG_ETH_PORT 1023 3).setF F.PORT_STATUS_LINK_UP 1 1023).setF
     F.PORT_CFG_MODE 1 1023).setF F.IVL_ETH_PORT_RX_EN 1 1023).setF F.IVL_ETH_CFG_ETYPE 0x88B5, 3, 1023, List.replicate 12 0 ++ be 2 0x88B5 ++
     nakBytes, _, rfl, by decide +kernel⟩,
   ⟨svc ivlFull, 3, im 2 4 9 (List.replicate 12 0), by decide +kernel⟩,
   ⟨svc ivlFull, 3, im 2 6 9 (List.replicate 240 1), by decide +kernel⟩,
   ⟨svc ivlFull, 3, 3, im 2 5 9 (List.replicate 240 1), by decide +kernel⟩,
   ⟨svc ivlFull, 3, 3, im 2 1 9 (be 8 0 ++ be 2 1 ++ be 2 0), reaches_of (by decide +kernel), by decide +kernel⟩,
   ⟨svc fun d => (ivlFull d).setBatons [(255, 0x2B)], 3, 255, im 2 2 9 (be 4 0 ++ be 4 (Reg.off .BAT 255) ++ be 2 1 ++ be 2 0 ++ be 4 0),
     reaches_of (by decide +kernel), by decide +kernel⟩⟩

theorem met_EnvelopeNoticesArrive :
    (∃ (s : State) (k typ : Nat) (msg : IvlMsg), s.dev.ivlTakes k 3 typ msg = true ∧ (typ = 1 ∨ typ = 2) ∧ msg.dst = broadcast ∧ msg.hop ≤ 1 ∧
      s.dev.ivl.envRing.length < 64 ∧ s.dev.ivlSeen msg.src msg.seq = false) ∧
    (∃ (s : State) (k typ : Nat) (msg : IvlMsg), s.dev.ivlTakes k 3 typ msg = true ∧ (typ = 1 ∨ typ = 2) ∧ msg.dst = broadcast ∧ msg.hop ≤ 1 ∧
      s.dev.ivl.envRing.length < 64 ∧ s.dev.ivlSeen msg.src msg.seq = true) ∧
    (∃ (s : State) (x : EnvDue) (more : List EnvDue), s.dev.ivl.envDue = x :: more) ∧
    (∃ (s : State) (x : EnvDue) (more : List EnvDue), s.dev.ivl.envDue = x :: more ∧ (s.dev.on F.IVL_CTRL_EN = false ∨ s.dev.domain 92 ≠ 0)) ∧
    (∃ (s : State) (k : Nat) (x : EnvDue) (more : List EnvDue), s.dev.ivl.envDue = x :: more ∧ s.dev.on F.IVL_CTRL_EN = true ∧ s.dev.domain 92 = 0
      ∧ x.lanes.filter s.dev.ivlUp = [k] ∧ s.dev.ivlActive k = true ∧ s.dev.ivlStage k = 5 ∧ s.dev.ivlVersion k = 2 ∧ s.dev.ivlCarrier k = none ∧
      s.dev.on F.IVL_PORT_STATUS_TX_SLEEP k = false ∧ x.eths.filter s.dev.linkUp = []) ∧
    (∃ (s : State) (m : Nat) (a b c d e f g h i : Word) (rest : List (List Word)), Reaches s m none .IVL_ENV_POP0 0 0 ∧ s.dev.ivl.envRing = [a, b,
      c, d, e, f, g, h, i] :: rest) :=
  ⟨⟨svc ivlFull, 3, 2, im 3 2 broadcast (List.replicate 28 0), by decide +kernel⟩,
   ⟨svc fun d => (ivlFull d).ivlRemember 5 77, 3, 1, im 3 1 broadcast (List.replicate 28 0), by decide +kernel⟩,
   ⟨svc fun d => let d := ivlFull d; { d with ivl := { d.ivl with envDue := [⟨true, List.replicate 28 0, [3], []⟩] } }, ⟨true, List.replicate 28 0,
     [3], []⟩, [], by decide +kernel⟩,
   ⟨svc fun d => { d with ivl := { d.ivl with envDue := [⟨true, List.replicate 28 0, [3], []⟩] } }, ⟨true, List.replicate 28 0, [3], []⟩, [], by
     decide +kernel⟩,
   ⟨svc fun d => let d := (ivlFull d).setF F.IVL_PORT_STATUS_LINK_UP 1 3;
     { d with ivl := { d.ivl with envDue := [⟨true, List.replicate 28 0, [3], []⟩] } }, 3, ⟨true, List.replicate 28 0, [3], []⟩, [], by
     decide +kernel⟩,
   ⟨svc fun d => { d with ivl := { d.ivl with envRing := [[1, 2, 3, 4, 5, 6, 7, 8, 9]] } }, 0, 1, 2, 3, 4, 5, 6, 7, 8, 9, [], reaches_of (by
     decide +kernel), by decide +kernel⟩⟩

theorem met_SessionsAreReadAndWritten :
    (∃ (s : State) (m n : Nat), Writes s m .EV_SESS_CMD 0 0 1 ∧ s.dev.sessSel m = n) ∧
    (∃ (s : State) (m n : Nat), Writes s m .EV_SESS_CMD 0 0 2 ∧ s.dev.sessSel m = n ∧ beAt (s.dev.sessStaged m) 2 2 ≤ 16367 ∧ ((s.dev.session n).en
      = false ∨ ((s.dev.session n).withConfig (s.dev.sessStaged m)).partition = (s.dev.session n).partition)) ∧
    (∃ (s : State) (m n : Nat), Writes s m .EV_SESS_CMD 0 0 3 ∧ s.dev.sessSel m = n ∧ (s.dev.session n).en = false) :=
  ⟨⟨svc fun d => d.setF F.EV_SESS_SEL_SESSION 16367 0 0 0 0, 0, 16367, writes_of (by decide +kernel), by decide +kernel⟩,
   ⟨svc fun d => ((d.setF F.EV_SESS_SEL_SESSION 16367 0 0 0 0).set .EV_SESS_DATA 0x80010001 0 0 0 0).updSession 3 fun x => { x with frames := 1 },
     0, 16367, writes_of (by decide +kernel), by decide +kernel⟩,
   ⟨svc fun d => (d.setF F.EV_SESS_SEL_SESSION 16367 0 0 0 0).updSession 16367 fun x => { x with frames := 1 }, 0, 16367, writes_of (by
     decide +kernel), by decide +kernel⟩⟩

theorem met_RecordsAreNumberedAndSent :
    (∃ (s : State) (x : Closed) (rest : List Closed), s.dev.ev.closeList = x :: rest ∧ s.dev.entryLost x = true) ∧
    (∃ (s : State) (x : Closed) (rest : List Closed), s.dev.ev.closeList = x :: rest ∧ s.dev.entryLost x = false ∧ s.dev.q .EV_REC_NUM + 1 < 2 ^ 64) ∧
    (∃ (s : State) (k n p : Nat) (r : List (Nat × Nat)), k < 64 ∧ s.dev.on F.EV_STR_CFG_EN k = true ∧ (s.dev.stream k).gaps = (p, n) :: r) ∧
    (∃ (s : State) (k n p : Nat) (r : List (Nat × Nat)), k < 64 ∧ s.dev.on F.EV_STR_CFG_EN k = true ∧ (s.dev.stream k).gaps = [] ∧ (s.dev.stream
      k).resend = (p, n) :: r ∧ n ≤ 22 ∧ s.dev.q .EV_PART_WRPOS k ≤ p + s.dev.jrnCapacity k ∧ (∀ i, i < n → s.dev.knownBad (s.dev.jrnAddr k (p +
      i)) 64 = false)) ∧
    (∃ (s : State) (k n p : Nat), p = s.dev.q .EV_STR_SENDPOS k ∧ n = min 22 (s.dev.sendLimit k - p) ∧ k < 64 ∧ s.dev.on F.EV_STR_CFG_EN k = true ∧
      (s.dev.stream k).gaps = [] ∧ (s.dev.stream k).resend = [] ∧ 0 < n ∧ p + n < 2 ^ 64 ∧ (∀ i, i < n → s.dev.knownBad (s.dev.jrnAddr k (p + i))
      64 = false)) ∧
    (∃ (s : State) (k : Nat), k < 64 ∧ (s.dev.on F.EV_STR_CFG_EN k = false ∨ ((s.dev.stream k).gaps = [] ∧ (s.dev.stream k).resend = [] ∧
      s.dev.sendLimit k ≤ s.dev.q .EV_STR_SENDPOS k))) ∧
    (∃ (s : State) (k : Nat) (c : Collector), collectorPart c 0x81 = some k ∧ s.dev.collectorOk k c = true ∧ s.dev.q .EV_PART_RELPOS k ≤ beAt
      c.body 8 8 ∧ beAt c.body 8 8 ≤ s.dev.q .EV_PART_WRPOS k) ∧
    (∃ (s : State) (k : Nat) (c : Collector), collectorPart c 0x81 = some k ∧ (s.dev.collectorOk k c = false ∨ s.dev.q .EV_PART_WRPOS k < beAt
      c.body 8 8)) ∧
    (∃ (s : State) (k : Nat) (c : Collector), collectorPart c 0x82 = some k ∧ s.dev.collectorOk k c = true ∧ beAt c.body 8 8 < s.dev.q
      .EV_PART_WRPOS k ∧ 0 < beAt c.body 16 8 ∧ beAt c.body 16 8 ≤ 65536 ∧ s.dev.q .EV_PART_WRPOS k ≤ beAt c.body 8 8 + s.dev.jrnCapacity k) ∧
    (∃ (s : State) (k sl num ep : Nat) (more : List (Nat × Nat × Nat)), (s.dev.stream k).sealsDue = (sl, num, ep) :: more ∧ s.dev.f
      F.CTL_FW_STATUS_STATE ≠ 2 ∧ s.dev.on F.EV_STR_CFG_EN k = true) ∧
    (∃ (s : State) (k sl num ep : Nat) (more : List (Nat × Nat × Nat)), (s.dev.stream k).sealsDue = (sl, num, ep) :: more ∧ s.dev.f
      F.CTL_FW_STATUS_STATE ≠ 2 ∧ s.dev.on F.EV_STR_CFG_EN k = true ∧ s.dev.knownBad (journalBase + 72 * 2 ^ 20 + sl * 4096) 4096 = false) ∧
    (∃ (s : State) (k : Nat), ((s.dev.stream k).sealsDue = [] ∨ s.dev.f F.CTL_FW_STATUS_STATE = 2 ∨ s.dev.on F.EV_STR_CFG_EN k = false)) :=
  ⟨⟨svc fun d => { d with ev := { d.ev with closeList := [closed] }, hbm := { d.hbm with bad := entryWords } }, closed, [], by decide +kernel⟩,
   ⟨svc fun d => { d with ev := { d.ev with closeList := [⟨5, List.replicate 56 1, 3, 5, none, none⟩] } }, ⟨5, List.replicate 56 1, 3, 5, none,
     none⟩, [], by decide +kernel⟩,
   ⟨svc fun d => (strUp d).updStream 63 fun x => { x with gaps := [(5, 2)] }, 63, 2, 5, [], by decide +kernel⟩,
   ⟨svc fun d => (strUp d).updStream 63 fun x => { x with resend := [(1, 2)] }, 63, 2, 1, [], by decide +kernel⟩,
   ⟨svc strUp, 63, _, _, rfl, rfl, by decide +kernel⟩,
   ⟨(svc id), 63, by decide +kernel⟩,
   ⟨svc fun d => (d.setF F.EV_PART_CFG_RING_MIB 1 63).setQ .EV_PART_WRPOS 5 63, 63, ⟨0, 0, 0xC353, [1, 0x81, 63, 0, 0, 0, 0, 0] ++ be 8 5⟩, by
     decide +kernel⟩,
   ⟨svc fun d => (d.setF F.EV_PART_CFG_RING_MIB 1 63).setQ .EV_PART_WRPOS 5 63, 63, ⟨0, 0, 0xC353, [1, 0x81, 63, 0, 0, 0, 0, 0] ++ be 8 6⟩, by
     decide +kernel⟩,
   ⟨svc fun d => (d.setF F.EV_PART_CFG_RING_MIB 1 63).setQ .EV_PART_WRPOS 5 63, 63, ⟨0, 0, 0xC353, [1, 0x82, 63, 0, 0, 0, 0, 0] ++ be 8 4 ++ be 8
     65536⟩, by decide +kernel⟩,
   ⟨svc fun d => (strUp d).updStream 63 fun x => { x with sealsDue := [(1, 1, 1)] }, 63, 1, 1, 1, [], by decide +kernel⟩,
   ⟨svc fun d => (strUp d).updStream 63 fun x => { x with sealsDue := [(1, 1, 1)] }, 63, 1, 1, 1, [], by decide +kernel⟩,
   ⟨(svc id), 63, by decide +kernel⟩⟩

theorem met_IntervalsAreSealed :
    (∃ (s : State) (b : Nat) (i : Interval), b = nextBoundary ((i.startSec * 1000000000 + i.startNs) * 8) i.us ∧ s.dev.ev.interval = some i ∧
      i.seedLo < 2 ^ 32 ∧ i.seedHi < 2 ^ 32 ∧ s.dev.ev.sealNum < 2 ^ 64 ∧ b ≤ s.dev.now8 ∧ (s.dev.evOn = true ∨ s.dev.openTotal ≠ 0)) ∧
    (∃ (s : State) (b : Nat) (i : Interval), b = nextBoundary ((i.startSec * 1000000000 + i.startNs) * 8) i.us ∧ s.dev.ev.interval = some i ∧
      i.seedLo < 2 ^ 32 ∧ i.seedHi < 2 ^ 32 ∧ s.dev.ev.sealNum < 2 ^ 64 ∧ b ≤ s.dev.now8 ∧ s.dev.evOn = false ∧ s.dev.openTotal = 0) ∧
    (∃ (s : State) (b : Nat) (i : Interval), b = nextBoundary ((i.startSec * 1000000000 + i.startNs) * 8) i.us ∧ s.dev.ev.interval = some i ∧
      i.seedLo < 2 ^ 32 ∧ i.seedHi < 2 ^ 32 ∧ s.dev.ev.sealNum < 2 ^ 64 ∧ s.dev.now8 < b) ∧
    (∃ (s : State) (m b : Nat) (i : Interval), b = nextBoundary ((i.startSec * 1000000000 + i.startNs) * 8) i.us ∧ Writes s m .EV_CTRL 0 0 1 ∧
      s.dev.ev.interval = some i ∧ i.seedLo < 2 ^ 32 ∧ i.seedHi < 2 ^ 32 ∧ s.dev.ev.sealNum < 2 ^ 64 ∧ s.dev.evOn = false ∧ s.dev.serving = true ∧
      s.dev.ev.draining = true) ∧
    (∃ (s : State) (m b : Nat) (i : Interval), b = nextBoundary ((i.startSec * 1000000000 + i.startNs) * 8) i.us ∧ Writes s m .EV_CTRL 0 0 0 ∧
      s.dev.ev.interval = some i ∧ i.seedLo < 2 ^ 32 ∧ i.seedHi < 2 ^ 32 ∧ s.dev.ev.sealNum < 2 ^ 64 ∧ s.dev.evOn = true ∧ s.dev.ev.draining =
      false ∧ s.dev.openTotal ≠ 0) ∧
    (∃ (s : State) (m b : Nat) (i : Interval), b = nextBoundary ((i.startSec * 1000000000 + i.startNs) * 8) i.us ∧ Writes s m .EV_CTRL 0 0 0 ∧
      s.dev.ev.interval = some i ∧ i.seedLo < 2 ^ 32 ∧ i.seedHi < 2 ^ 32 ∧ s.dev.ev.sealNum < 2 ^ 64 ∧ s.dev.evOn = true ∧ s.dev.ev.draining =
      false ∧ s.dev.openTotal = 0) ∧
    (∃ (s : State) (b : Nat) (i : Interval) (x : List Byte), b = nextBoundary ((i.startSec * 1000000000 + i.startNs) * 8) i.us ∧ s.dev.ev.interval
      = some i ∧ i.seedLo < 2 ^ 32 ∧ i.seedHi < 2 ^ 32 ∧ s.dev.ev.sealNum < 2 ^ 64 ∧ s.dev.ev.measNext = some x ∧ x ≠ s.dev.ev.measurement) ∧
    (∃ (s : State), s.dev.ev.interval = none) ∧
    (∃ (s : State) (m : Nat), Writes s m .EV_CTRL 0 0 1 ∧ s.dev.ev.interval = none ∧ s.dev.evOn = false ∧ s.dev.serving = true) ∧
    (∃ (s : State) (m : Nat), Writes s m .EV_CTRL 0 0 0 ∧ s.dev.ev.interval = none ∧ s.dev.evOn = true) ∧
    (∃ (s : State) (x : List Byte), s.dev.ev.interval = none ∧ s.dev.ev.measNext = some x ∧ x ≠ s.dev.ev.measurement) ∧
    (∃ (s : State) (m : Nat), Writes s m .EV_CTRL 0 0 1 ∧ s.dev.evOn = false ∧ s.dev.serving = false) ∧
    (∃ (s : State), s.dev.ev.measNext = some s.dev.ev.measurement) ∧
    (∃ (s : State), s.dev.ev.measNext = none) ∧
    (∃ (s : State) (m : Nat) (v : Word), Writes s m .EV_ATTEST_CTRL 0 0 (setBit v 31)) ∧
    (∃ (s : State) (m : Nat), s.dev.ev.attestBy = some m) ∧
    (∃ (s : State), s.dev.ev.attestBy = none) :=
  ⟨⟨svc fun d => evRun (atTime (d.setF F.EV_CTRL_EN 1) 1 0), _, ival, rfl, by decide +kernel⟩,
   ⟨svc fun d => evRun (atTime d 1 0), _, ival, rfl, by decide +kernel⟩,
   ⟨svc evRun, _, ival, rfl, by decide +kernel⟩,
   ⟨svc fun d => let d := evRun (atTime d 1 0); { d with ev := { d.ev with draining := true } }, 0, _, ival, rfl, writes_of (by decide +kernel), by
     decide +kernel⟩,
   ⟨svc fun d => evRun ((atTime d 1 0).setF F.EV_CTRL_EN 1 |>.setF F.EV_PART_STATUS_OPEN 1 63), 0, _, ival, rfl, writes_of (by decide +kernel), by
     decide +kernel⟩,
   ⟨svc fun d => evRun ((atTime d 1 0).setF F.EV_CTRL_EN 1), 0, _, ival, rfl, writes_of (by decide +kernel), by decide +kernel⟩,
   ⟨svc fun d => let d := evRun (atTime d 1 0); { d with ev := { d.ev with measNext := some (List.replicate 32 1) } }, _, ival, List.replicate 32
     1, rfl, by decide +kernel⟩,
   ⟨(svc id), by decide +kernel⟩,
   ⟨(svc id), 0, writes_of (by decide +kernel), by decide +kernel⟩,
   ⟨svc fun d => d.setF F.EV_CTRL_EN 1, 0, writes_of (by decide +kernel), by decide +kernel⟩,
   ⟨svc fun d => { d with ev := { d.ev with measNext := some (List.replicate 32 1) } }, List.replicate 32 1, by decide +kernel⟩,
   ⟨stage 5 fun d => d.setF F.ID_BOOT_STATUS_HELD 1, 0, writes_of (by decide +kernel), by decide +kernel⟩,
   ⟨svc fun d => { d with ev := { d.ev with measNext := some d.ev.measurement } }, by decide +kernel⟩,
   ⟨(svc id), by decide +kernel⟩,
   ⟨(svc id), 0, 0, writes_of (by decide +kernel)⟩,
   ⟨svc fun d => { d with ev := { d.ev with attestBy := some 0 } }, 0, by decide +kernel⟩,
   ⟨(svc id), by decide +kernel⟩⟩

theorem met_HeatsAreStagedAndRetired :
    (∃ (s : State) (m : Nat), Writes s m .ID_HEAT_CTRL 0 0 (1 * 2 ^ 29) ∧ s.dev.staging = false ∧ s.dev.heat.pendingAt = none ∧
      s.dev.heat.live.length < 15 ∧ s.dev.heat.cleaning = [] ∧ s.dev.heat.aborted = []) ∧
    (∃ (s : State) (m : Nat), Writes s m .ID_HEAT_CTRL 0 0 (2 * 2 ^ 29) ∧ s.dev.staging = true) ∧
    (∃ (s : State) (m : Nat), Writes s m .ID_HEAT_CTRL 0 0 (2 * 2 ^ 29) ∧ s.dev.staging = false) ∧
    (∃ (s : State) (m t8 : Nat), t8 = s.dev.regTime .ID_HEAT_AT_NS .ID_HEAT_AT_SEC_LO .ID_HEAT_AT_SEC_HI ∧ Writes s m .ID_HEAT_CTRL 0 0 (3 * 2 ^
      29) ∧ s.dev.staging = true ∧ s.dev.f F.ID_HEAT_AT_NS_NS < 1000000000 ∧ s.dev.now8 + 8000 ≤ t8) ∧
    (∃ (s : State) (m : Nat), Writes s m .ID_HEAT_CTRL 0 0 (4 * 2 ^ 29) ∧ s.dev.staging = true) ∧
    (∃ (s : State) (t8 : Nat), s.dev.heat.pendingAt = some t8) ∧
    (∃ (s : State) (x y : Nat × Option Nat) (rest : List (Nat × Option Nat)), s.dev.heat.live = x :: y :: rest ∧ s.dev.heatInFlight x.1 = false ∧
      y.1 < 16) ∧
    (∃ (s : State) (n : Nat) (x y : Nat × Option Nat) (rest : List (Nat × Option Nat)), s.dev.heat.live = x :: y :: rest ∧ SMap.find?
      s.dev.heat.drainAt x.1 = some n ∧ n + s.dev.f F.ID_HEAT_CFG_DRAIN_MAX_US * 800 ≤ s.dev.time.ticks ∧ s.dev.heat.promoted.contains x.1 = false
      ∧ (∀ c, c ∈ s.dev.copyList → c.heat ≠ x.1)) :=
  ⟨⟨(svc id), 0, writes_of (by decide +kernel), by decide +kernel⟩,
   ⟨svc fun d => d.setF F.ID_HEAT_STATE_STAGING 1, 0, writes_of (by decide +kernel), by decide +kernel⟩,
   ⟨(svc id), 0, writes_of (by decide +kernel), by decide +kernel⟩,
   ⟨svc fun d => (d.setF F.ID_HEAT_STATE_STAGING 1).setF F.ID_HEAT_AT_NS_NS 1000, 0, _, rfl, writes_of (by decide +kernel), by decide +kernel⟩,
   ⟨svc fun d => d.setF F.ID_HEAT_STATE_STAGING 1, 0, writes_of (by decide +kernel), by decide +kernel⟩,
   ⟨svc fun d => { d.setF F.ID_HEAT_STATE_STAGED 1 with heat := { d.heat with pendingAt := some 8 } }, 8, by decide +kernel⟩,
   ⟨svc fun d => { d with heat := { d.heat with live := [(0, none), (1, some 8)] } }, (0, none), (1, some 8), [], by decide +kernel⟩,
   ⟨svc fun d =>
     { atTime (d.setF F.ID_HEAT_CFG_DRAIN_MAX_US 100) 0 80000 with heat := { d.heat with live := [(0, none), (1, some 8)], drainAt := [(0, 0)] } },
     0, (0, none), (1, some 8), [], by decide +kernel⟩⟩

theorem met_PatchesAreSwitched :
    (∃ (s : State) (m p st : Nat) (v : Word) (d : Dev), d = s.dev.fresh.putWord .PIPE_PATCH_CTRL p 0 m (setBit v 31) ∧ Writes s m .PIPE_PATCH_CTRL
      p 0 (setBit v 31) ∧ p < 16 ∧ d.patchCheck s.mem m p = some st ∧ st < 8) ∧
    (∃ (s : State) (m p : Nat) (v : Word) (d : Dev), d = s.dev.fresh.putWord .PIPE_PATCH_CTRL p 0 m (setBit v 31) ∧ Writes s m .PIPE_PATCH_CTRL p 0
      (setBit v 31) ∧ d.patchCheck s.mem m p = none ∧ p < 16) ∧
    (∃ (s : State) (m p : Nat) (v : Word) (d : Dev) (x : PatchLoad), d = s.dev.fresh.putWord .PIPE_PATCH_CTRL p 0 m (setBit v 31) ∧ p < 16 ∧
      SMap.find? s.dev.parse.loads p = some x ∧ x.words.length ≤ 512) :=
  ⟨⟨svc fun d => d.setF F.SPD_BANK_CFG_OWNER 0x13 0, 0, 15, 6, 0, _, rfl, writes_of (by decide +kernel), by decide +kernel⟩,
   ⟨ptState, 0, 15, 0, _, rfl, writes_of (by decide +kernel), pt_check, by decide +kernel⟩,
   ⟨svc fun d => { d with parse := { d.parse with loads := [(15, ⟨1, [7], []⟩)] } }, 0, 15, 0, _, ⟨1, [7], []⟩, rfl, by decide +kernel⟩⟩

theorem met_TableCommandsAnswer :
    (∃ (s : State) (m idx e : Nat) (cmd : Word), e = s.dev.cmdImage m ∧ idx = s.dev.f F.TBL_CMD_INDEX_INDEX 0 0 0 m ∧ Writes s m .TBL_CMD 0 0
      (setOp cmd 1) ∧ F.TBL_CMD_TABLE.ext (s.dev.written .TBL_CMD 0 0 m (setOp cmd 1)).toNat = 4 ∧ s.dev.staging = true ∧ 0 < idx ∧ idx < 65536 ∧
      s.dev.badAction e = false ∧ ctlValid (ctlOf 512 (SMap.get s.dev.tbl.action idx 0)) = false) ∧
    (∃ (s : State) (m idx e : Nat) (cmd : Word), e = s.dev.cmdImage m ∧ idx = s.dev.f F.TBL_CMD_INDEX_INDEX 0 0 0 m ∧ Writes s m .TBL_CMD 0 0
      (setOp cmd 2) ∧ F.TBL_CMD_TABLE.ext (s.dev.written .TBL_CMD 0 0 m (setOp cmd 2)).toNat = 4 ∧ s.dev.staging = true ∧ 0 < idx ∧ idx < 65536 ∧
      ctlValid (ctlOf 512 (SMap.get s.dev.tbl.action idx 0)) = true ∧ ctlAdd (ctlOf 512 (SMap.get s.dev.tbl.action idx 0)) ≠ some s.dev.stagedHeat) ∧
    (∃ (s : State) (m idx e w x i : Nat) (cmd : Word) (rest : List (Nat × Nat)), e = s.dev.cmdImage m ∧ idx = s.dev.f F.TBL_CMD_INDEX_INDEX 0 0 0 m
      ∧ Writes s m .TBL_CMD 0 0 (setOp cmd 3) ∧ F.TBL_CMD_TABLE.ext (s.dev.written .TBL_CMD 0 0 m (setOp cmd 3)).toNat = 6 ∧ s.dev.badAction (bits
      e 411 320 * 2 ^ 404) = false ∧ s.dev.entriesOf s.mem 6 (entryKey 6 e) = (i, x) :: rest ∧ (upto 4).find? (fun w => !entryValid 6 (s.dev.entry
      s.mem 6 (4 * s.dev.bucketOf 6 (entryKey 6 e) + w))) = some w) ∧
    (∃ (s : State) (m idx e : Nat) (cmd : Word), e = s.dev.cmdImage m ∧ idx = s.dev.f F.TBL_CMD_INDEX_INDEX 0 0 0 m ∧ Writes s m .TBL_CMD 0 0
      (setOp cmd 4) ∧ F.TBL_CMD_TABLE.ext (s.dev.written .TBL_CMD 0 0 m (setOp cmd 4)).toNat = 4 ∧ idx < 65536) ∧
    (∃ (s : State) (m idx e x i : Nat) (cmd : Word), e = s.dev.cmdImage m ∧ idx = s.dev.f F.TBL_CMD_INDEX_INDEX 0 0 0 m ∧ Writes s m .TBL_CMD 0 0
      (setOp cmd 5) ∧ F.TBL_CMD_TABLE.ext (s.dev.written .TBL_CMD 0 0 m (setOp cmd 5)).toNat = 0 ∧ s.dev.findKey s.mem 0 (entryKey 0 e)
      s.dev.currentHeat = some (i, x) ∧ i < 2 ^ 32) ∧
    (∃ (s : State) (m idx e : Nat) (cmd : Word), e = s.dev.cmdImage m ∧ idx = s.dev.f F.TBL_CMD_INDEX_INDEX 0 0 0 m ∧ Writes s m .TBL_CMD 0 0
      (setOp cmd 6) ∧ F.TBL_CMD_TABLE.ext (s.dev.written .TBL_CMD 0 0 m (setOp cmd 6)).toNat = 0 ∧ s.dev.tbl.dma = none) ∧
    (∃ (s : State) (m idx e : Nat) (cmd : Word) (d : Dev) (y : Dma), e = s.dev.cmdImage m ∧ idx = s.dev.f F.TBL_CMD_INDEX_INDEX 0 0 0 m ∧ d =
      s.dev.fresh.putWord .TBL_DMA_CTRL 0 0 m (setBit cmd 31) ∧ y = ⟨m, d.on F.TBL_DMA_CTRL_LOCK, s.dev.on F.TBL_DMA_SRC_SPACE, s.dev.f
      F.TBL_DMA_SRC_OFFSET, s.dev.f F.TBL_DMA_COUNT_COUNT, [], [], []⟩ ∧ Writes s m .TBL_DMA_CTRL 0 0 (setBit cmd 31) ∧ y.locked = false ∧
      s.dev.dmaMay y = true ∧ (y.spd = true → s.dev.spdOff y.off (160 * y.n) = none)) ∧
    (∃ (s : State) (m idx e : Nat) (cmd : Word) (d : Dev) (y : Dma), e = s.dev.cmdImage m ∧ idx = s.dev.f F.TBL_CMD_INDEX_INDEX 0 0 0 m ∧ d =
      s.dev.fresh.putWord .TBL_DMA_CTRL 0 0 m (setBit cmd 31) ∧ y = ⟨m, d.on F.TBL_DMA_CTRL_LOCK, s.dev.on F.TBL_DMA_SRC_SPACE, s.dev.f
      F.TBL_DMA_SRC_OFFSET, s.dev.f F.TBL_DMA_COUNT_COUNT, [], [], []⟩ ∧ Writes s m .TBL_DMA_CTRL 0 0 (setBit cmd 31) ∧ s.dev.dmaMay y = false) ∧
    (∃ (s : State) (x : Dma), s.dev.tbl.dma = some x ∧ x.locked = true) ∧
    (∃ (s : State) (x : Dma), s.dev.tbl.dma = some x ∧ x.locked = false) :=
  ⟨⟨svc staged, 0, _, _, 0x04000000, rfl, rfl, writes_of (by decide +kernel), by decide +kernel⟩,
   ⟨svc fun d => { staged d with tbl := { d.tbl with action := [(65535, withCtl 512 0 (2 ^ 14))] } }, 0, _, _, 0x04000000, rfl, rfl, writes_of (by
     decide +kernel), by decide +kernel⟩,
   ⟨hbmState, 0, _, _, 1, 2 ^ 63, 4 * hbmBucket, 0x06000000, [], rfl, rfl, writes_of (by decide +kernel), by decide +kernel⟩,
   ⟨svc fun d => { staged d with tbl := { d.tbl with action := [(65535, withCtl 512 5 (2 ^ 14))] } }, 0, _, _, 0x04000000, rfl, rfl, writes_of (by
     decide +kernel), by decide +kernel⟩,
   ⟨svc (l2Dev 0), 0, _, _, l2Entry 0, 4 * Dev.reset.bucketOf 0 (entryKey 0 0), 0, rfl, rfl, writes_of (by decide +kernel), by decide +kernel⟩,
   ⟨svc fun d => (l2Dev 0 d).setF F.TBL_CMD_INDEX_INDEX 1023, 0, _, _, 0, rfl, rfl, writes_of (by decide +kernel), by decide +kernel⟩,
   ⟨svc fun d => { d.setF F.TBL_DMA_COUNT_COUNT 1 with buf := { d.buf with holders := [(2 ^ 26, 22), (2 ^ 26 + 1, 22)] } }, 0, _, _, 0, _, _, rfl,
     rfl, rfl, rfl, writes_of (by decide +kernel), by decide +kernel⟩,
   ⟨svc fun d => ((d.setF F.TBL_DMA_COUNT_COUNT 1).setF F.TBL_DMA_SRC_SPACE 1).setF F.SPD_BANK_CFG_OWNER 0x13 0, 0, _, _, 0, _, _, rfl, rfl, rfl,
     rfl, writes_of (by decide +kernel), by decide +kernel⟩,
   ⟨svc fun d => { d with tbl := { d.tbl with dma := some ⟨0, true, false, 0, 0, [], [], []⟩ } }, ⟨0, true, false, 0, 0, [], [], []⟩, by
     decide +kernel⟩,
   ⟨svc fun d => { d with tbl := { d.tbl with dma := some ⟨0, false, false, 0, 0, [], [], []⟩ } }, ⟨0, false, false, 0, 0, [], [], []⟩, by
     decide +kernel⟩⟩

theorem met_LearnedEntriesComeAndGo :
    (∃ (s : State) (idx : Nat) (x : LearnEv), s.dev.tbl.learnQ = [x] ∧ s.dev.tbl.dma = none ∧ s.dev.entriesOf s.mem 0 x.key = [] ∧ s.dev.atLimit
      x.port = false ∧ s.dev.place s.mem 0 x.key = some idx) ∧
    (∃ (s : State) (t8 : Nat) (y : Track), s.dev.tbl.tracker = [y] ∧ y.pinnedAt = some t8 ∧ t8 + s.dev.f F.TBL_FLAP_CFG_FLAP_HOLD_S * 800000000 ≤
      s.dev.time.ticks) ∧
    (∃ (s : State) (idx e : Nat), e = SMap.get s.dev.tbl.em idx 0 ∧ idx < 2 ^ 40 ∧ s.dev.on F.TBL_CTRL_SWEEP_EN = true ∧ s.dev.f
      F.TBL_AGE_CFG_PERIOD_MS ≠ 0 ∧ s.dev.tbl.dma = none ∧ ctlValid (ctlOf 128 e) = true ∧ bit (ctlOf 128 e) 12 = true ∧ bit (ctlOf 128 e) 11 =
      false) ∧
    (∃ (s : State) (idx e : Nat), e = SMap.get s.dev.tbl.em idx 0 ∧ idx < 2 ^ 40 ∧ s.dev.on F.TBL_CTRL_SWEEP_EN = true ∧ s.dev.f
      F.TBL_AGE_CFG_PERIOD_MS ≠ 0 ∧ s.dev.tbl.dma = none ∧ ctlValid (ctlOf 128 e) = true ∧ bit (ctlOf 128 e) 12 = false ∧ bit (ctlOf 128 e) 11 =
      true ∧ ctlLearned (ctlOf 128 e) = true ∧ bit (ctlOf 128 e) 10 = false) ∧
    (∃ (s : State) (idx e str : Nat), e = SMap.get s.dev.tbl.action idx 0 ∧ ctlValid (ctlOf 512 e) = true ∧ str ≠ 2 ∧ str ≠ 3 ∧
      s.dev.tbl.errors.length < 64) ∧
    (∃ (s : State) (n idx : Nat) (z : TcamEnt), s.dev.tcamAt n idx = some z ∧ s.dev.tbl.errors.length < 64) ∧
    (∃ (s : State) (m : Nat) (a b c d : Word) (more : List (List Word)), Reaches s m none .TBL_NOTICE_POP0 0 0 ∧ s.dev.tbl.notices = [a, b, c, d]
      :: more) ∧
    (∃ (s : State) (m : Nat) (a b c d : Word) (more : List (List Word)), Reaches s m none .TBL_ERR_POP0 0 0 ∧ s.dev.tbl.errors = [a, b, c, d] ::
      more) :=
  ⟨⟨svc fun d => { d with tbl := { d.tbl with learnQ := [learn] } }, 4 * Dev.reset.bucketOf 0 (entryKey 0 0), learn, by decide +kernel⟩,
   ⟨svc fun d =>
     { (atTime d 0 800000000).setF F.TBL_FLAP_CFG_FLAP_HOLD_S 1 with tbl := { d.tbl with tracker := [⟨List.replicate 9 0, 0, [0], some 0⟩] } }, 0,
     ⟨List.replicate 9 0, 0, [0], some 0⟩, by decide +kernel⟩,
   ⟨svc fun d => ((l2Dev (2 ^ 12) d).setF F.TBL_CTRL_SWEEP_EN 1).setF F.TBL_AGE_CFG_PERIOD_MS 1000, 4 * Dev.reset.bucketOf 0 (entryKey 0 0), _,
     rfl, by decide +kernel⟩,
   ⟨svc fun d => ((l2Dev (2 ^ 11) d).setF F.TBL_CTRL_SWEEP_EN 1).setF F.TBL_AGE_CFG_PERIOD_MS 1000, 4 * Dev.reset.bucketOf 0 (entryKey 0 0), _,
     rfl, by decide +kernel⟩,
   ⟨svc fun d => { d with tbl := { d.tbl with action := [(65535, withCtl 512 5 (2 ^ 14))] } }, 65535, _, 0, rfl, by decide +kernel⟩,
   ⟨svc fun d => { d with tbl := { d.tbl with tcam := [(65535, tcamEntry)] } }, 15, 4095, tcamEntry, by decide +kernel⟩,
   ⟨svc fun d => { d with tbl := { d.tbl with notices := [[1, 2, 3, 4]] } }, 0, 1, 2, 3, 4, [], reaches_of (by decide +kernel), by decide +kernel⟩,
   ⟨svc fun d => { d with tbl := { d.tbl with errors := [[1, 2, 3, 4]] } }, 0, 1, 2, 3, 4, [], reaches_of (by decide +kernel), by decide +kernel⟩⟩

theorem met_HbmIsServed :
    (∃ (s : State) (pc : Nat) (w : HbmWrite), s.dev.hbm.writes = [w] ∧ s.dev.hbm.reads = [] ∧ s.dev.hbm.waiting = [] ∧ channelOf w.granule = pc ∧
      pc < 256 ∧ s.dev.hbmServes (pc / 32) = true) ∧
    (∃ (s : State) (pc : Nat) (w : HbmWrite), s.dev.hbm.writes = [w] ∧ s.dev.hbm.reads = [] ∧ s.dev.hbm.waiting = [] ∧ channelOf w.granule = pc ∧
      pc < 256 ∧ s.dev.hbmServes (pc / 32) = true ∧ s.dev.hbm.bad = [] ∧ s.dev.tel.blocks = []) ∧
    (∃ (s : State) (pc : Nat) (r : HbmRead), s.dev.hbm.reads = [r] ∧ s.dev.hbm.writes = [] ∧ s.dev.hbm.draining = [] ∧ channelOf r.granule = pc ∧
      pc < 256 ∧ r.scrub = false ∧ s.dev.detachAt r.granule = none ∧ s.dev.hbmServes (pc / 32) = true ∧ s.dev.hbm.bad = []) ∧
    (∃ (s : State) (pc : Nat), s.dev.hbmServes (pc / 32) = false) ∧
    (∃ (s : State) (k : Nat), k < 8 ∧ s.dev.time.ticks < SMap.get s.dev.hbm.lastReq k 0 + 800 * s.dev.f F.HBM_STACK_CFG_IDLE_US k) ∧
    (∃ (s : State) (k : Nat), k < 8 ∧ s.dev.on F.HBM_STACK_CFG_AUTO_SR_EN k = true ∧ s.dev.hbmServes k = true ∧ s.dev.stackBusy k = false ∧
      SMap.get s.dev.hbm.lastReq k 0 + 800 * s.dev.f F.HBM_STACK_CFG_IDLE_US k ≤ s.dev.time.ticks) ∧
    (∃ (s : State) (k : Nat), k < 8 ∧ bit (s.dev.f F.HBM_STATUS_SR) k = true ∧ s.dev.stackBusy k = true) ∧
    (∃ (s : State) (k draw : Nat), s.dev.held = false ∧ k < 8 ∧ s.dev.f F.HBM_RH_CFG_SHIFT ≠ 0 ∧ draw % 2 ^ 16 < 2 ^ (16 - s.dev.f
      F.HBM_RH_CFG_SHIFT)) ∧
    (∃ (s : State) (g : Nat), s.dev.held = false ∧ s.dev.f F.HBM_SCRUB_CFG_HOURS ≠ 0 ∧ g < 192 * 2 ^ 22 ∧ s.dev.on F.HBM_CTRL_EN = true ∧
      s.dev.domain (80 + stackOf g) = 0 ∧ s.dev.hbmServes (stackOf g) = false ∧ s.dev.hbm.waiting = [] ∧ s.dev.hbm.writes = []) ∧
    (∃ (s : State) (g : Nat) (bad : List Nat), s.dev.held = false ∧ s.dev.f F.HBM_SCRUB_CFG_HOURS ≠ 0 ∧ g < 192 * 2 ^ 22 ∧ s.dev.hbmServes (stackOf
      g) = true ∧ (∀ y, y ∈ s.dev.hbm.writes → y.granule ≠ g) ∧ s.dev.hbm.waiting = [] ∧ s.dev.hbm.errors.length + (s.dev.badOf g bad).length ≤ 64) ∧
    (∃ (s : State), s.dev.f F.HBM_SCRUB_CFG_HOURS = 0) ∧
    (∃ (s : State), s.dev.on F.HBM_STATUS_INIT_BUSY = true) ∧
    (∃ (s : State) (m : Nat) (a b c d : Word) (more : List (List Word)), Reaches s m none .HBM_ERR_POP0 0 0 ∧ s.dev.hbm.errors = [a, b, c, d] ::
      more) ∧
    (∃ (s : State) (fid : Nat) (u v : Waiting), s.dev.waiting = [u, v] ∧ u.ready = false ∧ v.ready = false ∧ u.frame.id ≠ fid ∧ v.frame.id = fid ∧
      pipeOf u.frame.ingress = pipeOf v.frame.ingress) ∧
    (∃ (s : State) (fid : Nat) (u v : Waiting), s.dev.waiting = [u, v] ∧ u.ready = false ∧ v.ready = false ∧ u.frame.id ≠ fid ∧ v.frame.id = fid ∧
      pipeOf u.frame.ingress = pipeOf v.frame.ingress ∧ s.dev.time.ticks ≤ v.sinceTick + 320 ∧ s.dev.hbm.bad = []) :=
  ⟨⟨svc fun d => { hbmOn d with hbm := { d.hbm with writes := [⟨0, [(0, 1)], 7, 0⟩] } }, 0, ⟨0, [(0, 1)], 7, 0⟩, by decide +kernel⟩,
   ⟨svc fun d => { hbmOn d with hbm := { d.hbm with writes := [⟨0, [(0, 1)], 7, 0⟩] } }, 0, ⟨0, [(0, 1)], 7, 0⟩, by decide +kernel⟩,
   ⟨svc fun d => { hbmOn d with hbm := { d.hbm with reads := [⟨0, 7, 0, 0, 0, false, false⟩] } }, 0, ⟨0, 7, 0, 0, 0, false, false⟩, by
     decide +kernel⟩,
   ⟨(svc id), 0, by decide +kernel⟩,
   ⟨svc fun d => (hbmOn d).setF F.HBM_STACK_CFG_IDLE_US 1 7, 7, by decide +kernel⟩,
   ⟨svc fun d => ((atTime (hbmOn d) 1 800).setF F.HBM_STACK_CFG_AUTO_SR_EN 1 7).setF F.HBM_STACK_CFG_IDLE_US 1 7, 7, by decide +kernel⟩,
   ⟨svc fun d => { (hbmOn d).setF F.HBM_STATUS_SR 1 with hbm := { d.hbm with reads := [⟨0, 7, 0, 0, 0, false, false⟩] } }, 0, by decide +kernel⟩,
   ⟨svc fun d => d.setF F.HBM_RH_CFG_SHIFT 1, 7, 32767, by decide +kernel⟩,
   ⟨svc fun d => ((hbmOn d).setF F.HBM_SCRUB_CFG_HOURS 1).setF F.HBM_STATUS_SR 128, 805306367, by decide +kernel⟩,
   ⟨svc fun d => (hbmOn d).setF F.HBM_SCRUB_CFG_HOURS 1, 805306367, [31, 3], by decide +kernel⟩,
   ⟨svc fun d => d.setF F.HBM_SCRUB_CFG_HOURS 0, by decide +kernel⟩,
   ⟨svc fun d => d.setF F.HBM_STATUS_INIT_BUSY 1, by decide +kernel⟩,
   ⟨svc fun d => { d with hbm := { d.hbm with errors := [[1, 2, 3, 4]] } }, 0, 1, 2, 3, 4, [], reaches_of (by decide +kernel), by decide +kernel⟩,
   ⟨svc fun d => { d with waiting := [wait 5, wait 6] }, 6, wait 5, wait 6, by decide +kernel⟩,
   ⟨svc fun d => { atTime d 0 320 with waiting := [wait 5, wait 6] }, 6, wait 5, wait 6, by decide +kernel⟩⟩

theorem met_FramesEnterAndAreDecided :
    (∃ (s : State) (f : FrameIn) (p n : Nat), p = f.port / 64 ∧ n = f.port % 64 ∧ f.port < 1024 ∧ s.dev.mayArrive f.port = true ∧ s.dev.serving =
      false ∧ beAt f.bytes 12 2 ≠ s.dev.f F.IVL_ETH_CFG_ETYPE ∧ ptpOf (s.dev.stampTagUnit f.port f.bytes f.len).2.bytes = none) ∧
    (∃ (s : State) (f : FrameIn) (p n : Nat) (fr : Frame) (z : ParseResult), p = f.port / 64 ∧ n = f.port % 64 ∧ fr = s.dev.arrival f ⟨f.bytes,
      f.len, 0, none⟩ ∧ f.port < 1024 ∧ s.dev.mayArrive f.port = true ∧ s.dev.serving = true ∧ f.inj = none ∧ f.recirc = none ∧ f.stages = [] ∧
      f.overrun = false ∧ beAt f.bytes 12 2 ≠ s.dev.f F.IVL_ETH_CFG_ETYPE ∧ beAt f.bytes 12 2 ≠ s.dev.f F.EV_TAG_CFG_ETYPE ∧ fr.ptp = none ∧
      slowReason fr .none_ z.reasons = none ∧ s.dev.parsed f.parse f.port fr.heat fr.bytes fr.len = .ok z ∧ z.tags = [] ∧ s.dev.f
      F.PIPE_PORT_CFG_SESS_KEY p n = 0 ∧ s.dev.f F.TEL_PORT_TRACE_SHIFT f.port = 0 ∧ s.dev.on F.PIPE_PORT_QOS_METER_EN p n = false ∧ s.dev.f
      F.PIPE_PORT_DEFAULT_ON_NOMATCH p n = 1 ∧ s.dev.usablePort (s.dev.f F.PIPE_PORT_DEFAULT_DEFAULT_PORT p n) = true) ∧
    (∃ (s : State) (f : FrameIn) (p n : Nat) (c : Copy), p = f.port / 64 ∧ n = f.port % 64 ∧ s.dev.adm.alignQ = [c.id] ∧ s.dev.copy? c.id = some c
      ∧ pipeOf c.frame.ingress = p ∧ c.frame.stamp8 + s.dev.f F.ADM_ALIGN_ALIGN_NS * 8 ≤ s.dev.now8) ∧
    (∃ (s : State) (f : FrameIn) (p n : Nat) (c x : Copy), p = f.port / 64 ∧ n = f.port % 64 ∧ x =
      { s.dev.prepared c s.dev.now8 with order := s.dev.adm.decisions, guard8 := 0 } ∧ s.dev.adm.hurdleQ = [c.id] ∧ s.dev.adm.carried = 0 ∧
      s.dev.copy? c.id = some c ∧ c.kind = .unicast ∧ c.deferred = false ∧ s.dev.check x s.dev.now8 = none) ∧
    (∃ (s : State) (f : FrameIn) (p n r : Nat) (c x : Copy), p = f.port / 64 ∧ n = f.port % 64 ∧ x =
      { s.dev.prepared c s.dev.now8 with order := s.dev.adm.decisions, guard8 := 0 } ∧ s.dev.adm.hurdleQ = [c.id] ∧ s.dev.adm.carried = 0 ∧
      s.dev.copy? c.id = some c ∧ c.kind = .unicast ∧ c.deferred = false ∧ s.dev.check x s.dev.now8 = some r ∧ s.dev.f F.ADM_POLICY_ACTION (4 *
      c.egress + c.cls) ≠ 1) ∧
    (∃ (s : State) (f : FrameIn) (p n r : Nat) (c x : Copy), p = f.port / 64 ∧ n = f.port % 64 ∧ x =
      { s.dev.prepared c s.dev.now8 with order := s.dev.adm.decisions, guard8 := 0 } ∧ s.dev.adm.hurdleQ = [c.id] ∧ s.dev.adm.carried = 0 ∧
      s.dev.copy? c.id = some c ∧ c.kind = .unicast ∧ c.deferred = false ∧ s.dev.check x s.dev.now8 = some r ∧ s.dev.f F.ADM_POLICY_ACTION (4 *
      c.egress + c.cls) = 1) :=
  ⟨⟨stage 5 up, fin1, _, _, rfl, rfl, by decide +kernel⟩,
   ⟨svc parsing, fin1, _, _, _, .empty, rfl, rfl, rfl, by decide +kernel⟩,
   ⟨svc fun d => let d := hold1 (up d) (cq 0 .align); { d with adm := { d.adm with alignQ := [7] } }, fin, _, _, cq 0 .align, rfl, rfl, by
     decide +kernel⟩,
   ⟨svc fun d => let d := hold1 (adm 16777215 d) { cq 0 .hurdle with frame := { fr with stamp8 := 15999999000 } };
     { d with adm := { d.adm with hurdleQ := [7], buckets := [(bucketKey 1023 0, ⟨1000000000000, d.el8⟩)] } }, fin, _, _,
     { cq 0 .hurdle with frame := { fr with stamp8 := 15999999000 } }, _, rfl, rfl, rfl, by decide +kernel⟩,
   ⟨svc fun d => let d := adm 0 d; { d with adm := { d.adm with hurdleQ := [7] } }, fin, _, _, 2, cq 0 .hurdle, _, rfl, rfl, rfl, by decide +kernel⟩,
   ⟨svc fun d => let d := (adm 0 d).setF F.ADM_POLICY_ACTION 1 4092; { d with adm := { d.adm with hurdleQ := [7] } }, fin, _, _, 2, cq 0 .hurdle,
     _, rfl, rfl, rfl, by decide +kernel⟩⟩

theorem met_CopiesAreQueued :
    (∃ (s : State) (c : Copy) (q k n p desc pick : Nat), q = queueOf c.egress c.served ∧ n = sectorsOf c.frame.len ∧ (∀ i y, i ∈ s.dev.queue q →
      s.dev.copy? i = some y → y.enqCell ≠ s.dev.cell) ∧ c.frame.len ≠ 0 ∧ s.dev.copy? c.id = some c ∧ c.egress < 1024 ∧ c.served < 8 ∧
      s.dev.linkUp c.egress = true ∧ SMap.get s.dev.buf.enqueued q 0 < 24 ∧ c.stage = .decided ∧ c.kind = .unicast ∧ c.timed = true ∧ SMap.get
      s.dev.buf.overflow q [] = [] ∧ nextFree s.dev.usedDesc 2097152 pick = some desc ∧ s.dev.used q + n ≤ s.dev.f F.BUF_QCFG_MIN q ∧ SMap.find?
      s.dev.buf.tails q = some ⟨p, k⟩ ∧ k + n < 16) ∧
    (∃ (s : State) (c : Copy) (q k n p pg base pos : Nat) (od : List Byte), q = queueOf c.egress c.served ∧ n = sectorsOf c.frame.len ∧ (∀ i y, i ∈
      s.dev.queue q → s.dev.copy? i = some y → y.enqCell ≠ s.dev.cell) ∧ c.frame.len ≠ 0 ∧ s.dev.copy? c.id = some c ∧ c.egress < 1024 ∧ c.served <
      8 ∧ s.dev.linkUp c.egress = true ∧ SMap.get s.dev.buf.enqueued q 0 < 24 ∧ c.stage = .spilled ∧ c.agedOut = false ∧ s.dev.aged c = false ∧
      s.dev.spillOf q = ⟨[⟨pg, [c.id], base⟩], [], od, pos⟩ ∧ s.dev.hbm.bad = [] ∧ s.dev.used q < s.dev.f F.BUF_CTRL_REFILL_CELLS * 16 ∧ 32768 ≤
      s.dev.sprTokens ∧ s.dev.used q + n ≤ s.dev.f F.BUF_QCFG_MIN q ∧ SMap.find? s.dev.buf.tails q = some ⟨p, k⟩ ∧ k + n < 16) ∧
    (∃ (s : State) (c : Copy) (q n : Nat), q = queueOf c.egress c.served ∧ n = sectorsOf c.frame.len ∧ (∀ i y, i ∈ s.dev.queue q → s.dev.copy? i =
      some y → y.enqCell ≠ c.enqCell) ∧ c.frame.len ≠ 0 ∧ s.dev.copy? c.id = some c ∧ c.egress < 1024 ∧ c.served < 8 ∧ s.dev.linkUp c.egress = true
      ∧ SMap.get s.dev.buf.enqueued q 0 < 24 ∧ SMap.get s.dev.buf.overflow q [] = [c.id]) ∧
    (∃ (s : State) (c b : Copy) (q n : Nat), q = queueOf c.egress c.served ∧ n = sectorsOf c.frame.len ∧ c.frame.len ≠ 0 ∧ s.dev.copy? c.id = some
      c ∧ c.egress < 1024 ∧ c.served < 8 ∧ s.dev.linkUp c.egress = true ∧ SMap.get s.dev.buf.enqueued q 0 < 24 ∧ SMap.get s.dev.buf.overflow q [] =
      [c.id] ∧ s.dev.queue q = [b.id] ∧ s.dev.copy? b.id = some b ∧ b.enqCell = c.enqCell ∧ b.selected = false ∧ b.timed = true ∧ c.timed = true ∧
      c.order < b.order) ∧
    (∃ (s : State) (c : Copy) (q n g : Nat), q = queueOf c.egress c.served ∧ n = sectorsOf c.frame.len ∧ c.frame.len ≠ 0 ∧ s.dev.copy? c.id = some
      c ∧ c.egress < 1024 ∧ c.served < 8 ∧ s.dev.linkUp c.egress = true ∧ SMap.get s.dev.buf.enqueued q 0 < 24 ∧ c.stage = .mergeWait ∧ c.kind =
      .finish g ∧ c.deferred = false ∧ c.frame.tagged = false) ∧
    (∃ (s : State) (c : Copy) (q n p g : Nat), q = queueOf c.egress c.served ∧ n = sectorsOf c.frame.len ∧ (∀ i y, i ∈ s.dev.queue q → s.dev.copy?
      i = some y → y.enqCell ≠ s.dev.cell) ∧ c.frame.len ≠ 0 ∧ s.dev.copy? c.id = some c ∧ c.egress < 1024 ∧ c.served < 8 ∧ s.dev.linkUp c.egress =
      true ∧ SMap.get s.dev.buf.enqueued q 0 < 24 ∧ c.stage = .merge ∧ c.kind = .finish g ∧ c.deferred = false ∧ g < 64 ∧ p < 16 ∧ s.dev.hold.fifos
      = [(fifoKey g p, [c.id])] ∧ s.dev.on F.FIN_CTRL_EN = true ∧ s.dev.on F.FIN_GRP_CFG_EN g = true ∧ SMap.find? s.dev.hold.last g = none ∧
      c.frame.stamp + s.dev.windowNs g * 8 + s.dev.time.ticks % 2 * 10 ≤ s.dev.now8 ∧ SMap.get s.dev.buf.overflow q [] = []) :=
  ⟨⟨svc fun d => let d := hold1 (up d) (cq 3 .decided); { d with buf := { d.buf with tails := [(8187, ⟨5, 11⟩)] } }, cq 3 .decided, _, 11, _, 5,
      0, 0, rfl, rfl, no_copy (by decide +kernel), by decide +kernel⟩,
   ⟨svc spillDev, cspill, _, 11, _, 5, 3, 0, 3584, [], rfl, rfl, no_copy (by decide +kernel), by decide +kernel⟩,
   ⟨svc fun d => let d := hold1 (up d) (cq 7 .overflow); { d with buf := { d.buf with overflow := [(8191, [7])] } }, cq 7 .overflow, _, _, rfl,
     rfl, no_copy (by decide +kernel), by decide +kernel⟩,
   ⟨svc fun d => let d := hold1 (up d) cwait;
     { d with buf := { d.buf with copies := [(7, cwait), (8, cafter)], overflow := [(8187, [7])], queues := [(8187, [8])] } }, cwait, cafter, _, _,
     rfl, rfl, by decide +kernel⟩,
   ⟨svc fun d => hold1 (up d) { cq 3 .mergeWait with kind := .finish 63 }, { cq 3 .mergeWait with kind := .finish 63 }, _, _, 63, rfl, rfl, by
     decide +kernel⟩,
   ⟨svc fun d => let d := ((hold1 (up d) { cq 3 .merge with kind := .finish 63 }).setF F.FIN_CTRL_EN 1).setF F.FIN_GRP_CFG_EN 1 63;
     { d with hold := { d.hold with fifos := [(fifoKey 63 0, [7])] } }, { cq 3 .merge with kind := .finish 63 }, _, _, 0, 63, rfl, rfl, no_copy (by
     decide +kernel), by decide +kernel⟩⟩

theorem met_CopiesLeave :
    (∃ (s : State) (c : Copy) (q e : Nat), q = queueOf e c.served ∧ s.dev.copy? c.id = some c ∧ c.egress = e ∧ e < 1024 ∧ s.dev.linkUp e = true ∧
      (s.dev.copiesOf (s.dev.queue q)).find? (fun x => !x.selected) = some c ∧ c.served < 4 ∧ s.dev.laneRoom q 160 = true) ∧
    (∃ (s : State) (c : Copy) (q e p : Nat) (pipes : List Nat), q = queueOf e c.served ∧ s.dev.copy? c.id = some c ∧ c.egress = e ∧ e < 1024 ∧
      s.dev.linkUp e = true ∧ s.dev.buf.copies = [(c.id, c)] ∧ s.dev.buf.claims = [⟨p / 4096, p, pipes⟩] ∧ c.selected = true ∧ pipeOf e ∈ pipes ∧ p
      ∈ s.dev.wanted c) ∧
    (∃ (s : State) (c : Copy) (q e r : Nat), q = queueOf e c.served ∧ s.dev.copy? c.id = some c ∧ c.egress = e ∧ e < 1024 ∧ s.dev.linkUp e = true ∧
      c.stage = .calendar ∧ c.releaseOf = some r ∧ s.dev.now8 + (s.dev.fix e + s.dev.f F.STG_CTRL_LEAD_NS) * 8 < c.launchQ8) ∧
    (∃ (s : State) (c : Copy) (q e r : Nat), q = queueOf e c.served ∧ s.dev.copy? c.id = some c ∧ c.egress = e ∧ e < 1024 ∧ s.dev.linkUp e = true ∧
      c.stage = .calendar ∧ c.releaseOf = some r ∧ c.launchQ8 ≤ s.dev.now8 + (s.dev.fix e + s.dev.f F.STG_CTRL_LEAD_NS) * 8) ∧
    (∃ (s : State) (c : Copy) (q e r : Nat), q = queueOf e c.served ∧ s.dev.copy? c.id = some c ∧ c.egress = e ∧ e < 1024 ∧ s.dev.linkUp e = true ∧
      c.stage = .calendar ∧ c.releaseOf = some r ∧ c.eligible = true ∧ s.dev.dataReady c = true ∧ SMap.find? s.dev.egr.onLine e = none ∧
      c.pastBound (max c.launchQ8 (s.dev.now8 + s.dev.tx e * 8)) = false) ∧
    (∃ (s : State) (c : Copy) (q e : Nat), q = queueOf e c.served ∧ s.dev.copy? c.id = some c ∧ c.egress = e ∧ e < 1024 ∧ s.dev.linkUp e = true ∧
      SMap.find? s.dev.egr.onLine e = none ∧ s.dev.pipeOn (pipeOf e) = true ∧ s.dev.on F.PORT_STATUS_LPI_TX e = false ∧ SMap.get s.dev.ports.awake
      e 0 ≤ s.dev.el8 ∧ s.dev.timedReady e = some c ∧ c.pastBound (s.dev.now8 + s.dev.tx e * 8) = false ∧ s.dev.mayStart c = true) ∧
    (∃ (s : State) (c : Copy) (q e cl : Nat) (l : List (Nat × Nat)) (more : List (Nat × List (Nat × Nat))), q = queueOf e c.served ∧ s.dev.copy?
      c.id = some c ∧ c.egress = e ∧ e < 1024 ∧ s.dev.linkUp e = true ∧ SMap.find? s.dev.egr.onLine e = none ∧ s.dev.pipeOn (pipeOf e) = true ∧
      s.dev.on F.PORT_STATUS_LPI_TX e = false ∧ SMap.get s.dev.ports.awake e 0 ≤ s.dev.el8 ∧ s.dev.timedReady e = none ∧ SMap.find?
      s.dev.egr.preempted e = none ∧ SMap.find? s.dev.egr.pfcPending e = some ((cl, l) :: more) ∧ s.dev.fits e 64 = true) ∧
    (∃ (s : State) (c b : Copy) (q e : Nat), q = queueOf e c.served ∧ s.dev.copy? c.id = some c ∧ c.egress = e ∧ e < 1024 ∧ s.dev.linkUp e = true ∧
      SMap.find? s.dev.egr.onLine e = some c.id ∧ s.dev.preemptable c = true ∧ s.dev.timedReady e = some b) ∧
    (∃ (s : State) (c : Copy) (q e : Nat), q = queueOf e c.served ∧ s.dev.copy? c.id = some c ∧ c.egress = e ∧ e < 1024 ∧ s.dev.linkUp e = true ∧
      c.stage = .line ∧ c.kind = .unicast ∧ c.cls < 4 ∧ c.deferred = false ∧ c.record = false) :=
  ⟨⟨svc (inQueue (cq 3 .queued)), cq 3 .queued, _, 1023, rfl, by decide +kernel⟩,
   ⟨svc fun d => let d := hold1 (up d) { cq 3 .lane with selected := true, cells := [4097] };
     { d with buf := { d.buf with claims := [⟨1, 4097, [15]⟩] } }, { cq 3 .lane with selected := true, cells := [4097] }, _, 1023, 4097, [15], rfl,
     by decide +kernel⟩,
   ⟨svc fun d => hold1 (up d) { rel with launchQ8 := 17000000000, eligible := false }, { rel with launchQ8 := 17000000000, eligible := false }, _,
     1023, 5, rfl, by decide +kernel⟩,
   ⟨svc fun d => hold1 (up d) rel, rel, _, 1023, 5, rfl, by decide +kernel⟩,
   ⟨svc fun d => hold1 (up d) rel, rel, _, 1023, 5, rfl, by decide +kernel⟩,
   ⟨svc (inLane tsel), tsel, _, 1023, rfl, by decide +kernel⟩,
   ⟨svc fun d => let d := inQueue (cq 4 .queued) d; { d with egr := { d.egr with pfcPending := [(1023, [(0, [(3, 0)])])] } }, cq 4 .queued, _,
     1023, 0, [(3, 0)], [], rfl, by decide +kernel⟩,
   ⟨svc preDev, bline, { tsel with id := 8 }, _, 1023, rfl, by decide +kernel⟩,
   ⟨svc fun d => let d := hold1 (up d) (cq 3 .line); { d with egr := { d.egr with onLine := [(1023, 7)] } }, cq 3 .line, _, 1023, rfl, by
     decide +kernel⟩⟩

theorem met_CopiesAreGivenUp :
    (∃ (s : State) (fid : Nat) (z : RxFrame), SMap.find? s.dev.buf.rx fid = some z ∧ z.started = true ∧ z.ingress < 1024) ∧
    (∃ (s : State) (fid : Nat), SMap.find? s.dev.buf.rx fid = none) ∧
    (∃ (s : State) (c : Copy) (fid : Nat) (z : RxFrame), SMap.find? s.dev.buf.rx fid = some z ∧ z.started = true ∧ s.dev.buf.copies = [(c.id, c)] ∧
      c.frame.id = fid ∧ c.stage ≠ .discard ∧ c.stage ≠ .due ∧ c.started = true) ∧
    (∃ (s : State) (c : Copy) (fid : Nat) (z : RxFrame), SMap.find? s.dev.buf.rx fid = some z ∧ z.started = false ∧ s.dev.buf.copies = [(c.id, c)]
      ∧ c.frame.id = fid ∧ c.stage ≠ .discard) ∧
    (∃ (s : State) (c : Copy) (p : Nat), s.dev.buf.discards = [(p, [c.id])] ∧ s.dev.copy? c.id = some c) ∧
    (∃ (s : State) (e : Nat), (∀ i y, s.dev.copy? i = some y → y.id = i) ∧ (∀ k i, k < 4 → i ∈ s.dev.queue (8 * e + 4 + k) → ∃ y, s.dev.copy? i =
      some y ∧ queueOf y.egress y.served = 8 * e + 4 + k) ∧ e < 1024 ∧ (SMap.find? s.dev.buf.hold e).isSome = true ∧ s.dev.linkUp e = false) ∧
    (∃ (s : State) (c : Copy) (q : Nat), q = queueOf c.egress c.served ∧ s.dev.buf.queues = [(q, [c.id])] ∧ s.dev.copy? c.id = some c ∧ c.selected
      = false ∧ 4 ≤ q % 8 ∧ s.dev.buf.spill = [] ∧ s.dev.egr.lanes = [] ∧ c.started = false ∧ s.dev.aged c = true) ∧
    (∃ (s : State) (c : Copy) (q : Nat), q = queueOf c.egress c.served ∧ s.dev.buf.queues = [(q, [c.id])] ∧ s.dev.copy? c.id = some c ∧ c.selected
      = false ∧ q % 8 < 4 ∧ c.pastBound (s.dev.headDeparture c.egress) = true) ∧
    (∃ (s : State) (c : Copy) (q : Nat), q = queueOf c.egress c.served ∧ s.dev.buf.queues = [(q, [c.id])] ∧ s.dev.copy? c.id = some c ∧ c.selected
      = false ∧ q % 8 < 4 ∧ c.pastBound (s.dev.headDeparture c.egress) = false) ∧
    (∃ (s : State) (x : Notice) (rest : List Notice), s.dev.adm.notices = x :: rest ∧ (s.dev.linkUp x.ingress = false ∨ s.dev.on
      F.ADM_NOTICE_CTRL_EN = false)) ∧
    (∃ (s : State) (x : Notice) (rest : List Notice), s.dev.adm.notices = x :: rest ∧ s.dev.linkUp x.ingress = true ∧ s.dev.on F.ADM_NOTICE_CTRL_EN
      = true) :=
  ⟨⟨svc fun d => arriving true (up d), 5, ⟨1023, true⟩, by decide +kernel⟩,
   ⟨svc up, 5, by decide +kernel⟩,
   ⟨svc fun d => let d := arriving true (hold1 (up d) bline); { d with egr := { d.egr with onLine := [(1023, 7)] } }, bline, 5, ⟨1023, true⟩, by
     decide +kernel⟩,
   ⟨svc fun d => { arriving false (inQueue (cq 4 .queued) d) with waiting := [wait 5] }, cq 4 .queued, 5, ⟨1023, false⟩, by decide +kernel⟩,
   ⟨svc fun d => let d := hold1 (up d) (cq 4 .discard); { d with buf := { d.buf with discards := [(15, [7])] } }, cq 4 .discard, 15, by
     decide +kernel⟩,
   ⟨{ State.reset with dev := heldDev }, 1023, oneCopy, oneQueue, by decide +kernel⟩,
   ⟨svc fun d => (inQueue (cq 7 .queued) d).setF F.BUF_AGE_LIMIT_US 1 4095, cq 7 .queued, _, rfl, by decide +kernel⟩,
   ⟨svc (inQueue (cq 3 .queued)), cq 3 .queued, _, rfl, by decide +kernel⟩,
   ⟨svc (inQueue { cq 3 .queued with bound := 16777215, frame := { fr with stamp8 := 15999999000 } }),
     { cq 3 .queued with bound := 16777215, frame := { fr with stamp8 := 15999999000 } }, _, rfl, by decide +kernel⟩,
   ⟨svc fun d => { d with adm := { d.adm with notices := [note] } }, note, [], by decide +kernel⟩,
   ⟨svc fun d => let d := ((up d).setF F.ADM_NOTICE_CTRL_CLASS 7).setF F.ADM_NOTICE_CTRL_EN 1; { d with adm := { d.adm with notices := [note] } },
     note, [], by decide +kernel⟩⟩

theorem met_BlocksAreHeldAndFreed :
    (∃ (s : State) (m r k i pick : Nat) (v : Word), Writes s m .BUF_ALLOC_REQ 0 0 v.toNat ∧ requesterOf m = some r ∧ poolFor
      (F.BUF_ALLOC_REQ_SIZE.ext (s.dev.written .BUF_ALLOC_REQ 0 0 m v.toNat).toNat) = some k ∧ s.dev.f F.BUF_POOL_FREE_FREE k ≠ 0 ∧ s.dev.quotaOk r
      k 1 = true ∧ nextFree (s.dev.poolUsed k) (s.dev.f F.BUF_POOL_CFG_BLOCKS k) pick = some i) ∧
    (∃ (s : State) (m r : Nat) (v : Word), Writes s m .BUF_ALLOC_REQ 0 0 v.toNat ∧ requesterOf m = some r ∧ poolFor (F.BUF_ALLOC_REQ_SIZE.ext
      (s.dev.written .BUF_ALLOC_REQ 0 0 m v.toNat).toNat) = none) ∧
    (∃ (s : State) (m : Nat), Reaches s m none .BUF_ALLOC_RESP 0 0 ∧ (SMap.find? s.dev.regs (regKey .BUF_ALLOC_RESP 0 0 0 m)).isSome = true) ∧
    (∃ (s : State) (m r k i : Nat) (v : Word), k = v.toNat / 2 ^ 26 % 8 ∧ i = v.toNat % 2 ^ 26 ∧ Writes s m .BUF_FREE 0 0 v.toNat ∧ requesterOf m =
      some r ∧ 1 ≤ k ∧ k ≤ 4 ∧ SMap.find? s.dev.buf.holders (poolKey k i) = some r) ∧
    (∃ (s : State) (m r k i : Nat) (v : Word), k = v.toNat / 2 ^ 26 % 8 ∧ i = v.toNat % 2 ^ 26 ∧ Writes s m .BUF_FREE 0 0 v.toNat ∧ requesterOf m =
      some r ∧ (k < 1 ∨ 4 < k ∨ SMap.find? s.dev.buf.holders (poolKey k i) ≠ some r) ∧ s.dev.ctl.vlog.length < 256) ∧
    (∃ (s : State) (i q pick : Nat), q < 8256 ∧ (s.dev.spillOf q).openCopies ≠ [] ∧ 32768 ≤ s.dev.spwTokens ∧ s.dev.quotaOk 16 5 1 = true ∧ s.dev.f
      F.BUF_POOL_FREE_FREE 5 ≠ 0 ∧ nextFree (s.dev.poolUsed 5) (s.dev.f F.BUF_POOL_CFG_BLOCKS 5) pick = some i) :=
  ⟨⟨svc fun d => ((d.setF F.BUF_POOL_FREE_FREE 8 4).setF F.BUF_POOL_CFG_BLOCKS 8 4).setF F.BUF_QUOTA_LIMIT 8 21 4, 0x13, 21, 4, 0, 0, 10240,
      writes_of (by decide +kernel), by decide +kernel⟩,
   ⟨(svc id), 0x13, 21, 10241, writes_of (by decide +kernel), by decide +kernel⟩,
   ⟨svc fun d => d.set .BUF_ALLOC_RESP 5 0 0 0 0x13, 0x13, reaches_of (by decide +kernel), by decide +kernel⟩,
   ⟨svc fun d => { d with buf := { d.buf with holders := [(poolKey 4 3, 22)] } }, 0, 22, _, _, 0x10000003, rfl, rfl, writes_of (by decide +kernel),
     by decide +kernel⟩,
   ⟨svc fun d => { d with buf := { d.buf with holders := [(poolKey 4 3, 21)] } }, 0, 22, _, _, 0x10000003, rfl, rfl, writes_of (by decide +kernel),
     by decide +kernel⟩,
   ⟨svc fun d => let d := ((d.setF F.BUF_POOL_FREE_FREE 8 5).setF F.BUF_POOL_CFG_BLOCKS 8 5).setF F.BUF_QUOTA_LIMIT 8 16 5;
     { d with buf := { d.buf with spill := [(8255, ⟨[], [7], [1, 2], 100⟩)] } }, 0, 8255, 0, by decide +kernel⟩⟩

theorem met_PausesPacersAndDerates :
    (∃ (s : State) (e k prio time : Nat), e < 1024 ∧ s.dev.mayArrive e = true ∧ s.dev.serving = true ∧ s.dev.on F.PIPE_PFC_CFG_EN_RX (e / 64) (e %
      64) = true ∧ prio < 8 ∧ k < 4 ∧ bits (s.dev.f F.PIPE_PFC_CFG_RX_MAP (e / 64) (e % 64)) (3 * prio + 2) (3 * prio) = 4 + k ∧ 0 < time ∧ time <
      65536) ∧
    (∃ (s : State) (e : Nat), e < 1024 ∧ s.dev.mayArrive e = true ∧ s.dev.serving = true ∧ s.dev.ctl.vlog.length < 256) ∧
    (∃ (s : State) (e k : Nat), e < 1024 ∧ k < 4 ∧ (SMap.find? s.dev.egr.pauses (8 * e + 4 + k)).isSome = true) ∧
    (∃ (s : State) (e k : Nat), k < 4 ∧ s.dev.pfcTx e = true ∧ s.dev.xoff e k = true ∧ s.dev.f F.PIPE_PFC_THR_XON_SECTORS (e / 64) (4 * (e % 64) +
      k) ≤ s.dev.usageOf e k) ∧
    (∃ (s : State) (m p l : Nat) (v : Word) (reg : Reg), Writes s m reg p l v.toNat ∧ reg ∈ [Reg.PIPE_QPACER_RATE, .PIPE_QPACER_BURST] ∧ clr
      (s.dev.written reg p l m v.toNat).toNat (2 ^ 31) ≠ clr (s.dev.get reg p l 0 m).toNat (2 ^ 31)) ∧
    (∃ (s : State) (m p l : Nat) (v : Word) (reg : Reg), Writes s m reg p l v.toNat ∧ reg ∈ [Reg.PIPE_PPACER_RATE, .PIPE_PPACER_BURST] ∧ clr
      (s.dev.written reg p l m v.toNat).toNat (2 ^ 31) ≠ clr (s.dev.get reg p l 0 m).toNat (2 ^ 31)) ∧
    (∃ (s : State) (m p l : Nat) (v : Word) (reg : Reg), Writes s m reg p l v.toNat ∧ reg ∈ [Reg.PIPE_METER_CFG, .PIPE_METER_CIR, .PIPE_METER_PIR,
      .PIPE_METER_CBS, .PIPE_METER_EBS_PBS, .PIPE_METER_DSCP]) ∧
    (∃ (s : State) (m p : Nat) (v : Word), Writes s m .ADM_PIPE_DERATE p 0 v.toNat ∧ m ≠ 0x22 ∧ s.dev.pwcHolds p = false ∧ (∀ x, x ∈ SMap.get
      s.dev.adm.derateOld p [] → x.2 ≤ s.dev.cell + 2)) ∧
    (∃ (s : State) (m p : Nat) (v : Word), Writes s m .ADM_PIPE_DERATE p 0 v.toNat ∧ m ≠ 0x22 ∧ s.dev.pwcHolds p = true) :=
  ⟨⟨svc fun d => ((up d).setF F.PIPE_PFC_CFG_EN_RX 1 15 63).setF F.PIPE_PFC_CFG_RX_MAP (7 * 2 ^ 21) 15 63, 1023, 3, 7, 65535, by decide +kernel⟩,
   ⟨svc up, 1023, by decide +kernel⟩,
   ⟨svc fun d => let d := (up d).setF F.PIPE_PFC_STATE_PAUSED 8 15 63; { d with egr := { d.egr with pauses := [(8191, 5)] } }, 1023, 3, by
     decide +kernel⟩,
   ⟨svc fun d => (((up d).setF F.PIPE_PFC_CFG_EN_TX 1 15 63).setXoff 1023 3 true).setF F.PIPE_PFC_THR_XON_SECTORS 0 15 255, 1023, 3, by
     decide +kernel⟩,
   ⟨(svc id), 0, 15, 511, 1000, .PIPE_QPACER_RATE, writes_of (by decide +kernel), by decide +kernel⟩,
   ⟨(svc id), 0, 15, 63, 1000, .PIPE_PPACER_BURST, writes_of (by decide +kernel), by decide +kernel⟩,
   ⟨(svc id), 0, 15, 4095, 0, .PIPE_METER_DSCP, writes_of (by decide +kernel), by decide +kernel⟩,
   ⟨(svc id), 0, 15, 0x80000005, writes_of (by decide +kernel), by decide +kernel⟩,
   ⟨svc fun d => { d with pwr := { d.pwr with request := [(15, 0)] } }, 0, 15, 0x80000005, writes_of (by decide +kernel), by decide +kernel⟩⟩

end Sys2Proof.Tests
end

/-! ### The register map: every element is found at its offset -/

section
namespace Sys2Proof.Machine

/-- The offset of the word an access names within an element (R15). -/
def wordOff (high : Bool) : Nat := if high then 4 else 0

/-- The offset of an array's element from its base: stride times index, summed over the indices. -/
def arrayPlace : List (Nat × Nat) → List Nat → Nat
  | (s, _) :: dims, i :: is => s * i + arrayPlace dims is
  | _, _ => 0

/-- The greatest offset of an array's element from its base. -/
def arrayReach : List (Nat × Nat) → Nat
  | [] => 0
  | (s, n) :: dims => s * (n - 1) + arrayReach dims

/-- Indices within the counts of an array. -/
inductive InArray : List (Nat × Nat) → List Nat → Prop where
  | nil : InArray [] []
  | cons {d : Nat × Nat} {i : Nat} {dims : List (Nat × Nat)} {is : List Nat} (hi : i < d.2) (h : InArray dims is) :
    InArray (d :: dims) (i :: is)

/-- Every stride leaves room for what it strides over, with the last word at `e`. -/
def arrayNested (e : Nat) : List (Nat × Nat) → Bool
  | [] => true
  | (s, _) :: dims => Nat.blt (arrayReach dims + e) s && arrayNested e dims

/-- Two arrays share no offset, the first starting `gap` above the second: it starts past the second's end, or both have
one stride, neither crosses it, and what is left within the stride shares none. -/
def arraysApart (ea eb gap : Nat) (A B : List (Nat × Nat)) : Bool :=
  Nat.blt (arrayReach B + eb) gap ||
  match A, B with
  | (s, _) :: A, (t, _) :: B =>
    Nat.beq s t && (Nat.blt (gap % s + arrayReach A + ea) s && (Nat.blt (arrayReach B + eb) s && arraysApart ea eb (gap % s) A B))
  | _, _ => false

theorem arrayPlace_le_arrayReach {dims : List (Nat × Nat)} {is : List Nat} (h : InArray dims is) :
    arrayPlace dims is ≤ arrayReach dims := by
  induction h with
  | nil => exact Nat.le_refl 0
  | @cons d i dims is hi _ ih =>
    have : d.1 * i ≤ d.1 * (d.2 - 1) := Nat.mul_le_mul_left _ (by omega)
    simp only [arrayPlace, arrayReach]
    omega

theorem wordOff_le {high wide : Bool} (h : high = true → wide = true) : wordOff high ≤ wordOff wide := by
  cases high
  · exact Nat.zero_le _
  · exact Nat.le_of_eq (congrArg wordOff (h rfl).symm)

/-- Equal numbers in a place-value form have equal last digits. -/
theorem digit_unique {s u v p q : Nat} (hp : p < s) (hq : q < s) (h : s * u + p = s * v + q) : p = q := by
  have := congrArg (· % s) h
  simpa [Nat.mul_add_mod, Nat.mod_eq_of_lt hp, Nat.mod_eq_of_lt hq] using this

theorem arraysApart_sound {ea eb x y : Nat} (hx : x ≤ ea) (hy : y ≤ eb) {A : List (Nat × Nat)} {is : List Nat}
    (hA : InArray A is) : ∀ {gap : Nat} {B : List (Nat × Nat)} {js : List Nat}, InArray B js → arraysApart ea eb gap A B = true →
      gap + arrayPlace A is + x ≠ arrayPlace B js + y := by
  induction hA with
  | nil =>
    intro gap B js hB h
    have hb := arrayPlace_le_arrayReach hB
    have : arrayReach B + eb < gap := by simpa [arraysApart, Nat.blt_eq] using h
    omega
  | @cons a i A is _ hA ih =>
    intro gap B js hB h
    have hb := arrayPlace_le_arrayReach hB
    unfold arraysApart at h
    rw [Bool.or_eq_true] at h
    rcases h with h | h
    · rw [Nat.blt_eq] at h
      omega
    · cases hB with
      | nil => cases h
      | @cons b j B js _ hB =>
        obtain ⟨s, n⟩ := a
        obtain ⟨t, n'⟩ := b
        rw [Bool.and_eq_true, Bool.and_eq_true, Bool.and_eq_true, Nat.beq_eq, Nat.blt_eq, Nat.blt_eq] at h
        obtain ⟨rfl, hs, ht, h⟩ := h
        have ha := arrayPlace_le_arrayReach hA
        have hb := arrayPlace_le_arrayReach hB
        intro e
        simp only [arrayPlace] at e
        refine ih hB h (digit_unique (s := s) (u := gap / s + i) (v := j) (by omega) (by omega) ?_)
        have := Nat.div_add_mod gap s
        rw [Nat.mul_add]
        omega

/-- An element's offset within its array names its indices and its word. -/
theorem matchDims_arrayPlace {wide high : Bool} (hw : high = true → wide = true) {dims : List (Nat × Nat)} {is : List Nat}
    (h : InArray dims is) (hn : arrayNested (wordOff wide) dims = true) :
    matchDims wide dims (arrayPlace dims is + wordOff high) = some (is, high) := by
  induction h with
  | nil =>
    cases high
    · rfl
    · cases hw rfl
      rfl
  | @cons d i dims is hi h ih =>
    obtain ⟨s, n⟩ := d
    simp only [arrayNested, Bool.and_eq_true, Nat.blt_eq] at hn
    obtain ⟨hs, hn⟩ := hn
    have hlt : arrayPlace dims is + wordOff high < s := by
      have := arrayPlace_le_arrayReach h
      have := wordOff_le hw
      omega
    have hdiv : (s * i + (arrayPlace dims is + wordOff high)) / s = i := by
      rw [Nat.mul_add_div (by omega), Nat.div_eq_of_lt hlt, Nat.add_zero]
    have hmod : (s * i + (arrayPlace dims is + wordOff high)) % s = arrayPlace dims is + wordOff high := by
      rw [Nat.mul_add_mod, Nat.mod_eq_of_lt hlt]
    simp only [arrayPlace, Nat.add_assoc, matchDims, hdiv, hmod, ih hn]
    exact if_pos hi

/-- Indices that an offset is matched to lie in their counts and give the offset back. -/
theorem matchDims_sound {wide high : Bool} : ∀ {dims : List (Nat × Nat)} {rem : Nat} {is : List Nat},
    matchDims wide dims rem = some (is, high) →
      InArray dims is ∧ rem = arrayPlace dims is + wordOff high ∧ (high = true → wide = true)
  | [], rem, is, h => by
    rw [matchDims] at h
    split at h
    · next e => cases h; exact ⟨.nil, eq_of_beq e, nofun⟩
    · split at h
      · next e =>
        cases h
        obtain ⟨hw, e⟩ := Bool.and_eq_true_iff.1 e
        exact ⟨.nil, eq_of_beq e, fun _ => hw⟩
      · cases h
  | (s, n) :: dims, rem, is, h => by
    rw [matchDims] at h
    split at h
    · next hlt =>
      split at h
      · next is' high' e =>
        cases h
        obtain ⟨hin, hrem, hw⟩ := matchDims_sound e
        refine ⟨.cons hlt hin, ?_, hw⟩
        rw [arrayPlace, Nat.add_assoc, ← hrem, Nat.div_add_mod]
      · cases h
    · cases h

/-- The registers of the blocks whose range starts at an offset. -/
def regsFrom (lo : Nat) : List Reg := (regBlocks.filter fun b => b.1 == lo).flatMap fun b => b.2.2

/-- No words of two registers share an offset. -/
def Reg.apart (x r : Reg) : Bool :=
  bif Nat.ble r.row.base x.row.base
  then arraysApart (wordOff x.row.wide) (wordOff r.row.wide) (x.row.base - r.row.base) x.row.dims r.row.dims
  else arraysApart (wordOff r.row.wide) (wordOff x.row.wide) (r.row.base - x.row.base) r.row.dims x.row.dims

/-- A register has at most three indices, its strides nest, and its array lies in the range of its block. -/
def Reg.wellPlaced (lo hi : Nat) (r : Reg) : Bool :=
  Nat.ble r.row.dims.length 3 && (arrayNested (wordOff r.row.wide) r.row.dims &&
    (Nat.ble lo r.row.base && Nat.blt (r.row.base + arrayReach r.row.dims + wordOff r.row.wide) hi))

theorem regsFrom_apart : ∀ b ∈ regBlocks, (regsFrom b.1).Pairwise fun x r => x.apart r = true := by decide +kernel

theorem regBlocks_wellPlaced : ∀ b ∈ regBlocks, ∀ r ∈ b.2.2, r.wellPlaced b.1 b.2.1 = true := by decide +kernel

theorem regBlocks_ranges : ∀ b ∈ regBlocks, ∀ c ∈ regBlocks, c.1 = b.1 ∨ c.2.1 ≤ b.1 ∨ b.2.1 ≤ c.1 := by decide +kernel

/-- The map lists the registers in the order of their names. -/
theorem regBlocks_order : (regBlocks.flatMap fun b => b.2.2).map Reg.ctorIdx = List.range 359 := by decide +kernel

/-- The map leaves out no register. -/
theorem exists_block (r : Reg) : ∃ b ∈ regBlocks, r ∈ b.2.2 := by
  have hlt : r.ctorIdx < 359 := by cases r <;> decide
  obtain ⟨x, hx, e⟩ := List.mem_map.1 (regBlocks_order ▸ List.mem_range.2 hlt)
  have : x = r := by rw [← Reg.ofNat_ctorIdx x, e, Reg.ofNat_ctorIdx]
  exact this ▸ List.mem_flatMap.1 hx

/-- What an offset hits is a word of the register's array. -/
theorem hit_sound {x : Reg} {o : Nat} (h : x.hit? o ≠ none) :
    ∃ is high, InArray x.row.dims is ∧ wordOff high ≤ wordOff x.row.wide ∧
      o = x.row.base + arrayPlace x.row.dims is + wordOff high := by
  simp only [Reg.hit?] at h
  split at h
  · exact absurd rfl h
  · next hlo =>
    split at h
    · next is high e =>
      obtain ⟨hin, hrem, hw⟩ := matchDims_sound e
      exact ⟨is, high, hin, wordOff_le hw, by omega⟩
    · exact absurd rfl h

theorem hit_arrayPlace {r : Reg} {is : List Nat} {high : Bool} (hw : high = true → r.row.wide = true) (h : InArray r.row.dims is)
    (hn : arrayNested (wordOff r.row.wide) r.row.dims = true) :
    r.hit? (r.row.base + arrayPlace r.row.dims is + wordOff high) = some ⟨r, is.getD 0 0, is.getD 1 0, is.getD 2 0, high⟩ := by
  have e : r.row.base + arrayPlace r.row.dims is + wordOff high - r.row.base = arrayPlace r.row.dims is + wordOff high := by omega
  have hlo : ¬ r.row.base + arrayPlace r.row.dims is + wordOff high < r.row.base := by omega
  simp only [Reg.hit?, e, matchDims_arrayPlace hw h hn, if_neg hlo]

/-- No offset hits both registers. -/
def HitsApart (x r : Reg) : Prop := ∀ o, x.hit? o = none ∨ r.hit? o = none

theorem hitsApart_of_apart {x r : Reg} (h : x.apart r = true) : HitsApart x r := by
  intro o
  refine Decidable.byContradiction fun hc => ?_
  rw [not_or] at hc
  obtain ⟨is, hi, hA, hx, ex⟩ := hit_sound hc.1
  obtain ⟨js, hj, hB, hr, er⟩ := hit_sound hc.2
  unfold Reg.apart at h
  cases hle : Nat.ble r.row.base x.row.base with
  | true =>
    rw [hle] at h
    have := Nat.le_of_ble_eq_true hle
    exact arraysApart_sound hx hr hA hB h (by omega)
  | false =>
    rw [hle] at h
    have : ¬ r.row.base ≤ x.row.base := by simpa [← Nat.ble_eq] using hle
    exact arraysApart_sound hr hx hB hA h (by omega)

theorem HitsApart.symm {x r : Reg} (h : HitsApart x r) : HitsApart r x := fun o => (h o).symm

/-- In a list whose registers are apart from all after them, any two registers are apart. -/
theorem hitsApart_of_pairwise {l : List Reg} (h : l.Pairwise HitsApart) {x r : Reg} (hx : x ∈ l) (hr : r ∈ l) (hne : x ≠ r) :
    HitsApart x r := by
  induction h with
  | nil => cases hx
  | @cons y l hy _ ih =>
    rcases List.mem_cons.1 hx with rfl | hxl
    · exact hy r ((List.mem_cons.1 hr).resolve_left (Ne.symm hne))
    · rcases List.mem_cons.1 hr with rfl | hrl
      · exact (hy x hxl).symm
      · exact ih hxl hrl

theorem hitsApart_of_regsFrom {b : Nat × Nat × List Reg} (hb : b ∈ regBlocks) {x r : Reg} (hx : x ∈ regsFrom b.1)
    (hr : r ∈ regsFrom b.1) (hne : x ≠ r) : HitsApart x r :=
  hitsApart_of_pairwise ((regsFrom_apart b hb).imp hitsApart_of_apart) hx hr hne

theorem findReg_eq_some {r : Reg} {o : Nat} {h : RegHit} (hr : r.hit? o = some h) :
    ∀ {l : List Reg}, r ∈ l → (∀ x ∈ l, x ≠ r → x.hit? o = none) → findReg o l = some h
  | x :: l, hm, hn => by
    by_cases e : x = r
    · subst e; simp [findReg, hr]
    · have hm : r ∈ l := (List.mem_cons.1 hm).resolve_left (Ne.symm e)
      rw [findReg, hn x (by simp) e]
      exact findReg_eq_some hr hm fun y hy => hn y (List.mem_cons_of_mem _ hy)

theorem lookupReg_of_hit {r : Reg} {o : Nat} {h : RegHit} {b : Nat × Nat × List Reg} (hb : b ∈ regBlocks) (hr : r ∈ b.2.2)
    (hlo : b.1 ≤ o) (hhi : o < b.2.1) (hh : r.hit? o = some h) : lookupReg o = some h := by
  have hsub : ∀ x ∈ (regBlocks.filter fun b => b.1 ≤ o && o < b.2.1).flatMap (fun b => b.2.2), x ∈ regsFrom b.1 := by
    intro x hx
    obtain ⟨c, hc, hx⟩ := List.mem_flatMap.1 hx
    obtain ⟨hc, ho⟩ := List.mem_filter.1 hc
    simp only [Bool.and_eq_true, decide_eq_true_eq] at ho
    have := regBlocks_ranges b hb c hc
    exact List.mem_flatMap.2 ⟨c, List.mem_filter.2 ⟨hc, by rw [beq_iff_eq]; omega⟩, hx⟩
  have hm : r ∈ (regBlocks.filter fun b => b.1 ≤ o && o < b.2.1).flatMap (fun b => b.2.2) :=
    List.mem_flatMap.2 ⟨b, List.mem_filter.2 ⟨hb, by simp [hlo, hhi]⟩, hr⟩
  refine findReg_eq_some hh hm fun x hx hne => ?_
  exact (hitsApart_of_regsFrom hb (hsub x hx) (hsub r hm) hne o).resolve_right (by simp [hh])

/-- The map finds each word of an element at its place in its array. -/
theorem lookupReg_arrayPlace {r : Reg} {is : List Nat} {high : Bool} (hw : high = true → r.row.wide = true)
    (h : InArray r.row.dims is) :
    lookupReg (r.row.base + arrayPlace r.row.dims is + wordOff high) = some ⟨r, is.getD 0 0, is.getD 1 0, is.getD 2 0, high⟩ := by
  obtain ⟨b, hb, hr⟩ := exists_block r
  have hp := regBlocks_wellPlaced b hb r hr
  simp only [Reg.wellPlaced, Bool.and_eq_true, Nat.ble_eq, Nat.blt_eq] at hp
  obtain ⟨-, hn, hlo, hhi⟩ := hp
  have := arrayPlace_le_arrayReach h
  have := wordOff_le hw
  exact lookupReg_of_hit hb hr (by omega) (by omega) (hit_arrayPlace hw h hn)

theorem dims_length_le (r : Reg) : r.row.dims.length ≤ 3 := by
  obtain ⟨b, hb, hr⟩ := exists_block r
  have hp := regBlocks_wellPlaced b hb r hr
  simp only [Reg.wellPlaced, Bool.and_eq_true, Nat.ble_eq] at hp
  exact hp.1

/-- Is the third index within a register's count, or 0 where it has none? -/
def Reg.hasThird (r : Reg) (k : Nat) : Prop :=
  match r.row.dims with
  | [_, _, c] => k < c.2
  | _ => k = 0

/-- A register's offset at its indices is the place of an element of its array. -/
theorem off_eq_arrayPlace {r : Reg} {i j k : Nat} (h : r.has i j = true) (hk : r.hasThird k) :
    ∃ is, InArray r.row.dims is ∧ r.off i j k = r.row.base + arrayPlace r.row.dims is ∧
      is.getD 0 0 = i ∧ is.getD 1 0 = j ∧ is.getD 2 0 = k := by
  have hl := dims_length_le r
  unfold Reg.has at h
  unfold Reg.hasThird at hk
  unfold Reg.off
  match e : r.row.dims with
  | [] =>
    simp only [e, Bool.and_eq_true, beq_iff_eq] at h hk
    exact ⟨[], .nil, rfl, h.1.symm, h.2.symm, hk.symm⟩
  | [a] =>
    simp only [e, Bool.and_eq_true, beq_iff_eq, decide_eq_true_eq] at h hk
    exact ⟨[i], .cons h.1 .nil, rfl, rfl, h.2.symm, hk.symm⟩
  | [a, b] =>
    simp only [e, Bool.and_eq_true, decide_eq_true_eq] at h hk
    exact ⟨[i, j], .cons h.1 (.cons h.2 .nil), by simp [arrayPlace, Nat.add_assoc], rfl, rfl, hk.symm⟩
  | [a, b, c] =>
    simp only [e, Bool.and_eq_true, decide_eq_true_eq] at h hk
    exact ⟨[i, j, k], .cons h.1 (.cons h.2 (.cons hk .nil)), by simp [arrayPlace, Nat.add_assoc], rfl, rfl, rfl⟩
  | _ :: _ :: _ :: _ :: _ =>
    rw [e] at hl
    simp only [List.length_cons] at hl
    omega

/-- Settles O5: no two registers of the map share an offset, and each offset is matched to its own indices. -/
theorem everyRegisterFound : Obligations.EveryRegisterFound := by
  intro r i j k h hk
  obtain ⟨is, hin, ho, rfl, rfl, rfl⟩ := off_eq_arrayPlace h hk
  rw [ho]
  exact ⟨lookupReg_arrayPlace (high := false) (by simp) hin, fun hw => lookupReg_arrayPlace (high := true) (fun _ => hw) hin⟩

end Sys2Proof.Machine
end

/-! ### Every command, and the state after reset -/

section
namespace Sys2Proof.Machine

/-- What a command can do: its form is one that may change the memories and the device (`onMem`, `onDev`), and it answers
that state with the queue as it was. -/
theorem exec_next_withBoth (c : Instr) (s : State) : ∃ m d, exec c s = .next (s.withBoth m d) := by
  cases c <;> exact ⟨_, _, rfl⟩

/-- Settles O2: both forms of a command rebuild the state around the queue. -/
theorem everyCommandAnswersNext : Obligations.EveryCommandAnswersNext := by
  intro c s
  obtain ⟨m, d, h⟩ := exec_next_withBoth c s
  exact ⟨_, h, State.withBoth_pending s m d⟩

/-- The register file lists nothing after a reset, so every register holds its reset value. -/
theorem Dev.reset_get (r : Reg) (i j k m : Nat) : Dev.reset.get r i j k m = BitVec.ofNat 32 (r.resetAt i j) :=
  SMap.get_nil _ _

/-- A field reads after reset what it has in its register's reset value. -/
theorem Dev.reset_f (x : Fld) (i j k m : Nat) : Dev.reset.f x i j k m = x.ext (BitVec.ofNat 32 (x.reg.resetAt i j)).toNat := by
  rw [Dev.f, Dev.reset_get]

/-- Settles O3: after reset neither the memories nor the register file list anything. -/
theorem resetStateHolds : Obligations.ResetStateHolds := by
  refine ⟨rfl, State.reset_mem_wf, fun a => ⟨SMap.get_nil a _, SMap.get_nil a _⟩, ?_, Dev.reset_get, ?_, ?_⟩
  · exact (Dev.reset_f F.ID_STATUS_STAGE 0 0 0 0).trans (by decide)
  · exact (Dev.reset_get .ID_IDENTITY 0 0 0 0).trans rfl
  · exact (Dev.reset_get .ID_REVISION 0 0 0 0).trans rfl

end Sys2Proof.Machine
end

/-! ### Fields -/

section
namespace Sys2Proof.Machine

/-- A write of one register leaves the registers under every other key. -/
theorem Dev.regsKept_set (d : Dev) (r : Reg) (v : Word) (i j k m : Nat) : RegsKept [regKey r i j k m] d (d.set r v i j k m) := by
  intro key hk
  exact SMap.find?_set_other _ _ (by simpa using hk)

/-- A field apart from the one that changes in its register is unchanged. -/
theorem Dev.f_setF_apart (d : Dev) {x y : Fld} (hx : x.wf = true) (hy : y.lo ≤ y.hi) (hr : y.reg = x.reg)
    (h : y.hi < x.lo ∨ x.hi < y.lo) (v i j k m : Nat) : (d.setF x v i j k m).f y i j k m = d.f y i j k m := by
  rcases h with h | h
  · exact Dev.f_setF_below d x y hx hy hr h v i j k m
  · exact Dev.f_setF_above d x y hx hr h v i j k m

/-- Settles O7, from the laws of a field's read after a write. -/
theorem fieldWriteChangesItsField : Obligations.FieldWriteChangesItsField := by
  intro d x v i j k m hlo hhi
  have hx : x.wf = true := by simp [Fld.wf, hlo, hhi]
  refine ⟨Dev.f_setF_same d x hx v i j k m, fun y hr hy _ h => Dev.f_setF_apart d hx hy hr h v i j k m, ?_, rfl⟩
  exact Dev.regsKept_set d x.reg _ i j k m

end Sys2Proof.Machine
end

/-! ### One access of one master -/

section
namespace Sys2Proof.Machine

theorem Dev.cycleEvents_none (d : Dev) (h : RegHit) (m : Nat) {e : Nat} (he : e &&& (h.reg.row.w1c ||| h.reg.row.rc) = 0) :
    d.cycleEvents h m e = d := by
  simp [Dev.cycleEvents, he]

/-- A write alone in its cycle is a register write, where no event falls in the cycle or the access did not go through
(R12, R30). -/
theorem exec_registerWrite_of_regWrite {s : State} {m off width ev : Nat} {v : Word} {mem : Mem} {d : Dev}
    (h : regWrite s.mem s.dev.fresh m off width v [] = (mem, d))
    (hq : ev = 0 ∨ ∃ c, d.last.getLast? = some c ∧ c.status ≠ .ok) :
    exec (.registerWrite [⟨m, off, width, v, ev, true⟩]) s = .next (s.withBoth mem d) := by
  have hc : cycleWrite s.mem s.dev.fresh ⟨m, off, width, v, ev, true⟩ = (mem, d) := by
    simp only [cycleWrite, h, Bool.not_true, Bool.false_and, Bool.false_eq_true, if_false]
    split
    · rfl
    · split
      · rfl
      · next hok =>
        rcases hq with rfl | ⟨c, hl, hs⟩
        · rw [Dev.cycleEvents_none _ _ _ (Nat.zero_and _)]
        · simp [hl, hs] at hok
  exact congrArg (fun r : Mem × Dev => Host.Outcome.next (s.withBoth r.1 r.2)) hc

theorem exec_registerRead_of_regRead {s : State} {m off width : Nat} {mem : Mem} {d : Dev}
    (h : regRead s.mem s.dev.fresh m off width = (mem, d)) : exec (.registerRead m off width) s = .next (s.withBoth mem d) :=
  congrArg (fun r : Mem × Dev => Host.Outcome.next (s.withBoth r.1 r.2)) h

section turnedAway
variable {d e : Dev} {m off width : Nat} {w : Option Nat}

/-- A read that a check turns away has that check's effect alone. -/
theorem exec_registerRead_of_check {s : State} (hi : issues m = true) (h : s.dev.fresh.checkAccess m none off width = some e) :
    exec (.registerRead m off width) s = .next (s.withDev e) :=
  exec_registerRead_of_regRead (by simp [regRead, hi, h])

/-- A write that a check turns away has that check's effect alone, whatever happens in its cycle. -/
theorem exec_registerWrite_of_check {s : State} {st : Status} {v : Word} {ev : Nat} (hi : issues m = true) (hst : st ≠ .ok)
    (h : s.dev.fresh.checkAccess m (some v.toNat) off width = some (e.done m st)) :
    exec (.registerWrite [⟨m, off, width, v, ev, true⟩]) s = .next (s.withDev (e.done m st)) :=
  exec_registerWrite_of_regWrite (by simp [regWrite, hi, h]) (.inr ⟨_, List.getLast?_concat, hst⟩)

theorem checkAccess_of_turnedAway (h : d.turnedAway m = true) : d.checkAccess m w off width = some (d.done m .aborted) := by
  simp [Dev.checkAccess, h]

theorem checkAccess_of_stage (h : d.turnedAway m = false)
    (hb : d.bootAllows m w.isSome (if isHostFn m then 0x0C000000 else unalias (off - off % 4)) = false) :
    d.checkAccess m w off width = some (d.done m .unsupported) := by
  simp only [Dev.checkAccess, h, hb, Bool.false_eq_true, if_false, Bool.not_false, if_true]

theorem checkAccess_of_malformed (h : d.turnedAway m = false)
    (hb : d.bootAllows m w.isSome (if isHostFn m then 0x0C000000 else unalias (off - off % 4)) = true)
    (hw : d.within m w off = true) (hf : width ≠ 4 ∨ off % 4 ≠ 0) :
    d.checkAccess m w off width = some (d.malformed m w.isSome off) := by
  have hf : (width != 4 || off % 4 != 0) = true := by simpa using hf
  simp only [Dev.checkAccess, h, hb, hw, hf, Bool.false_eq_true, if_false, Bool.not_true, if_true]

/-- A violation is logged where the log has room (R420). -/
theorem Dev.logViolation_of_room (h : d.ctl.vlog.length < 256) (kind m : Nat) (froze write : Bool) (w1 detail : Nat) :
    d.logViolation kind m froze write w1 detail = { d with ctl := { d.ctl with vlog := d.ctl.vlog ++
      [[word (kind * 2 ^ 28 + m * 2 ^ 22 + b2n froze * 2 ^ 21 + b2n write * 2 ^ 20), word w1, word (short d.now8),
        word detail]] } } := by
  simp only [Dev.logViolation, pushLog, h, if_true]

/-- Two clear bits add nothing to a log word, whatever their places. -/
theorem add_clear_bits (w x y : Nat) : w + b2n false * x + b2n false * y = w := by
  simp [b2n]

/-- A malformed read is logged with FROZE and WRITE clear and completes with the error of R8. -/
theorem Dev.malformed_read_of_room (h : d.ctl.vlog.length < 256) (m off : Nat) :
    d.malformed m false off = { d with ctl := { d.ctl with vlog := d.ctl.vlog ++
      [[word (2 * 2 ^ 28 + m * 2 ^ 22), word off, word (short d.now8), 0]] } }.done m .unsupported := by
  rw [Dev.malformed, Dev.logViolation_of_room h, add_clear_bits, show word 0 = 0 from rfl]

@[simp] theorem Dev.fresh_now8 (d : Dev) : d.fresh.now8 = d.now8 := rfl

/-- A host function reaches nothing before stage 0x6 (R452). -/
theorem bootAllows_hostFn (hm : 1 ≤ m ∧ m ≤ 0x0F) (hs : d.bootStage ≠ 6) (write : Bool) (o : Nat) :
    d.bootAllows m write o = false := by
  have h0 : m ≠ mH0 := by simp only [mH0]; omega
  have hb : m ≠ mBMC := by simp only [mBMC]; omega
  have hc : isCp m = false := by
    rw [isCp, Bool.and_eq_false_iff, decide_eq_false_iff_not]
    omega
  simp [Dev.bootAllows, hs, h0, hb, hc]

/-- The BMC writes nothing but its cap before stage 0x6 (R452). -/
theorem bootAllows_bmcWrite {o : Nat} (hs : d.bootStage ≠ 6) (ho : o ≠ Reg.off .PWR_BMC_CAP) :
    d.bootAllows 0x24 true o = false := by
  simp [Dev.bootAllows, hs, ho, mH0, mBMC]

end turnedAway

theorem issues_hostFn {m : Nat} (hm : 1 ≤ m ∧ m ≤ 0x0F) : issues m = true := by
  have hle : m ≤ 0x13 := by omega
  have hlt : ¬ 0x18 ≤ m := by omega
  simp [issues, masterExists, isDma, hle, hlt]

/-- Settles O8: each case is the check of the access that turns it away (R28, R452, R8). -/
theorem accessesAreTurnedAway : Obligations.AccessesAreTurnedAway := by
  refine ⟨fun s m off width ev v hi ha => ?_, fun s m off width hi ha hb hw hf hl => ?_,
    fun s m off width ev v ha hs => ⟨?_, ?_⟩⟩
  · have ha : s.dev.fresh.turnedAway m = true := ha
    exact ⟨exec_registerRead_of_check hi (checkAccess_of_turnedAway ha),
      exec_registerWrite_of_check hi nofun (checkAccess_of_turnedAway ha)⟩
  · have ha : s.dev.fresh.turnedAway m = false := ha
    have hl : s.dev.fresh.ctl.vlog.length < 256 := hl
    rw [exec_registerRead_of_check hi (checkAccess_of_malformed ha hb hw hf), Option.isSome_none, Dev.malformed_read_of_room hl,
      Dev.fresh_now8, Dev.fresh_ctl]
  · intro hm
    have ha : s.dev.fresh.turnedAway m = false := ha
    have hs : s.dev.fresh.bootStage ≠ 6 := hs
    exact ⟨exec_registerRead_of_check (issues_hostFn hm) (checkAccess_of_stage ha (bootAllows_hostFn hm hs _ _)),
      exec_registerWrite_of_check (issues_hostFn hm) nofun (checkAccess_of_stage ha (bootAllows_hostFn hm hs _ _))⟩
  · rintro rfl ho
    have ha : s.dev.fresh.turnedAway 0x24 = false := ha
    have hs : s.dev.fresh.bootStage ≠ 6 := hs
    refine exec_registerWrite_of_check rfl nofun (checkAccess_of_stage ha ?_)
    rw [if_neg (by decide)]
    exact bootAllows_bmcWrite hs ho

end Sys2Proof.Machine
end

/-! ### Settings registers -/

section
namespace Sys2Proof.Machine

/-- A write that acts, alone in its cycle, stores its word and starts what the register starts. -/
theorem exec_registerWrite_of_writes {s : State} {m : Nat} {r : Reg} {i j : Nat} {v : Word} (h : Writes s m r i j v.toNat)
    (hr : r.special = false) :
    exec (.registerWrite [⟨m, offsetFor m (r.off i j), 4, v, 0, true⟩]) s =
      .next (s.withDev ((Dev.afterWrite s.dev.fresh (s.dev.fresh.putWord r i j m v.toNat) s.mem m (hitOf r i j)
        (offsetFor m (r.off i j)) (s.dev.get r i j 0 m).toNat v.toNat []).done m .ok)) := by
  refine exec_registerWrite_of_regWrite (mem := s.mem) ?_ (.inl rfl)
  rw [← writeReg_of_writes [] h hr, writeReg, if_pos h.has, word, BitVec.ofNat_toNat, BitVec.setWidth_eq]

/-- A read that reaches a 32-bit register reads that register. -/
theorem regRead_of_reaches {s : State} {m : Nat} {r : Reg} {i j : Nat} (h : Reaches s m none r i j) (hw : r.row.wide = false)
    (hr : (r == Reg.TEL_RING_RD_DATA0) = false) :
    regRead s.mem s.dev.fresh m (offsetFor m (r.off i j)) 4 =
      (s.mem, (s.dev.fresh.readWord s.mem m (hitOf r i j)).1.done m .ok (s.dev.fresh.readWord s.mem m (hitOf r i j)).2) := by
  have e := readReg_of_reaches h
  rwa [readReg, if_pos h.has, hw, readStatus_ok hr] at e

/-- A read of a register without RC bits is the same by RC_READ: nothing is counted in its cycle (R13). -/
theorem exec_rcRead_of_regRead {s : State} {m off n : Nat} {mem : Mem} {d : Dev} {h : RegHit}
    (hd : regRead s.mem s.dev.fresh m off 4 = (mem, d)) (hl : lookupReg (unalias off) = some h) (hrc : h.reg.row.rc = 0) :
    exec (.rcRead m off n) s = .next (s.withBoth mem d) := by
  have hc : rcRead s.mem s.dev.fresh m off n = (mem, d) := by
    simp only [rcRead, hd, hl, hrc, Nat.and_zero, Dev.cycleEvents_none _ _ _ (Nat.zero_and _), ite_self]
  exact congrArg (fun r : Mem × Dev => Host.Outcome.next (s.withBoth r.1 r.2)) hc

@[simp] theorem Dev.fresh_shown (d : Dev) (h : RegHit) (m : Nat) : d.fresh.shown h m = d.shown h m := rfl

/-- A settings register is one 32-bit word without RC bits. -/
theorem settings_rows : ∀ r ∈ Settings,
    r.special = false ∧ r.row.wide = false ∧ r.row.rc = 0 ∧ (r == Reg.TEL_RING_RD_DATA0) = false := by
  decide

/-- A write of a settings register starts nothing. -/
theorem afterWrite_settings {r : Reg} (hr : r ∈ Settings) (o d : Dev) (mem : Mem) (m i j off old val : Nat) (aux : List Nat) :
    Dev.afterWrite o d mem m (hitOf r i j) off old val aux = d := by
  simp only [Settings, List.mem_cons, List.not_mem_nil, or_false] at hr
  rcases hr with rfl | rfl | rfl | rfl | rfl | rfl | rfl | rfl | rfl | rfl | rfl | rfl | rfl | rfl | rfl | rfl | rfl | rfl <;> rfl

/-- A read of a settings register does nothing. -/
theorem readWord_settings {r : Reg} (hr : r ∈ Settings) (d : Dev) (mem : Mem) (m i j : Nat) :
    d.readWord mem m (hitOf r i j) = (d, d.shown (hitOf r i j) m) := by
  simp only [Settings, List.mem_cons, List.not_mem_nil, or_false] at hr
  rcases hr with rfl | rfl | rfl | rfl | rfl | rfl | rfl | rfl | rfl | rfl | rfl | rfl | rfl | rfl | rfl | rfl | rfl | rfl <;> rfl

/-- Settles O10: a write that acts, what it starts register by register, and a read that does nothing. -/
theorem settingsAreWrittenAndRead : Obligations.SettingsAreWrittenAndRead := by
  intro s r m i j n v hr
  obtain ⟨hspecial, hwide, hrc, hring⟩ := settings_rows r hr
  refine ⟨fun h => ?_, fun h => exec_registerWrite_of_writes h rfl, fun h => exec_registerWrite_of_writes h rfl, fun h => ?_⟩
  · rw [exec_registerWrite_of_writes h hspecial, afterWrite_settings hr]
  · have hread := regRead_of_reaches h hwide hring
    rw [readWord_settings hr, Dev.fresh_shown] at hread
    exact ⟨exec_registerRead_of_regRead hread, exec_rcRead_of_regRead hread h.found hrc⟩

end Sys2Proof.Machine
end

/-! ### 64-bit quantities -/

section
namespace Sys2Proof.Machine

/-- A read or write that reaches a word of a 64-bit quantity is turned away by no check. -/
theorem checkAccess_of_reachesWide {s : State} {m off i : Nat} {w : Option Nat} {r : Reg} {high : Bool}
    (h : ReachesWide s m w off r i high) : s.dev.fresh.checkAccess m w off 4 = none := by
  have hl : s.dev.fresh.turnedAway m = false := h.live
  have hb : s.dev.fresh.bootAllows m w.isSome (if isHostFn m then 0x0C000000 else unalias off) = true := h.stage
  have hr : s.dev.fresh.within m w off = true := h.rights
  simp [Dev.checkAccess, hl, hb, hr, h.aligned]

theorem wideWord_of_reachesWide {s : State} {m off i : Nat} {w : Option Nat} {r : Reg} {high : Bool}
    (h : ReachesWide s m w off r i high) : wideWord off high = true := by
  simp [wideWord, h.found, h.wide]

/-- A read that reaches a word of a 64-bit quantity reads that word. -/
theorem regRead_of_reachesWide {s : State} {m off i : Nat} {r : Reg} {high : Bool} (h : ReachesWide s m none off r i high) :
    regRead s.mem s.dev.fresh m off 4 = (s.mem, (s.dev.fresh.readWide m ⟨r, i, 0, 0, high⟩).1.done m .ok
      (s.dev.fresh.readWide m ⟨r, i, 0, 0, high⟩).2) := by
  have hr : (r == Reg.TEL_RING_RD_DATA0) = false := by
    rw [beq_eq_false_iff_ne]
    rintro rfl
    exact absurd h.wide (by decide)
  simp only [regRead, h.master, checkAccess_of_reachesWide h, h.outside, h.found, h.wide, Bool.not_true, Bool.false_eq_true,
    if_false, if_true]
  rw [readStatus_ok hr]

/-- A write that reaches a word of a 64-bit quantity writes that word. -/
theorem regWrite_of_reachesWide {s : State} {m off i : Nat} {r : Reg} {high : Bool} {v : Word}
    (h : ReachesWide s m (some v.toNat) off r i high) :
    regWrite s.mem s.dev.fresh m off 4 v [] = writeWide s.mem s.dev.fresh m ⟨r, i, 0, 0, high⟩ v := by
  simp only [regWrite, h.master, checkAccess_of_reachesWide h, h.outside, h.found, h.wide, Bool.not_true, Bool.false_eq_true,
    if_false, if_true]

theorem exec_lowWordRead_of_reaches {s : State} {m off i : Nat} {r : Reg} (h : ReachesWide s m none off r i false) :
    exec (.lowWordRead m off) s = .next (s.withDev ((s.dev.fresh.latchHigh m (r.off i) (s.dev.shownQ ⟨r, i, 0, 0, false⟩ m)).done m
      .ok (s.dev.shownQ ⟨r, i, 0, 0, false⟩ m % 2 ^ 32))) := by
  change execLowWordRead m off s = _
  simp only [execLowWordRead, onMem, wideWord_of_reachesWide h, if_true, regRead_of_reachesWide h]
  rfl

theorem exec_lowWordWrite_of_reaches {s : State} {m off i : Nat} {r : Reg} {v : Word}
    (h : ReachesWide s m (some v.toNat) off r i false) :
    exec (.lowWordWrite m off v) s = .next (s.withDev
      ({ s.dev.fresh with ctl := { s.dev.ctl with pendLow := SMap.set s.dev.ctl.pendLow m (r.off i, v) } }.done m .ok)) := by
  change execLowWordWrite m off v s = _
  simp only [execLowWordWrite, onMem, wideWord_of_reachesWide h, if_true, regWrite_of_reachesWide h]
  rfl

theorem exec_highWordWrite_of_reaches {s : State} {m off i : Nat} {r : Reg} {v : Word}
    (h : ReachesWide s m (some v.toNat) off r i true) :
    exec (.highWordWrite m off v) s = .next (s.withBoth (writeWide s.mem s.dev.fresh m ⟨r, i, 0, 0, true⟩ v).1
      (writeWide s.mem s.dev.fresh m ⟨r, i, 0, 0, true⟩ v).2) := by
  change execHighWordWrite m off v s = _
  simp only [execHighWordWrite, onMem, wideWord_of_reachesWide h, if_true, regWrite_of_reachesWide h]
  rfl

/-- TIME_RATE takes a write of every bit, whatever the lock (R159). -/
theorem writeMasks_timeRate (d : Dev) (high : Bool) : (d.writeMasks ⟨.TIME_RATE, 0, 0, 0, high⟩).1 = 0xFFFFFFFFFFFFFFFF := by
  change (if d.on F.CTL_LOCK_LOCK then Reg.TIME_RATE.row.rw else Reg.TIME_RATE.row.rw ||| Reg.TIME_RATE.row.rwl) = _
  exact ite_self _

/-- A write of TIME_RATE is a conflict exactly where the rate is out of its limits (R120). -/
theorem conflicts_timeRate (d n : Dev) (high : Bool) (m val : Nat) :
    d.conflicts n ⟨.TIME_RATE, 0, 0, 0, high⟩ m val = !rateOk (n.q .TIME_RATE) := by
  change (false || false || !rateOk (n.q .TIME_RATE) || false || false || false || false || false || false || false || false) = _
  simp only [Bool.false_or, Bool.or_false]

/-- The device without the low word it holds for a writer (R15). -/
def Dev.dropLow (d : Dev) (m : Nat) : Dev := { d with ctl := { d.ctl with pendLow := SMap.erase d.ctl.pendLow m } }

/-- The high word of a quantity that takes writes applies the low word held for its writer and uses it up (R15). -/
theorem writeWide_high_of_held (mem : Mem) {d : Dev} {r : Reg} {i m : Nat} {v lo : Word}
    (hp : SMap.find? d.ctl.pendLow m = some (r.off i, lo)) (hm : ((d.writeMasks ⟨r, i, 0, 0, true⟩).1 == 0) = false)
    (hc : (d.dropLow m).conflicts ((d.dropLow m).setQ r (v.toNat * 2 ^ 32 + lo.toNat) i 0 0 m) ⟨r, i, 0, 0, true⟩ m 0 = false) :
    writeWide mem d m ⟨r, i, 0, 0, true⟩ v =
      (mem, ((d.dropLow m).setQ r (v.toNat * 2 ^ 32 + lo.toNat) i 0 0 m).done m .ok) := by
  have hf : (SMap.find? d.ctl.pendLow m).filter (fun p => p.1 == r.off i) = some (r.off i, lo) := by simp [hp]
  rw [Dev.dropLow] at hc ⊢
  simp only [writeWide, hf, Option.isSome_some, hm, hc, Bool.not_true, Bool.false_eq_true, if_false, if_true]

/-- Two words make a 64-bit quantity: it reads back whole. -/
theorem Dev.q_setQ_words (d : Dev) (r : Reg) (hi lo : Word) (i j k m : Nat) :
    (d.setQ r (hi.toNat * 2 ^ 32 + lo.toNat) i j k m).q r i j k m = hi.toNat * 2 ^ 32 + lo.toNat := by
  rw [Dev.q_setQ, if_pos rfl, Nat.mod_eq_of_lt (by omega)]

/-- A quantity that masters share is the same one for all of them. -/
theorem regKey_shared {r : Reg} (h : r.row.perMaster = false) (i j k m : Nat) : regKey r i j k m = regKey r i j k 0 := by
  simp [regKey, h]

/-- The high word of TIME_RATE sets the rate, where the rate is within its limits (R120). -/
theorem writeWide_timeRate (mem : Mem) {d : Dev} {m : Nat} {v lo : Word}
    (hp : SMap.find? d.ctl.pendLow m = some (Reg.off .TIME_RATE, lo)) (hr : rateOk (v.toNat * 2 ^ 32 + lo.toNat) = true) :
    writeWide mem d m ⟨.TIME_RATE, 0, 0, 0, true⟩ v =
      (mem, ((d.dropLow m).setQ .TIME_RATE (v.toNat * 2 ^ 32 + lo.toNat)).done m .ok) := by
  have hset : (d.dropLow m).setQ .TIME_RATE (v.toNat * 2 ^ 32 + lo.toNat) 0 0 0 m =
      (d.dropLow m).setQ .TIME_RATE (v.toNat * 2 ^ 32 + lo.toNat) := by
    rw [Dev.setQ, regKey_shared rfl, Dev.setQ]
  have hm : ((d.writeMasks ⟨.TIME_RATE, 0, 0, 0, true⟩).1 == 0) = false := by rw [writeMasks_timeRate]; rfl
  rw [writeWide_high_of_held mem hp hm, hset]
  rw [hset, conflicts_timeRate, Dev.q_setQ_words, hr]
  rfl

theorem Dev.wideKept_setQ (d : Dev) (r : Reg) (v i j k m : Nat) : WideKept [regKey r i j k m] d (d.setQ r v i j k m) := by
  intro key hk
  exact SMap.find?_set_other _ _ (by simpa using hk)

/-- Settles O12: the low word's read latches, its write is held, and the high word of TIME_RATE applies what is held. -/
theorem wideQuantitiesByHalves : Obligations.WideQuantitiesByHalves := by
  intro s m off r i v lo
  refine ⟨fun h => ?_, fun h => ?_, fun h hp hr => ?_⟩
  · exact ⟨_, exec_lowWordRead_of_reaches h, rfl, rfl, SMap.find?_set_same _ _ _⟩
  · exact ⟨_, exec_lowWordWrite_of_reaches h, rfl, rfl, SMap.find?_set_same _ _ _, fun n hn => SMap.find?_set_other _ _ hn⟩
  · refine ⟨_, exec_highWordWrite_of_reaches h, ?_⟩
    rw [writeWide_timeRate s.mem (d := s.dev.fresh) hp hr]
    refine ⟨rfl, rfl, rfl, ?_, SMap.find?_erase_same _ _, Dev.wideKept_setQ _ .TIME_RATE _ 0 0 0 0, rfl, rfl⟩
    exact Dev.q_setQ_words (s.dev.fresh.dropLow m) .TIME_RATE v lo 0 0 0 0

end Sys2Proof.Machine
end

/-! ### The scratchpad -/

section
namespace Sys2Proof.Machine

/-- An access of BIST, master 0x20, writes neither memory: what it writes is kept apart from the bank's contents (R437). -/
theorem spdAccess_bist_mem (mem : Mem) (d : Dev) (off : Nat) (write : Option Word) (waited : Nat) :
    (spdAccess mem d 0x20 off write waited).1 = mem := by
  simp only [spdAccess]
  split
  · rfl
  · split
    · rfl
    · cases write <;> rfl

theorem exec_scratchpadAccess_bist_mem {s t : State} {off waited : Nat} {write : Option Word}
    (h : exec (.scratchpadAccess 0x20 off write waited) s = .next t) : t.mem = s.mem := by
  have hm : (scratchpad s.mem s.dev.fresh 0x20 off write waited).1 = s.mem := by
    unfold scratchpad
    split
    · rfl
    · split
      · rfl
      · exact spdAccess_bist_mem _ _ _ _ _
  cases h
  exact hm

/-- In service, with bank 0 ON, not lent, and its OWNER field naming BIST, which no write can put there (R433). -/
def bistOwnsBank : State :=
  { State.reset with dev := (Dev.reset.setF F.ID_STATUS_STAGE 6).setF F.SPD_BANK_CFG_OWNER 0x20 0 }

/-- Refutes O15: a state whose bank 0 is owned by BIST meets every premise, and BIST's write of 1 at the bank's first byte
leaves that byte 0. -/
theorem not_scratchpadIsReadAndWritten : ¬ Obligations.ScratchpadIsReadAndWritten := by
  intro h
  obtain ⟨hon, -⟩ := h bistOwnsBank 0x20 0x08000000 0 0 1 rfl (by decide +kernel) (by decide +kernel)
    (by decide +kernel) (by decide +kernel) (by decide +kernel) rfl rfl (by decide +kernel) rfl (by decide +kernel)
  obtain ⟨⟨t, ht, -, -, hbytes, -⟩, -⟩ := hon (by decide +kernel) (by decide +kernel)
  have hread := hbytes 0
  rw [exec_scratchpadAccess_bist_mem ht] at hread
  exact absurd hread (by decide +kernel)

end Sys2Proof.Machine
end

/-! ### A step, and a violation of rights -/

section
namespace Sys2Proof.Machine

/-- Settles O1: the two cases of the queue. -/
theorem stepRunsFrontCommand : Obligations.StepRunsFrontCommand := by
  refine ⟨fun s c rest h => ?_, fun s h => ?_⟩
  · rw [step, h]
  · rw [step, h]

/-- What a command of the form `onDev` leaves of the device. -/
theorem dev_of_onDev {f : Mem → Dev → Dev} {s t : State} (h : onDev f s = .next t) : t.dev = f s.mem s.dev.fresh := by
  cases h
  rfl

/-- What a command of the form `onMem` leaves of the device. -/
theorem dev_of_onMem {f : Mem → Dev → Mem × Dev} {s t : State} (h : onMem f s = .next t) : t.dev = (f s.mem s.dev.fresh).2 := by
  cases h
  rfl

section hostFn
variable {d : Dev} {m : Nat}

theorem isHostFn_of_range (hm : 1 ≤ m ∧ m ≤ 0x0F) : isHostFn m = true := by
  simp [isHostFn, hm.1, hm.2]

theorem isEngine_hostFn (hm : 1 ≤ m ∧ m ≤ 0x0F) : isEngine m = false := by
  simp only [isEngine, Bool.and_eq_false_iff, decide_eq_false_iff_not]
  omega

/-- R417 freezes a host function: one bit of CTL_FROZEN rises, and nothing else changes. -/
theorem Dev.freeze_hostFn (d : Dev) (hm : 1 ≤ m ∧ m ≤ 0x0F) :
    d.freeze m = (d.setQ .CTL_FROZEN (d.q .CTL_FROZEN ||| 2 ^ m), true) := by
  have h0 : (m == mH0) = false := by simp only [mH0, beq_eq_false_iff_ne]; omega
  have hc : isCp m = false := by simp only [isCp, Bool.and_eq_false_iff, decide_eq_false_iff_not]; omega
  simp only [Dev.freeze, h0, isEngine_hostFn hm, hc, Bool.or_false, Bool.false_eq_true, if_false]

/-- Freezing a master raises its bit alone. -/
theorem Dev.frozen_setQ_or (d : Dev) (hm : m < 64) (n : Nat) :
    (d.setQ .CTL_FROZEN (d.q .CTL_FROZEN ||| 2 ^ m)).frozen n = (d.frozen n || m == n) := by
  have hq : d.q .CTL_FROZEN < 2 ^ 64 := BitVec.isLt _
  rw [Dev.frozen, Dev.q_setQ, if_pos rfl, Nat.mod_eq_of_lt (Nat.or_lt_two_pow hq (Nat.pow_lt_pow_right (by omega) hm)),
    Nat.testBit_or, Nat.testBit_two_pow, Dev.frozen]
  rfl

/-- A host function's violating write: frozen, logged with FROZE and WRITE, and aborted (R28, R417, R420). -/
theorem Dev.violate_hostFn (hm : 1 ≤ m ∧ m ≤ 0x0F) (hl : d.ctl.vlog.length < 256) (off : Nat) :
    d.violate m true off = ({ d.setQ .CTL_FROZEN (d.q .CTL_FROZEN ||| 2 ^ m) with ctl := { d.ctl with vlog := d.ctl.vlog ++
      [[word (2 ^ 28 + m * 2 ^ 22 + 2 ^ 21 + 2 ^ 20), word off, word (short d.now8), 0]] } }).done m .aborted := by
  have hroom : (d.setQ .CTL_FROZEN (d.q .CTL_FROZEN ||| 2 ^ m)).ctl.vlog.length < 256 := hl
  simp only [Dev.violate, Dev.freeze_hostFn d hm, isEngine_hostFn hm, Bool.false_eq_true, if_false,
    Dev.logViolation_of_room hroom, b2n, if_true, Nat.one_mul]
  rfl

theorem checkAccess_of_rights {w : Option Nat} {off width : Nat} (h : d.turnedAway m = false)
    (hb : d.bootAllows m w.isSome (if isHostFn m then 0x0C000000 else unalias (off - off % 4)) = true)
    (hw : d.within m w off = false) : d.checkAccess m w off width = some (d.violate m w.isSome off) := by
  simp only [Dev.checkAccess, h, hb, hw, Bool.false_eq_true, if_false, Bool.not_true, Bool.not_false, if_true]

end hostFn

/-- Settles O9: the rights check of R28 turns the write away, and what it does to the device is `violate`. -/
theorem rightsViolationFreezes : Obligations.RightsViolationFreezes := by
  intro s m off ev v h1 h2 ha hb hw hl
  have hm : 1 ≤ m ∧ m ≤ 0x0F := ⟨h1, h2⟩
  have hb : s.dev.fresh.bootAllows m (some v.toNat).isSome (if isHostFn m then 0x0C000000 else unalias (off - off % 4)) = true := by
    rw [isHostFn_of_range hm]
    exact hb
  have hcheck : s.dev.fresh.checkAccess m (some v.toNat) off 4 = _ :=
    (checkAccess_of_rights (d := s.dev.fresh) ha hb hw).trans (congrArg some (Dev.violate_hostFn (d := s.dev.fresh) hm hl off))
  have hexec := exec_registerWrite_of_check (ev := ev) (issues_hostFn hm) (by decide : Status.aborted ≠ .ok) hcheck
  refine ⟨_, hexec, rfl, rfl, ?_, fun n hn => ?_, rfl, rfl, rfl, ?_⟩
  · exact (Dev.frozen_setQ_or s.dev (by omega) m).trans (by simp)
  · refine (Dev.frozen_setQ_or s.dev (by omega) n).trans ?_
    rw [beq_eq_false_iff_ne.2 (Ne.symm hn), Bool.or_false]
  · exact fun key hk => SMap.find?_set_other _ _ (by simpa using hk)

end Sys2Proof.Machine
end

/-! ### Device time -/

section
namespace Sys2Proof.Machine

/-- A slew of 2^-48 ns is left and a tick applies as much; the trace ring is on, a record of it enters the ring with the next
tick, and counter 0 counts the bytes that the ring's HBM port, 6, takes (R511, R513). -/
def slewEndsAsRecordEnters : State :=
  let d := (Dev.reset.setF F.TEL_CTRL_TRACE_EN 1).set .TEL_PC_CFG (word (10 * 2 ^ 19 + 6))
  { State.reset with dev := { d with
      time := { Time.reset with slewRem := 1, slewShare := 1 }
      tel := { Tel.reset with blocks := [0], queue := [(1, List.replicate 32 0)] } } }

/-- In the tick that ends the slew the record is written to HBM, and the counter counts its 32 bytes. -/
theorem slewComplete_counts_record :
    (slewEndsAsRecordEnters.dev.fresh.slewComplete).f F.TEL_PC_COUNT = 32 := by decide +kernel

/-- Refutes O25: no verdict of a copy is due, but the tick that completes the slew lets a record into the trace ring, and a
counter register counts what the ring writes. -/
theorem not_deviceTimeIsCounted : ¬ Obligations.DeviceTimeIsCounted := by
  intro h
  obtain ⟨-, -, -, -, hslew, -⟩ := h slewEndsAsRecordEnters 0 0 0 0 0
  obtain ⟨t, ht, -, -, -, hregs⟩ := hslew (by decide +kernel) (by decide +kernel)
  have hdev : t.dev = slewEndsAsRecordEnters.dev.fresh.slewComplete :=
    dev_of_onDev (f := fun _ d => d.slewComplete) ht
  have hcount := slewComplete_counts_record
  rw [← hdev, Dev.f_of_regs (hregs rfl)] at hcount
  exact absurd hcount (by decide +kernel)

end Sys2Proof.Machine
end

/-! ### Table commands -/

section
namespace Sys2Proof.Machine

/-- The key of an L2 entry whose partition, VLAN and address are 0: what SEARCH looks up while TBL_CMD_DATA reads 0. -/
def zeroKey : List Byte := entryKey 0 0

/-- The lowest index of that key's bucket. -/
def zeroKeyIndex : Nat := 4 * Dev.reset.bucketOf 0 zeroKey

/-- A valid static entry of that key, with no mark of a Heat. -/
def zeroKeyEntry : Nat := withCtl 128 0 (newCtl none)

/-- In service, with the entry of the key in its bucket, which a DMA of CP0 has locked (R292). -/
def bucketLockedByCp0 : State :=
  { State.reset with dev := { Dev.reset.setF F.ID_STATUS_STAGE 6 with
      tbl := { Tables.reset with
        em := [(emKey 0 zeroKeyIndex, zeroKeyEntry)]
        dma := some ⟨mCP0, true, false, 0, 1, [], [lockKey 0 zeroKeyIndex], []⟩ } } }

/-- H0's SEARCH command of table 0 reaches TBL_CMD there and is no conflict. -/
theorem bucketLockedByCp0_writes : Writes bucketLockedByCp0 mH0 .TBL_CMD 0 0 (setOp 0 5) where
  has := by decide +kernel
  master := by decide +kernel
  live := by decide +kernel
  stage := by decide +kernel
  rights := by decide +kernel
  aligned := by decide +kernel
  outside := by decide +kernel
  found := by decide +kernel
  fits := by decide +kernel
  narrow := by decide +kernel
  running := by decide +kernel
  permitted := by decide +kernel
  accepted := by decide +kernel

/-- The lookup that SEARCH makes finds the entry. -/
theorem bucketLockedByCp0_findKey : bucketLockedByCp0.dev.findKey bucketLockedByCp0.mem 0
    (entryKey 0 (bucketLockedByCp0.dev.cmdImage mH0)) bucketLockedByCp0.dev.currentHeat =
      some (zeroKeyIndex, zeroKeyEntry) := by decide +kernel

/-- SEARCH answers LOCKED there (R292, R298). -/
theorem bucketLockedByCp0_search :
    (writeReg .TBL_CMD 0 0 mH0 (setOp 0 5) [] bucketLockedByCp0.mem bucketLockedByCp0.dev.fresh).2.f
      F.TBL_CMD_STATUS_STATUS 0 0 0 mH0 = stLOCKED := by decide +kernel

/-- Refutes O51: the words of a SEARCH that finds its entry do not exclude a bucket that another master's DMA has locked, and
the command then answers STATUS 7. -/
theorem not_tableCommandsAnswer : ¬ Obligations.TableCommandsAnswer := by
  rintro ⟨hcommands, -⟩
  obtain ⟨-, -, -, -, hsearch, -⟩ := hcommands bucketLockedByCp0 mH0 _ _ 0 zeroKeyEntry zeroKeyIndex 0 [] Dev.reset
    ⟨0, false, false, 0, 0, [], [], []⟩ rfl rfl
  obtain ⟨t, ht, -, hstatus, -⟩ := hsearch bucketLockedByCp0_writes (by decide +kernel) bucketLockedByCp0_findKey (by decide +kernel)
  have hdev : t.dev = (writeReg .TBL_CMD 0 0 mH0 (setOp 0 5) [] bucketLockedByCp0.mem bucketLockedByCp0.dev.fresh).2 :=
    dev_of_onMem ht
  have hlocked := bucketLockedByCp0_search
  rw [← hdev, hstatus] at hlocked
  exact absurd hlocked (by decide)

end Sys2Proof.Machine
end

/-! ### Frames, and copies given up -/

section
namespace Sys2Proof.Machine

/-- A frame of no bytes at port 0, with no choice made for it. -/
def emptyArrival : FrameIn :=
  { port := 0, bytes := [], len := 0, path8 := 0, parse := ⟨0, []⟩, stages := [], inj := none, overrun := false, draw := 0,
    recirc := none, members := [], egress := [] }

/-- The frame of that arrival. -/
def emptyFrame : Frame := Dev.reset.arrival emptyArrival ⟨[], 0, 0, none⟩

/-- A unicast copy of it for port 0 in best-effort class 4. -/
def emptyCopy : Copy := (Dev.reset.newCopy emptyFrame 0 4 .unicast).2

/-- PWRGD is low: the device is held in reset (R528), though the registers show port 0 configured with its link up. -/
def heldWithPortUp : State :=
  { State.reset with dev := { (Dev.reset.setF F.PORT_CFG_MODE 2 0).setF F.PORT_STATUS_LINK_UP 1 0 with
      boot := { Boot.reset with inReset := true } } }

/-- A device held in reset sees no frame. -/
theorem exec_frameReceive_of_held {s : State} (h : s.dev.held = true) (f : FrameIn) :
    exec (.frameReceive f) s = .next (s.withDev s.dev.fresh) := by
  have h : s.dev.fresh.held = true := h
  change execFrameReceive f s = _
  simp only [execFrameReceive, onMem, awakeMem, h, if_true]
  rfl

/-- Refutes O54: a port with its link up before service does not exclude a device held in reset, which counts no frame. -/
theorem not_framesEnterAndAreDecided : ¬ Obligations.FramesEnterAndAreDecided := by
  intro h
  obtain ⟨hboot, -⟩ := h heldWithPortUp emptyArrival 0 0 0 emptyCopy emptyCopy emptyFrame
    ⟨[], none, [], 0, []⟩ rfl rfl
  have hcount := hboot (by decide) (by decide +kernel) (by decide +kernel) (by decide +kernel) (by decide +kernel)
  rw [exec_frameReceive_of_held (by decide +kernel)] at hcount
  have hwide := congrArg (fun s => s.dev.wide) (Host.Outcome.next.inj hcount)
  exact absurd hwide (by decide +kernel)

/-- That copy once its first bit has left. -/
def startedCopy : Copy := { emptyCopy with stage := .line, started := true }

/-- The hold of port 0 runs, its link is down, and its queue 4 still lists a copy that has started. -/
def heldQueueOfStarted : State :=
  { State.reset with dev := { Dev.reset with
      buf := { Buf.reset with copies := [(0, startedCopy)], queues := [(4, [0])], hold := [(0, 0)] } } }

/-- Queue 4 is the only one that lists a copy. -/
theorem heldQueueOfStarted_queue {q i : Nat} (h : i ∈ heldQueueOfStarted.dev.queue q) : q = 4 ∧ i = 0 := by
  by_cases hq : 4 = q
  · subst hq
    exact ⟨rfl, List.mem_singleton.1 h⟩
  · simp [heldQueueOfStarted, Dev.queue, SMap.get, hq] at h

/-- The only copy listed is copy 0. -/
theorem heldQueueOfStarted_copy {i : Nat} {y : Copy} (h : heldQueueOfStarted.dev.copy? i = some y) : y.id = i := by
  by_cases hi : 0 = i
  · subst hi
    cases h
    rfl
  · simp [heldQueueOfStarted, Dev.copy?, SMap.find?, hi] at h

/-- The hold's expiry takes the copies of a queue that have not started, and this one stays. -/
theorem heldQueueOfStarted_expiry : (heldQueueOfStarted.dev.fresh.linkHoldExpiry 0).queue 4 = [0] := by decide +kernel

/-- Refutes O57: the words of the hold's expiry do not exclude a queue that lists a started copy, which stays in it. -/
theorem not_copiesAreGivenUp : ¬ Obligations.CopiesAreGivenUp := by
  intro h
  obtain ⟨-, -, -, -, -, hexpiry, -⟩ := h heldQueueOfStarted startedCopy 0 0 0 0 false
    ⟨0, 0, [], []⟩ [] ⟨0, false⟩
  obtain ⟨t, ht, -, -, -, hempty⟩ := hexpiry (by decide) rfl (by decide +kernel) (fun i y => heldQueueOfStarted_copy) fun k i _ hi => by
    obtain ⟨hq, rfl⟩ := heldQueueOfStarted_queue hi
    exact ⟨startedCopy, rfl, by rw [hq]; rfl⟩
  have hdev : t.dev = heldQueueOfStarted.dev.fresh.linkHoldExpiry 0 :=
    dev_of_onDev (f := fun _ d => d.linkHoldExpiry 0) ht
  have hkept := heldQueueOfStarted_expiry
  rw [← hdev, hempty 0 (by decide)] at hkept
  cases hkept

end Sys2Proof.Machine
end

/-! ### The derate -/

section
namespace Sys2Proof.Machine

/-- In service at tick 0 with one stretched tick counted, more than have gone by, so that cell time 0 outlasts four ticks (R24). -/
def stretchedBeforeFirstTick : State :=
  { State.reset with dev := { Dev.reset.setF F.ID_STATUS_STAGE 6 with time := { Time.reset with stretched := 1 } } }

/-- H0's write of TIGHTEN_NS = 5 for pipe 0 acts there. -/
theorem stretchedBeforeFirstTick_writes :
    Writes stretchedBeforeFirstTick mH0 .ADM_PIPE_DERATE 0 0 (word 5).toNat where
  has := by decide +kernel
  master := by decide +kernel
  live := by decide +kernel
  stage := by decide +kernel
  rights := by decide +kernel
  aligned := by decide +kernel
  outside := by decide +kernel
  found := by decide +kernel
  fits := by decide +kernel
  narrow := by decide +kernel
  running := by decide +kernel
  permitted := by decide +kernel
  accepted := by decide +kernel

/-- The device after that write and four more ticks, two cell times of the undisturbed core clock. -/
def derateWrittenFourTicksAgo : Dev :=
  let d := (writeReg .ADM_PIPE_DERATE 0 0 mH0 (word 5).toNat [] stretchedBeforeFirstTick.mem stretchedBeforeFirstTick.dev.fresh).2
  { d with time := { d.time with ticks := d.time.ticks + 4 } }

/-- The register holds the new value by then, and cell time 1, in progress, still decides with the old one (R62). -/
theorem derateWrittenFourTicksAgo_derate :
    derateWrittenFourTicksAgo.get .ADM_PIPE_DERATE = 5 ∧ derateWrittenFourTicksAgo.cell = 1 ∧
      derateWrittenFourTicksAgo.derate 0 = 0 := by decide +kernel

/-- Refutes O59: "from the second cell time" is said as four ticks later, and the words do not exclude a state that counts more
stretched ticks than ticks. There the cell time does not rise by two in four ticks, and the derate written is not yet used. -/
theorem not_pausesPacersAndDerates : ¬ Obligations.PausesPacersAndDerates := by
  intro h
  obtain ⟨-, -, -, -, -, -, -, hderate⟩ := h stretchedBeforeFirstTick mH0 0 0 0 0 0 0 (word 5) .ADM_PIPE_DERATE
  obtain ⟨hfree, -⟩ := hderate stretchedBeforeFirstTick_writes (by decide)
  obtain ⟨t, ht, -, -, -, -, -, -, hused⟩ := hfree (by decide +kernel) fun x hx => by cases hx
  have hdev : t.dev =
      (writeReg .ADM_PIPE_DERATE 0 0 mH0 (word 5).toNat [] stretchedBeforeFirstTick.mem stretchedBeforeFirstTick.dev.fresh).2 :=
    dev_of_onMem ht
  rw [hdev] at hused
  obtain ⟨hget, -, hold⟩ := derateWrittenFourTicksAgo_derate
  have hsame : derateWrittenFourTicksAgo.derate 0 = derateWrittenFourTicksAgo.get .ADM_PIPE_DERATE := hused
  rw [hget, hold] at hsame
  exact absurd hsame (by decide)

end Sys2Proof.Machine
end

/-! ### Operations on Heats -/

section
namespace Sys2Proof.Machine

/-- A chain of register writes keeps what every write of it keeps. -/
theorem RegsKept.set {ks : List Nat} {d e : Dev} (h : RegsKept ks d e) {r : Reg} {v : Word} {i j k m : Nat}
    (hk : regKey r i j k m ∈ ks) : RegsKept ks d (e.set r v i j k m) := by
  intro key hkey
  have hne : key ≠ regKey r i j k m := fun heq => hkey (heq ▸ hk)
  exact (SMap.find?_set_other _ _ hne).trans (h key hkey)

theorem RegsKept.of_regs {ks : List Nat} {d e e' : Dev} (h : RegsKept ks d e) (he : e'.regs = e.regs) : RegsKept ks d e' := by
  intro key hkey
  rw [he]
  exact h key hkey

theorem Dev.f_done (d : Dev) (m : Nat) (st : Status) (v : Nat) (x : Fld) (i j k n : Nat) :
    (d.done m st v).f x i j k n = d.f x i j k n := Dev.f_of_regs (Dev.done_regs d m st v) x i j k n

section registers
variable (d : Dev)

/-- A write of ID_HEAT_CTRL leaves every other register. -/
theorem Dev.get_putHeatCtrl (m v : Nat) {r : Reg} (hr : regKey r 0 0 0 0 ≠ regKey .ID_HEAT_CTRL 0 0 0 0) :
    (d.fresh.putWord .ID_HEAT_CTRL 0 0 m v).get r = d.get r :=
  (Dev.get_set_ne _ _ _ _ _ _ _ _ _ _ _ _ (by rwa [regKey_shared rfl 0 0 0 m])).trans (Dev.get_of_regs (Dev.fresh_regs d) _ _ _ _ _)

theorem Dev.f_putHeatCtrl (m v : Nat) {x : Fld} (hx : regKey x.reg 0 0 0 0 ≠ regKey .ID_HEAT_CTRL 0 0 0 0) :
    (d.fresh.putWord .ID_HEAT_CTRL 0 0 m v).f x = d.f x := by
  rw [Dev.f, Dev.get_putHeatCtrl d m v hx, Dev.f]

theorem Dev.regsKept_putHeatCtrl (m v : Nat) :
    RegsKept [regKey .ID_HEAT_CTRL 0 0 0 0, regKey .ID_HEAT_STATE 0 0 0 0] d (d.fresh.putWord .ID_HEAT_CTRL 0 0 m v) :=
  RegsKept.set (e := d.fresh) (fun _ _ => rfl) (by rw [regKey_shared rfl 0 0 0 m]; exact List.mem_cons_self ..)

@[simp] theorem Dev.staging_putHeatCtrl (m v : Nat) : (d.fresh.putWord .ID_HEAT_CTRL 0 0 m v).staging = d.staging := by
  rw [Dev.staging, Dev.on, Dev.f_putHeatCtrl d m v (by decide), Dev.staging, Dev.on]

@[simp] theorem Dev.stagedHeat_putHeatCtrl (m v : Nat) :
    (d.fresh.putWord .ID_HEAT_CTRL 0 0 m v).stagedHeat = d.stagedHeat := Dev.f_putHeatCtrl d m v (by decide)

@[simp] theorem Dev.heat_putHeatCtrl (m v : Nat) : (d.fresh.putWord .ID_HEAT_CTRL 0 0 m v).heat = d.heat := rfl

@[simp] theorem Dev.currentHeat_putHeatCtrl (m v : Nat) :
    (d.fresh.putWord .ID_HEAT_CTRL 0 0 m v).currentHeat = d.currentHeat := rfl

@[simp] theorem Dev.now8_putHeatCtrl (m v : Nat) : (d.fresh.putWord .ID_HEAT_CTRL 0 0 m v).now8 = d.now8 := rfl

/-- The time asked for is in registers that the write leaves. -/
@[simp] theorem Dev.regTime_putHeatCtrl (m v : Nat) :
    (d.fresh.putWord .ID_HEAT_CTRL 0 0 m v).regTime .ID_HEAT_AT_NS .ID_HEAT_AT_SEC_LO .ID_HEAT_AT_SEC_HI =
      d.regTime .ID_HEAT_AT_NS .ID_HEAT_AT_SEC_LO .ID_HEAT_AT_SEC_HI := by
  simp (disch := decide) only [Dev.regTime, Dev.get_putHeatCtrl]

/-- The number of a Heat has four bits. -/
theorem Dev.stagedHeat_lt : d.stagedHeat < 16 := Nat.mod_lt _ (by decide)

end registers

/-- A write of ID_HEAT_CTRL that acts carries out its OP. -/
theorem exec_heatOp {s : State} {m op : Nat} (h : Writes s m .ID_HEAT_CTRL 0 0 (op * 2 ^ 29)) :
    onMem (writeReg .ID_HEAT_CTRL 0 0 m (op * 2 ^ 29) []) s =
      .next (s.withDev (((s.dev.fresh.putWord .ID_HEAT_CTRL 0 0 m (op * 2 ^ 29)).heatOp op).done m .ok)) := by
  have hop : bits (op * 2 ^ 29) 31 29 = op := by
    have := h.fits
    simp only [bits]
    omega
  simp only [onMem, writeReg_of_writes [] h rfl, Dev.afterWrite, hitOf, hop]
  rfl

/-! #### What each operation leaves -/

section operations
variable {d : Dev}

theorem Dev.heatOpen_of_free (hs : d.staging = false) (hp : d.heat.pendingAt = none) (hl : d.heat.live.length < 15)
    (hc : d.heat.cleaning = []) (ha : d.heat.aborted = []) :
    d.heatOpen = ((d.setF F.ID_HEAT_STATE_STAGING 1).setF F.ID_HEAT_STATE_STAGED ((d.currentHeat + 1) % 16)).heatStatus 1 := by
  simp only [Dev.heatOpen, hs, hp, hc, ha, Nat.not_le.2 hl, Option.isSome_none, List.isEmpty_nil, decide_false, Bool.not_true,
    Bool.or_false, Bool.false_eq_true, if_false]

/-- The Heat named in STAGED is STAGING. -/
theorem Dev.staged_fields (n : Nat) :
    let e := ((d.setF F.ID_HEAT_STATE_STAGING 1).setF F.ID_HEAT_STATE_STAGED n).heatStatus 1
    e.f F.ID_HEAT_STATE_STAGING = 1 ∧ e.f F.ID_HEAT_STATE_STAGED = n % 16 ∧ e.f F.ID_HEAT_CTRL_STATUS = 1 := by
  simp (disch := decide) [Dev.heatStatus, Dev.f_setF_same, Dev.f_setF_apart, Dev.f_setF_ne]

theorem Dev.heatPending_regs (t8 : Nat) : (d.heatPending t8).regs =
    (((d.setF F.ID_HEAT_STATE_STAGING 0).setF F.ID_HEAT_STATE_PENDING 1).heatStatus 1).regs := rfl

theorem Dev.heatPending_fields (t8 : Nat) :
    (d.heatPending t8).f F.ID_HEAT_STATE_STAGING = 0 ∧ (d.heatPending t8).f F.ID_HEAT_STATE_PENDING = 1 ∧
      (d.heatPending t8).f F.ID_HEAT_CTRL_STATUS = 1 := by
  simp (disch := decide) [Dev.f_of_regs (d.heatPending_regs t8), Dev.heatStatus, Dev.f_setF_same, Dev.f_setF_apart, Dev.f_setF_ne]

/-- What ABORT leaves of the Heat that is STAGING. -/
def Dev.heatDropped (d : Dev) : Dev :=
  { d.noStaged.heatStatus 1 with heat := { d.heat with pendingAt := none, aborted := d.stagedHeat :: d.heat.aborted } }

theorem Dev.heatDropped_regs : d.heatDropped.regs = (d.noStaged.heatStatus 1).regs := rfl

theorem Dev.heatDropped_fields :
    d.heatDropped.f F.ID_HEAT_STATE_STAGING = 0 ∧ d.heatDropped.f F.ID_HEAT_CTRL_STATUS = 1 := by
  simp (disch := decide) [Dev.f_of_regs d.heatDropped_regs, Dev.noStaged, Dev.heatStatus, Dev.f_setF_same, Dev.f_setF_apart, Dev.f_setF_ne]

theorem Dev.heatOp_open : d.heatOp 1 = d.heatOpen := by simp [Dev.heatOp]
theorem Dev.heatOp_commitNow : d.heatOp 2 = d.commitNow := by simp [Dev.heatOp]
theorem Dev.heatOp_commitAt : d.heatOp 3 = d.commitAt := by simp [Dev.heatOp]
theorem Dev.heatOp_abort : d.heatOp 4 = d.heatAbort := by simp [Dev.heatOp]

theorem Dev.commitNow_of_staging (h : d.staging = true) : d.commitNow = d.heatPending (d.now8 + 8000) := by
  simp [Dev.commitNow, h]

theorem Dev.commitNow_of_none (h : d.staging = false) : d.commitNow = d.heatStatus 3 := by
  simp [Dev.commitNow, h]

theorem Dev.commitAt_of_staging (h : d.staging = true) (hns : d.f F.ID_HEAT_AT_NS_NS < 1000000000)
    (ht : d.now8 + 8000 ≤ d.regTime .ID_HEAT_AT_NS .ID_HEAT_AT_SEC_LO .ID_HEAT_AT_SEC_HI) :
    d.commitAt = d.heatPending (d.regTime .ID_HEAT_AT_NS .ID_HEAT_AT_SEC_LO .ID_HEAT_AT_SEC_HI) := by
  simp only [Dev.commitAt, h, Bool.not_true, Bool.false_eq_true, if_false, Nat.not_le.2 hns, Nat.not_lt.2 ht]

theorem Dev.heatAbort_of_staging (h : d.staging = true) : d.heatAbort = d.heatDropped := by
  simp only [Dev.heatAbort, h, if_true, Dev.heatDropped]

theorem RegsKept.heatPending {e : Dev} {ks : List Nat} (h : RegsKept ks e d) (hc : regKey .ID_HEAT_CTRL 0 0 0 0 ∈ ks)
    (hs : regKey .ID_HEAT_STATE 0 0 0 0 ∈ ks) (t8 : Nat) : RegsKept ks e (d.heatPending t8) :=
  (((h.set hs).set hs).set hc).of_regs (d.heatPending_regs t8)

theorem RegsKept.noStaged {e : Dev} {ks : List Nat} (h : RegsKept ks e d) (hs : regKey .ID_HEAT_STATE 0 0 0 0 ∈ ks) :
    RegsKept ks e d.noStaged :=
  ((h.set hs).set hs).set hs

end operations

section writes
variable {s : State} {m : Nat}

/-- What a commit leaves: the STAGING Heat is PENDING with its commit time. -/
theorem heatPending_leaves (v t8 : Nat) :
    let t := s.withDev (((s.dev.fresh.putWord .ID_HEAT_CTRL 0 0 m v).heatPending t8).done m .ok)
    t.dev.staging = false ∧ t.dev.on F.ID_HEAT_STATE_PENDING = true ∧ t.dev.heat = { s.dev.heat with pendingAt := some t8 } ∧
      t.dev.f F.ID_HEAT_CTRL_STATUS = 1 ∧ RegsKept [regKey .ID_HEAT_CTRL 0 0 0 0, regKey .ID_HEAT_STATE 0 0 0 0] s.dev t.dev := by
  obtain ⟨hstaging, hpending, hstatus⟩ := (s.dev.fresh.putWord .ID_HEAT_CTRL 0 0 m v).heatPending_fields t8
  refine ⟨?_, ?_, rfl, ?_, ?_⟩
  · simp [Dev.staging, Dev.on, Dev.f_done, hstaging]
  · simp [Dev.on, Dev.f_done, hpending]
  · simp [Dev.f_done, hstatus]
  · exact ((Dev.regsKept_putHeatCtrl s.dev m v).heatPending (by simp) (by simp) t8).of_regs (Dev.done_regs ..)

theorem exec_heatOpen (h : Writes s m .ID_HEAT_CTRL 0 0 (1 * 2 ^ 29)) (hs : s.dev.staging = false)
    (hp : s.dev.heat.pendingAt = none) (hl : s.dev.heat.live.length < 15) (hc : s.dev.heat.cleaning = [])
    (ha : s.dev.heat.aborted = []) :
    exec (.heatOpen m) s = .next (s.withDev (((((s.dev.fresh.putWord .ID_HEAT_CTRL 0 0 m (1 * 2 ^ 29)).setF F.ID_HEAT_STATE_STAGING 1).setF
      F.ID_HEAT_STATE_STAGED ((s.dev.currentHeat + 1) % 16)).heatStatus 1).done m .ok)) := by
  have hexec := exec_heatOp h
  rwa [Dev.heatOp_open, Dev.heatOpen_of_free (by simpa) (by simpa) (by simpa) (by simpa) (by simpa), Dev.currentHeat_putHeatCtrl] at hexec

theorem exec_commitNow (h : Writes s m .ID_HEAT_CTRL 0 0 (2 * 2 ^ 29)) (hs : s.dev.staging = true) :
    exec (.commitNow m) s =
      .next (s.withDev (((s.dev.fresh.putWord .ID_HEAT_CTRL 0 0 m (2 * 2 ^ 29)).heatPending (s.dev.now8 + 8000)).done m .ok)) := by
  have hexec := exec_heatOp h
  rwa [Dev.heatOp_commitNow, Dev.commitNow_of_staging (by simpa), Dev.now8_putHeatCtrl] at hexec

theorem exec_commitNow_of_none (h : Writes s m .ID_HEAT_CTRL 0 0 (2 * 2 ^ 29)) (hs : s.dev.staging = false) :
    exec (.commitNow m) s =
      .next (s.withDev (((s.dev.fresh.putWord .ID_HEAT_CTRL 0 0 m (2 * 2 ^ 29)).setF F.ID_HEAT_CTRL_STATUS 3).done m .ok)) := by
  have hexec := exec_heatOp h
  rwa [Dev.heatOp_commitNow, Dev.commitNow_of_none (by simpa)] at hexec

theorem exec_commitAt (h : Writes s m .ID_HEAT_CTRL 0 0 (3 * 2 ^ 29)) (hs : s.dev.staging = true)
    (hns : s.dev.f F.ID_HEAT_AT_NS_NS < 1000000000)
    (ht : s.dev.now8 + 8000 ≤ s.dev.regTime .ID_HEAT_AT_NS .ID_HEAT_AT_SEC_LO .ID_HEAT_AT_SEC_HI) :
    exec (.commitAt m) s = .next (s.withDev (((s.dev.fresh.putWord .ID_HEAT_CTRL 0 0 m (3 * 2 ^ 29)).heatPending
      (s.dev.regTime .ID_HEAT_AT_NS .ID_HEAT_AT_SEC_LO .ID_HEAT_AT_SEC_HI)).done m .ok)) := by
  have hexec := exec_heatOp h
  rwa [Dev.heatOp_commitAt, Dev.commitAt_of_staging (by simpa) (by rwa [Dev.f_putHeatCtrl s.dev m _ (by decide)])
    (by rwa [Dev.regTime_putHeatCtrl, Dev.now8_putHeatCtrl]), Dev.regTime_putHeatCtrl] at hexec

theorem exec_heatAbort (h : Writes s m .ID_HEAT_CTRL 0 0 (4 * 2 ^ 29)) (hs : s.dev.staging = true) :
    exec (.heatAbort m) s = .next (s.withDev ((s.dev.fresh.putWord .ID_HEAT_CTRL 0 0 m (4 * 2 ^ 29)).heatDropped.done m .ok)) := by
  have hexec := exec_heatOp h
  rwa [Dev.heatOp_abort, Dev.heatAbort_of_staging (by simpa)] at hexec

/-- What OPEN leaves: the Heat named is STAGING. -/
theorem heatOpen_leaves (v : Nat) {n : Nat} (hn : n < 16) :
    let t := s.withDev (((((s.dev.fresh.putWord .ID_HEAT_CTRL 0 0 m v).setF F.ID_HEAT_STATE_STAGING 1).setF
      F.ID_HEAT_STATE_STAGED n).heatStatus 1).done m .ok)
    t.dev.staging = true ∧ t.dev.stagedHeat = n ∧ t.dev.f F.ID_HEAT_CTRL_STATUS = 1 ∧ t.dev.heat = s.dev.heat ∧
      t.dev.last = [⟨m, .ok, 0⟩] ∧ RegsKept [regKey .ID_HEAT_CTRL 0 0 0 0, regKey .ID_HEAT_STATE 0 0 0 0] s.dev t.dev := by
  obtain ⟨hstaging, hstaged, hstatus⟩ := (s.dev.fresh.putWord .ID_HEAT_CTRL 0 0 m v).staged_fields n
  refine ⟨?_, ?_, ?_, rfl, rfl, ?_⟩
  · simp [Dev.staging, Dev.on, Dev.f_done, hstaging]
  · simp [Dev.stagedHeat, Dev.f_done, hstaged, Nat.mod_eq_of_lt hn]
  · simp [Dev.f_done, hstatus]
  · exact ((((Dev.regsKept_putHeatCtrl s.dev m v).set (by simp)).set (by simp)).set (by simp)).of_regs (Dev.done_regs ..)

/-- What ABORT leaves: no Heat is STAGING, and the one that was waits for its cleanup. -/
theorem heatDropped_leaves (v : Nat) :
    let t := s.withDev ((s.dev.fresh.putWord .ID_HEAT_CTRL 0 0 m v).heatDropped.done m .ok)
    t.dev.staging = false ∧ t.dev.f F.ID_HEAT_CTRL_STATUS = 1 ∧
      t.dev.heat = { s.dev.heat with pendingAt := none, aborted := s.dev.stagedHeat :: s.dev.heat.aborted } ∧
      RegsKept [regKey .ID_HEAT_CTRL 0 0 0 0, regKey .ID_HEAT_STATE 0 0 0 0] s.dev t.dev := by
  obtain ⟨hstaging, hstatus⟩ := (s.dev.fresh.putWord .ID_HEAT_CTRL 0 0 m v).heatDropped_fields
  refine ⟨?_, ?_, ?_, ?_⟩
  · simp [Dev.staging, Dev.on, Dev.f_done, hstaging]
  · simp [Dev.f_done, hstatus]
  · simp [Dev.heatDropped]
  · exact (((Dev.regsKept_putHeatCtrl s.dev m v).noStaged (by simp)).set (by simp)).of_regs rfl

end writes

end Sys2Proof.Machine
end

/-! ### Transitions of Heats by themselves -/

section
namespace Sys2Proof.Machine

section sync
variable (d : Dev)

@[simp] theorem Dev.fresh_stagedHeat : d.fresh.stagedHeat = d.stagedHeat := Dev.f_of_regs (Dev.fresh_regs d) _ _ _ _ _

@[simp] theorem Dev.noStaged_heat : d.noStaged.heat = d.heat := rfl

@[simp] theorem Dev.noStaged_pending : d.noStaged.f F.ID_HEAT_STATE_PENDING = 0 := by
  simp (disch := decide) [Dev.noStaged, Dev.f_setF_same, Dev.f_setF_apart]

theorem Dev.syncHeat_fields :
    d.syncHeat.f F.ID_HEAT_STATE_OLDEST = d.oldestHeat % 16 ∧ d.syncHeat.f F.ID_HEAT_STATE_CURRENT = d.currentHeat % 16 ∧
      d.syncHeat.f F.ID_HEAT_STATE_PENDING = d.f F.ID_HEAT_STATE_PENDING := by
  simp (disch := decide) [Dev.syncHeat, Dev.f_setF_same, Dev.f_setF_apart]

theorem RegsKept.syncHeat {e : Dev} {ks : List Nat} (h : RegsKept ks e d) (hs : regKey .ID_HEAT_STATE 0 0 0 0 ∈ ks) :
    RegsKept ks e d.syncHeat :=
  ((h.set hs).set hs).set hs

end sync

section transitions
variable {d : Dev}

/-- The Heats after the PENDING one has become CURRENT at its commit time: its predecessor drains from now. -/
def Dev.heatsCommitted (d : Dev) (t8 : Nat) : HeatSt :=
  { d.heat with
    live := d.heat.live ++ [(d.stagedHeat, some t8)]
    pendingAt := none
    drainAt := SMap.set d.heat.drainAt d.currentHeat d.time.ticks }

theorem Dev.heatCommit_of_pending {t8 : Nat} (h : d.heat.pendingAt = some t8) :
    d.heatCommit = ({ d with heat := d.heatsCommitted t8 }.noStaged.syncHeat).onInterval fun i => { i with heatChanged := true } := by
  simp only [Dev.heatCommit, h]
  rfl

/-- The Heats after the oldest has retired: its marks wait for a cleanup. -/
def HeatSt.retired (h : HeatSt) (x : Nat × Option Nat) (live : List (Nat × Option Nat)) : HeatSt :=
  { h with
    live := live
    drainAt := SMap.erase h.drainAt x.1
    cleaning := h.cleaning ++ [x.1]
    promoted := h.promoted.filter (· != x.1) }

theorem Dev.heatRetire_of_idle {x y : Nat × Option Nat} {rest : List (Nat × Option Nat)} (h : d.heat.live = x :: y :: rest)
    (hidle : d.heatInFlight x.1 = false) :
    d.heatRetire = { d with heat := d.heat.retired x (y :: rest) }.syncHeat := by
  simp only [Dev.heatRetire, h, hidle, Bool.false_eq_true, if_false]
  rfl

/-- No copy of a Heat is held: its promotion moves none. -/
theorem Dev.heatPromotion_of_no_copy {x y : Nat × Option Nat} {rest : List (Nat × Option Nat)} {n : Nat}
    (h : d.heat.live = x :: y :: rest) (hdrain : SMap.find? d.heat.drainAt x.1 = some n)
    (hlimit : n + d.f F.ID_HEAT_CFG_DRAIN_MAX_US * 800 ≤ d.time.ticks) (honce : d.heat.promoted.contains x.1 = false)
    (hcopies : ∀ c, c ∈ d.copyList → c.heat ≠ x.1) :
    d.heatPromotion = { d with heat := { d.heat with promoted := x.1 :: d.heat.promoted } } := by
  have hnone : (d.copyList.filter fun c => c.heat == x.1 && c.waits) = [] := by
    simp only [List.filter_eq_nil_iff, Bool.and_eq_true, beq_iff_eq, not_and]
    exact fun c hc heq => absurd heq (hcopies c hc)
  simp only [Dev.heatPromotion, h, hdrain, Nat.not_lt.2 hlimit, honce, Bool.or_false, decide_false, Bool.false_eq_true, if_false]
  exact congrArg (fun l => Dev.each _ l fun d c => d.promote c.id) hnone

end transitions

theorem Dev.currentHeat_committed {d e : Dev} {t8 : Nat} (h : e.heat = d.heatsCommitted t8) : e.currentHeat = d.stagedHeat := by
  simp [Dev.currentHeat, h, Dev.heatsCommitted]

theorem Dev.f_onInterval (d : Dev) (g : Interval → Interval) (x : Fld) : (d.onInterval g).f x = d.f x :=
  Dev.f_of_regs (by rfl) x 0 0 0 0

/-- What HEAT_COMMIT leaves: the registers show the Heats as they now are. -/
theorem Dev.heatCommit_leaves {d : Dev} {t8 : Nat} (h : d.heat.pendingAt = some t8) :
    d.heatCommit.heat = d.heatsCommitted t8 ∧ d.heatCommit.f F.ID_HEAT_STATE_CURRENT = d.stagedHeat ∧
      d.heatCommit.f F.ID_HEAT_STATE_PENDING = 0 ∧ RegsKept [regKey .ID_HEAT_STATE 0 0 0 0] d d.heatCommit := by
  obtain ⟨-, hcurrent, hpending⟩ := ({ d with heat := d.heatsCommitted t8 }.noStaged).syncHeat_fields
  have hstart : RegsKept [regKey .ID_HEAT_STATE 0 0 0 0] d { d with heat := d.heatsCommitted t8 } := fun _ _ => rfl
  have hkept := (hstart.noStaged (List.mem_singleton_self _)).syncHeat _ (List.mem_singleton_self _)
  rw [Dev.heatCommit_of_pending h]
  refine ⟨rfl, ?_, ?_, hkept.of_regs rfl⟩
  · rw [Dev.f_onInterval, hcurrent, Dev.currentHeat_committed (d := d) (t8 := t8) (Dev.noStaged_heat _), Nat.mod_eq_of_lt d.stagedHeat_lt]
  · rw [Dev.f_onInterval, hpending, Dev.noStaged_pending]

variable {s : State}

theorem exec_heatCommit {t8 : Nat} (h : s.dev.heat.pendingAt = some t8) :
    ∃ t, exec .heatCommit s = .next t ∧ t.mem = s.mem ∧ t.dev.heat.live = s.dev.heat.live ++ [(s.dev.stagedHeat, some t8)] ∧
      t.dev.heat.pendingAt = none ∧ t.dev.currentHeat = s.dev.stagedHeat ∧ t.dev.f F.ID_HEAT_STATE_CURRENT = s.dev.stagedHeat ∧
      t.dev.on F.ID_HEAT_STATE_PENDING = false ∧ SMap.find? t.dev.heat.drainAt s.dev.currentHeat = some s.dev.time.ticks ∧
      RegsKept [regKey .ID_HEAT_STATE 0 0 0 0] s.dev t.dev := by
  obtain ⟨hheat, hcurrent, hpending, hkept⟩ := Dev.heatCommit_leaves (d := s.dev.fresh) h
  refine ⟨s.withDev s.dev.fresh.heatCommit, rfl, rfl, ?_, ?_, ?_, ?_, ?_, ?_, hkept⟩
  · simp [hheat, Dev.heatsCommitted]
  · simp [hheat, Dev.heatsCommitted]
  · simp [Dev.currentHeat_committed hheat]
  · simp [hcurrent]
  · simp [Dev.on, hpending]
  · rw [State.withDev_dev, hheat]
    exact SMap.find?_set_same _ _ _

theorem Dev.heatRetire_leaves {d : Dev} {x y : Nat × Option Nat} {rest : List (Nat × Option Nat)}
    (h : d.heat.live = x :: y :: rest) (hidle : d.heatInFlight x.1 = false) (hy : y.1 < 16) :
    d.heatRetire.heat = d.heat.retired x (y :: rest) ∧ d.heatRetire.f F.ID_HEAT_STATE_OLDEST = y.1 ∧
      RegsKept [regKey .ID_HEAT_STATE 0 0 0 0] d d.heatRetire := by
  obtain ⟨holdest, -⟩ := ({ d with heat := d.heat.retired x (y :: rest) } : Dev).syncHeat_fields
  rw [Dev.heatRetire_of_idle h hidle]
  exact ⟨rfl, holdest.trans (Nat.mod_eq_of_lt hy), RegsKept.syncHeat _ (fun _ _ => rfl) (by simp)⟩

theorem exec_heatRetire {x y : Nat × Option Nat} {rest : List (Nat × Option Nat)}
    (h : s.dev.heat.live = x :: y :: rest) (hidle : s.dev.heatInFlight x.1 = false) (hy : y.1 < 16) :
    ∃ t, exec .heatRetire s = .next t ∧ t.mem = s.mem ∧ t.dev.heat.live = y :: rest ∧ t.dev.heat.cleaning = s.dev.heat.cleaning ++ [x.1] ∧
      t.dev.oldestHeat = y.1 ∧ t.dev.f F.ID_HEAT_STATE_OLDEST = y.1 ∧ RegsKept [regKey .ID_HEAT_STATE 0 0 0 0] s.dev t.dev := by
  obtain ⟨hheat, holdest, hkept⟩ := Dev.heatRetire_leaves (d := s.dev.fresh) h hidle hy
  refine ⟨s.withDev s.dev.fresh.heatRetire, rfl, rfl, ?_, ?_, ?_, holdest, hkept⟩
  · simp [hheat, HeatSt.retired]
  · simp [hheat, HeatSt.retired]
  · simp [Dev.oldestHeat, hheat, HeatSt.retired]

theorem exec_heatPromotion {x y : Nat × Option Nat} {rest : List (Nat × Option Nat)} {n : Nat}
    (h : s.dev.heat.live = x :: y :: rest) (hdrain : SMap.find? s.dev.heat.drainAt x.1 = some n)
    (hlimit : n + s.dev.f F.ID_HEAT_CFG_DRAIN_MAX_US * 800 ≤ s.dev.time.ticks) (honce : s.dev.heat.promoted.contains x.1 = false)
    (hcopies : ∀ c, c ∈ s.dev.copyList → c.heat ≠ x.1) :
    exec .heatPromotion s =
      .next (s.withDev { s.dev.fresh with heat := { s.dev.heat with promoted := x.1 :: s.dev.heat.promoted } }) :=
  congrArg (fun d => Host.Outcome.next (s.withDev d))
    (Dev.heatPromotion_of_no_copy (d := s.dev.fresh) h hdrain hlimit honce hcopies)

end Sys2Proof.Machine
end

/-! ### Cleanups -/

section
namespace Sys2Proof.Machine

/-! #### Marks -/

theorem ctlDel_congr {a b : Nat} (h : a % 2 ^ 5 = b % 2 ^ 5) : ctlDel a = ctlDel b := by
  have hbit : bit a 4 = bit b 4 := by
    simp only [bit, Nat.testBit_eq_decide_div_mod_eq, decide_eq_decide]
    omega
  have hheat : bits a 3 0 = bits b 3 0 := by
    simp only [bits]
    omega
  rw [ctlDel, ctlDel, hbit, hheat]

theorem ctlAdd_congr {a b : Nat} (h : a / 2 ^ 5 % 2 ^ 5 = b / 2 ^ 5 % 2 ^ 5) : ctlAdd a = ctlAdd b := by
  have hbit : bit a 9 = bit b 9 := by
    simp only [bit, Nat.testBit_eq_decide_div_mod_eq, decide_eq_decide]
    omega
  have hheat : bits a 8 5 = bits b 8 5 := by
    simp only [bits]
    omega
  rw [ctlAdd, ctlAdd, hbit, hheat]

theorem ctlDel_noAdd (c : Nat) : ctlDel (noAdd c) = ctlDel c :=
  ctlDel_congr (by simp only [noAdd, bits]; omega)

theorem ctlAdd_noDel (c : Nat) : ctlAdd (noDel c) = ctlAdd c :=
  ctlAdd_congr (by simp only [noDel, bits]; omega)

/-- An entry holds the 15 bits of the control field put into it; the 16th is its parity. -/
theorem ctlOf_withCtl_mod (n e c : Nat) : ctlOf (n + 16) (withCtl (n + 16) e c) % 2 ^ 15 = c % 2 ^ 15 := by
  have hlow : n + 16 - 16 = n := by omega
  have hhigh : n + 16 - 1 = n + 15 := by omega
  have hwidth : n + 15 - n + 1 = 16 := by omega
  simp only [ctlOf, withCtl, bits, hlow, hhigh, hwidth]
  generalize parityOf _ _ = parity
  have hsplit : e % 2 ^ n + c % 2 ^ 15 * 2 ^ n + parity * 2 ^ (n + 15) =
      e % 2 ^ n + (c % 2 ^ 15 + parity * 2 ^ 15) * 2 ^ n := by
    rw [Nat.pow_add, Nat.mul_comm (2 ^ n) (2 ^ 15), Nat.add_mul, Nat.mul_assoc parity, Nat.add_assoc]
  rw [hsplit, Nat.add_mul_div_right _ _ (Nat.two_pow_pos n), Nat.div_eq_of_lt (Nat.mod_lt _ (Nat.two_pow_pos n))]
  omega

theorem ctlDel_withCtl (e c : Nat) : ctlDel (ctlOf 512 (withCtl 512 e c)) = ctlDel c :=
  ctlDel_congr (by have h : ctlOf 512 (withCtl 512 e c) % 2 ^ 15 = c % 2 ^ 15 := ctlOf_withCtl_mod 496 e c; omega)

theorem ctlAdd_withCtl (e c : Nat) : ctlAdd (ctlOf 512 (withCtl 512 e c)) = ctlAdd c :=
  ctlAdd_congr (by have h : ctlOf 512 (withCtl 512 e c) % 2 ^ 15 = c % 2 ^ 15 := ctlOf_withCtl_mod 496 e c; omega)

/-- What the cleanup of retired Heats can make of a control field it keeps. -/
theorem eq_of_cleanedCtl {hs : List Nat} {c c' : Nat} (hc : cleanedCtl hs c = some c') : c' = c ∨ c' = noAdd c := by
  unfold cleanedCtl at hc
  grind

/-- What an abort can make of a control field it keeps. -/
theorem eq_of_abortedCtl {hs : List Nat} {c c' : Nat} (hc : abortedCtl hs c = some c') : c' = c ∨ c' = noDel c := by
  unfold abortedCtl at hc
  grind

/-- A field kept has its DEL mark still, and one of a retired Heat would have removed it. -/
theorem ctlDel_cleanedCtl {hs : List Nat} {c c' : Nat} (hc : cleanedCtl hs c = some c') {h : Nat} (hh : h ∈ hs) :
    ctlDel c' ≠ some h := by
  have hsame : ctlDel c' = ctlDel c := by
    rcases eq_of_cleanedCtl hc with rfl | rfl
    · rfl
    · exact ctlDel_noAdd c
  intro hmark
  rw [hsame] at hmark
  simp [cleanedCtl, hmark, hh] at hc

/-- A field kept has its ADD mark still, and one of an aborted Heat would have removed it. -/
theorem ctlAdd_abortedCtl {hs : List Nat} {c c' : Nat} (hc : abortedCtl hs c = some c') {h : Nat} (hh : h ∈ hs) :
    ctlAdd c' ≠ some h := by
  have hsame : ctlAdd c' = ctlAdd c := by
    rcases eq_of_abortedCtl hc with rfl | rfl
    · rfl
    · exact ctlAdd_noDel c
  intro hmark
  rw [hsame] at hmark
  simp [abortedCtl, hmark, hh] at hc

end Sys2Proof.Machine
end

/-! ### What a sweep of the marks leaves -/

section
namespace Sys2Proof.Machine

/-- The parts of the device that say which entries there are and which Heats they are of. -/
def Dev.versions (d : Dev) : HeatSt × Tables := (d.heat, d.tbl)

theorem Dev.versions_each {α : Type} (d : Dev) (l : List α) {f : Dev → α → Dev} (hf : ∀ e x, (f e x).versions = e.versions) :
    (d.each l f).versions = d.versions :=
  List.foldlRecOn l f (motive := fun e => e.versions = d.versions) rfl fun e h x _ => (hf e x).trans h

section hbm
variable (d : Dev)

@[simp] theorem Dev.versions_pcAdd (fuel k n : Nat) : (Dev.pcAdd fuel d k n).versions = d.versions := by
  induction fuel generalizing d k n with
  | zero => rfl
  | succ fuel ih =>
    simp only [Dev.pcAdd]
    split
    · rfl
    · split
      · exact ih _ _ _
      · rfl

@[simp] theorem Dev.versions_pcEvent (sel index : Nat) (cls : Option Nat) (val : Nat → Bool) (n : Nat) :
    (d.pcEvent sel index cls val n).versions = d.versions := by
  unfold Dev.pcEvent
  split
  · rfl
  · refine Dev.versions_each d d.pcConfigured fun e k => ?_
    split
    · exact e.versions_pcAdd 4 k n
    · rfl

@[simp] theorem Dev.versions_accept (port granule n account : Nat) : (d.accept port granule n account).versions = d.versions :=
  Dev.versions_pcEvent (((d.bumpQ .HBM_REQ_CNT port 0).bumpQ .HBM_REQ_CNT port 1 0 n).weigh (80 + stackOf granule) 0 account n) ..

@[simp] theorem Dev.versions_takeFloor (port n : Nat) : (d.takeFloor port n).versions = d.versions := by
  unfold Dev.takeFloor
  split
  · rfl
  · simp only
    split <;> rfl

@[simp] theorem Dev.versions_queueWrite (w : HbmWrite) : (d.queueWrite w).versions = d.versions := by
  have htaken : ((d.accept w.port w.granule w.bytes.length w.account).takeFloor w.port w.bytes.length).versions = d.versions := by
    simp
  simp only [Dev.queueWrite]
  split
  · exact htaken
  · split <;> exact htaken

@[simp] theorem Dev.versions_postGranule (w : HbmWrite) : (d.postGranule w).versions = d.versions := by
  unfold Dev.postGranule
  split
  · rfl
  · exact d.versions_queueWrite w

@[simp] theorem Dev.versions_hbmPost (port a : Nat) (bs : List Byte) (account : Nat) :
    (d.hbmPost port a bs account).versions = d.versions :=
  Dev.versions_each d (granulesOf a bs) fun e g => e.versions_postGranule ⟨g.1, g.2, port, account⟩

end hbm

section sweep
variable (d : Dev)

@[simp] theorem Dev.versions_writeHolder (k i : Nat) (b : Byte) : (d.writeHolder k i b).versions = d.versions := by
  unfold Dev.writeHolder
  split <;> simp

@[simp] theorem Dev.versions_dropHolder (k i : Nat) : (d.dropHolder k i).versions = d.versions := by
  unfold Dev.dropHolder
  split <;> rfl

@[simp] theorem Dev.versions_freeShadow (key : Nat) : (d.freeShadow key).versions = d.versions := by
  unfold Dev.freeShadow Dev.unhold
  split
  · rfl
  · split <;> simp

@[simp] theorem Dev.versions_moveOcc (t : Nat) (n : Int) : (d.moveOcc t n).versions = d.versions := rfl
@[simp] theorem Dev.versions_moveCam (t : Nat) (n : Int) : (d.moveCam t n).versions = d.versions := rfl

/-- A sweep leaves the Heats, and of the action entries those whose control field it keeps. -/
theorem Dev.sweepMarks_heat_action (ctl : Nat → Option Nat) (marks : Option Nat × Option Nat → Option (Option Nat × Option Nat)) :
    (d.sweepMarks ctl marks).heat = d.heat ∧ (d.sweepMarks ctl marks).tbl.action =
      d.tbl.action.filterMap fun p => (ctl (ctlOf 512 p.2)).map fun c => (p.1, withCtl 512 p.2 c) := by
  have hversions : ∃ e : Dev, (d.sweepMarks ctl marks).versions = e.versions ∧ e.heat = d.heat ∧
      e.tbl.action = d.tbl.action.filterMap fun p => (ctl (ctlOf 512 p.2)).map fun c => (p.1, withCtl 512 p.2 c) := by
    refine ⟨_, (Dev.versions_each _ _ fun e x => ?_).trans (Dev.versions_each _ _ fun e p => ?_), rfl, rfl⟩
    · simp
    · simp only
      split <;> simp
  obtain ⟨e, hsame, hheat, haction⟩ := hversions
  obtain ⟨hh, ht⟩ := Prod.mk.inj hsame
  exact ⟨hh.trans hheat, (congrArg Tables.action ht).trans haction⟩

end sweep

theorem mem_sweepMarks_action {d : Dev} {ctl : Nat → Option Nat} {marks : Option Nat × Option Nat → Option (Option Nat × Option Nat)}
    {p : Nat × Nat} (hp : p ∈ (d.sweepMarks ctl marks).tbl.action) :
    ∃ e c c', ctl c = some c' ∧ p.2 = withCtl 512 e c' := by
  rw [(d.sweepMarks_heat_action ctl marks).2] at hp
  obtain ⟨q, -, hq⟩ := List.mem_filterMap.1 hp
  obtain ⟨c, hc, rfl⟩ := Option.map_eq_some_iff.1 hq
  exact ⟨q.2, _, c, hc, rfl⟩

variable {s : State}

theorem exec_heatCleanupDone :
    ∃ t, exec .heatCleanupDone s = .next t ∧ t.mem = s.mem ∧ t.dev.heat = { s.dev.heat with cleaning := [] } ∧
      ∀ p, p ∈ t.dev.tbl.action → ∀ h, h ∈ s.dev.heat.cleaning → ctlDel (ctlOf 512 p.2) ≠ some h := by
  obtain ⟨hheat, -⟩ := s.dev.fresh.sweepMarks_heat_action (cleanedCtl s.dev.heat.cleaning) (cleanedMarks s.dev.heat.cleaning)
  refine ⟨s.withDev s.dev.fresh.heatCleanup, rfl, rfl, ?_, fun p hp h hh => ?_⟩
  · exact congrArg (fun x : HeatSt => { x with cleaning := [] }) hheat
  · obtain ⟨e, c, c', hc, hentry⟩ := mem_sweepMarks_action hp
    rw [hentry, ctlDel_withCtl]
    exact ctlDel_cleanedCtl hc hh

theorem exec_abortCleanupDone :
    ∃ t, exec .abortCleanupDone s = .next t ∧ t.mem = s.mem ∧ t.dev.heat = { s.dev.heat with aborted := [] } ∧
      ∀ p, p ∈ t.dev.tbl.action → ∀ h, h ∈ s.dev.heat.aborted → ctlAdd (ctlOf 512 p.2) ≠ some h := by
  obtain ⟨hheat, -⟩ := s.dev.fresh.sweepMarks_heat_action (abortedCtl s.dev.heat.aborted) (abortedMarks s.dev.heat.aborted)
  refine ⟨s.withDev s.dev.fresh.abortCleanup, rfl, rfl, ?_, fun p hp h hh => ?_⟩
  · exact congrArg (fun x : HeatSt => { x with aborted := [] }) hheat
  · obtain ⟨e, c, c', hc, hentry⟩ := mem_sweepMarks_action hp
    rw [hentry, ctlAdd_withCtl]
    exact ctlAdd_abortedCtl hc hh

/-- Settles O49: each operation is the model's own, and leaves what the lemma about it says; each transition likewise, and a
cleanup keeps only fields without the marks it sweeps. -/
theorem heatsAreStagedAndRetired : Obligations.HeatsAreStagedAndRetired := by
  refine ⟨fun s m t8 => ⟨?_, ?_, exec_commitNow_of_none, ?_, ?_⟩, fun s t8 n x y rest =>
    ⟨exec_heatCommit, exec_heatRetire, exec_heatCleanupDone, exec_abortCleanupDone, exec_heatPromotion⟩⟩
  · intro h hs hp hl hc ha
    exact ⟨_, exec_heatOpen h hs hp hl hc ha, rfl, heatOpen_leaves _ (Nat.mod_lt _ (by decide))⟩
  · intro h hs
    exact ⟨_, exec_commitNow h hs, rfl, heatPending_leaves _ _⟩
  · rintro h hs hns rfl ht
    obtain ⟨hstaging, -, hleft⟩ := heatPending_leaves (s := s) (m := m) (3 * 2 ^ 29)
      (s.dev.regTime .ID_HEAT_AT_NS .ID_HEAT_AT_SEC_LO .ID_HEAT_AT_SEC_HI)
    exact ⟨_, exec_commitAt h hs hns ht, rfl, hstaging, hleft⟩
  · intro h hs
    exact ⟨_, exec_heatAbort h hs, rfl, heatDropped_leaves _⟩

end Sys2Proof.Machine
end

/-! ### Patches -/

section
namespace Sys2Proof.Machine

/-- In service; H0 owns bank 0 of the scratchpad, which is ON, and has lent it to BIST (R437). PIPE_PATCH_SRC of pipe 0 names
the bank's first byte, and the scratchpad is empty. -/
def containerInLentBank : State :=
  let owned := (Dev.reset.setF F.ID_STATUS_STAGE 6).setF F.SPD_BANK_CFG_OWNER mH0 0
  { State.reset with dev := (owned.setF F.SPD_BANK_CFG_LEND 1 0).setF F.SPD_BANK_STAT_BIST_ACTIVE 1 0 }

/-- H0's GO for pipe 0 acts there. -/
theorem containerInLentBank_writes : Writes containerInLentBank mH0 .PIPE_PATCH_CTRL 0 0 (setBit 0 31) where
  has := by decide +kernel
  master := by decide +kernel
  live := by decide +kernel
  stage := by decide +kernel
  rights := by decide +kernel
  aligned := by decide +kernel
  outside := by decide +kernel
  found := by decide +kernel
  fits := by decide +kernel
  narrow := by decide +kernel
  running := by decide +kernel
  permitted := by decide +kernel
  accepted := by decide +kernel

/-- The container has no magic number, so its format is wrong. -/
theorem containerInLentBank_check : (containerInLentBank.dev.fresh.putWord .PIPE_PATCH_CTRL 0 0 mH0 (setBit 0 31)).patchCheck
    containerInLentBank.mem mH0 0 = some 2 := by decide +kernel

/-- Reading the container takes the bank back: LEND falls (R437). -/
theorem containerInLentBank_reclaimed :
    SMap.find? containerInLentBank.dev.regs (regKey .SPD_BANK_CFG 0 0 0 0) = some (word (2 ^ 29)) ∧
      SMap.find? (writeReg .PIPE_PATCH_CTRL 0 0 mH0 (setBit 0 31) [] containerInLentBank.mem containerInLentBank.dev.fresh).2.regs
        (regKey .SPD_BANK_CFG 0 0 0 0) = some (word 0) := by decide +kernel

/-- Refutes O50: the words keep every register but PIPE_PATCH_CTRL, and do not exclude a container in a bank that its owner has
lent. Reading it reclaims the bank, so LEND in SPD_BANK_CFG falls with a GO that fails (R437). -/
theorem not_patchesAreSwitched : ¬ Obligations.PatchesAreSwitched := by
  intro h
  obtain ⟨hfails, -⟩ := h containerInLentBank mH0 0 2 0 _ ⟨0, [], []⟩ (by decide) rfl
  obtain ⟨t, ht, -, -, -, -, hregs⟩ := hfails containerInLentBank_writes containerInLentBank_check (by decide)
  have hdev : t.dev =
      (writeReg .PIPE_PATCH_CTRL 0 0 mH0 (setBit 0 31) [] containerInLentBank.mem containerInLentBank.dev.fresh).2 := dev_of_onMem ht
  obtain ⟨hlent, hreclaimed⟩ := containerInLentBank_reclaimed
  have hkept := hregs (regKey .SPD_BANK_CFG 0 0 0 0) (by decide)
  rw [hdev, hreclaimed, hlent] at hkept
  exact absurd hkept (by decide)

end Sys2Proof.Machine
end

/-! ### Learned and corrupt entries -/

section
namespace Sys2Proof.Machine

/-! #### Raw entries -/

section entries
variable (d : Dev) (mem : Mem)

/-- The L2 table is the first: its keys are the indices themselves. -/
theorem emKey_l2 (idx : Nat) : emKey 0 idx = idx := Nat.zero_add idx

@[simp] theorem Dev.entry_l2 (idx port : Nat) : d.entry mem 0 idx port = SMap.get d.tbl.em idx 0 := by
  simp [Dev.entry, emKey_l2]

@[simp] theorem Dev.entry_action (idx port : Nat) : d.entry mem 4 idx port = SMap.get d.tbl.action idx 0 := by
  simp [Dev.entry]

@[simp] theorem Dev.tbl_moveLearned (t e : Nat) (up : Bool) : (d.moveLearned t e up).tbl = d.tbl := by
  simp only [Dev.moveLearned]
  split <;> rfl

@[simp] theorem Dev.tbl_moveOcc (t : Nat) (n : Int) : (d.moveOcc t n).tbl = d.tbl := rfl
@[simp] theorem Dev.tbl_moveCam (t : Nat) (n : Int) : (d.moveCam t n).tbl = d.tbl := rfl

/-- A write of an L2 entry changes that entry and nothing else of the tables but their counts, which are registers. -/
@[simp] theorem Dev.tbl_setEntry_l2 (idx e : Nat) :
    (d.setEntry mem 0 idx e).tbl = { d.tbl with em := SMap.put d.tbl.em idx e 0 } := by
  simp [Dev.setEntry, emKey_l2, isEm, apply_ite Dev.tbl]

/-- The same of an action entry. -/
@[simp] theorem Dev.tbl_setEntry_action (idx e : Nat) :
    (d.setEntry mem 4 idx e).tbl = { d.tbl with action := SMap.put d.tbl.action idx e 0 } := by
  simp [Dev.setEntry, isEm]

/-- Without a DMA nothing is locked (R292). -/
theorem Dev.lockedFor_of_no_dma {d : Dev} (h : d.tbl.dma = none) (m : Option Nat) (t idx : Nat) : d.lockedFor m t idx = false := by
  simp [Dev.lockedFor, h]

end entries

/-! #### The logs of the tables -/

section logs
variable (d : Dev)

/-- A notice changes only the notice log of the tables, whether it has room or not. -/
theorem Dev.tbl_tblNotice (typ : Nat) (damped : Bool) (part newPort oldPort mac vid stamp : Nat) :
    ∃ ns, (d.tblNotice typ damped part newPort oldPort mac vid stamp).tbl = { d.tbl with notices := ns } := by
  simp only [Dev.tblNotice]
  split
  · exact ⟨_, rfl⟩
  · exact ⟨d.tbl.notices, rfl⟩

@[simp] theorem Dev.em_tblNotice (typ : Nat) (damped : Bool) (part newPort oldPort mac vid stamp : Nat) :
    (d.tblNotice typ damped part newPort oldPort mac vid stamp).tbl.em = d.tbl.em := by
  obtain ⟨ns, h⟩ := d.tbl_tblNotice typ damped part newPort oldPort mac vid stamp
  rw [h]

@[simp] theorem Dev.tracker_tblNotice (typ : Nat) (damped : Bool) (part newPort oldPort mac vid stamp : Nat) :
    (d.tblNotice typ damped part newPort oldPort mac vid stamp).tbl.tracker = d.tbl.tracker := by
  obtain ⟨ns, h⟩ := d.tbl_tblNotice typ damped part newPort oldPort mac vid stamp
  rw [h]

/-- An error log with room takes one entry more, and the rest of the tables stays. -/
theorem Dev.tbl_tblError_of_room {d : Dev} (h : d.tbl.errors.length < 64) (t str found : Nat) (static : Bool) (pipe idx : Nat) :
    ∃ entry, (d.tblError t str found static pipe idx).tbl = { d.tbl with errors := d.tbl.errors ++ [entry] } := by
  simp [Dev.tblError, pushLog, h]

/-- The tracker is kept, or the key is marked untracked: no entry, event or log is touched. -/
theorem Dev.tbl_setTrack (x : Track) :
    ∃ tracker untracked, (d.setTrack x).tbl = { d.tbl with tracker := tracker, untracked := untracked } := by
  simp only [Dev.setTrack]
  split
  · exact ⟨_, _, rfl⟩
  · exact ⟨_, _, rfl⟩

end logs

/-! #### Learning -/

/-- The learned entry of an event: VALID, LEARNED and HIT, with the event's key and port (R274, R283). -/
def learnedEntry (x : LearnEv) : Nat :=
  withCtl 128 (x.port * 2 ^ 101 + beAt x.key 0 1 * 2 ^ 60 + beAt x.key 1 2 * 2 ^ 48 + beAt x.key 3 6) (2 ^ 14 + 2 ^ 13 + 2 ^ 12)

section learning
variable {d : Dev} {mem : Mem} {x : LearnEv} {idx : Nat}

theorem Dev.learnLocked_of_no_dma (h : d.tbl.dma = none) : d.learnLocked mem x = false := by
  cases hplace : d.place mem 0 x.key <;> simp [Dev.learnLocked, Dev.lockedFor_of_no_dma h, hplace]

/-- One event in the queue, and no lock: it is committed and the queue is empty. -/
theorem Dev.learnCommit_of_single (hq : d.tbl.learnQ = [x]) (hdma : d.tbl.dma = none) :
    d.learnCommit mem = { d with tbl := { d.tbl with learnQ := [] } }.commitLearn mem x := by
  have hfree : ({ d with tbl := { d.tbl with learnQ := [] } } : Dev).learnLocked mem x = false := Dev.learnLocked_of_no_dma hdma
  simp [Dev.learnCommit, hq, sortBy, insertBy, Dev.each, hfree]

/-- An address without an entry, at a port below its limit, gets a learned entry where there is room (R283). -/
theorem Dev.commitLearn_of_new (hnew : d.entriesOf mem 0 x.key = []) (hlimit : d.atLimit x.port = false)
    (hplace : d.place mem 0 x.key = some idx) :
    d.commitLearn mem x =
      (((d.takeUntracked x.key).1.setEntry mem 0 idx (learnedEntry x)).bumpQ .TBL_CNT 0 2).setTrack ⟨x.key, d.time.ticks, [], none⟩ := by
  have hnew' : (d.takeUntracked x.key).1.entriesOf mem 0 x.key = [] := hnew
  have hlimit' : (d.takeUntracked x.key).1.atLimit x.port = false := hlimit
  have hplace' : (d.takeUntracked x.key).1.place mem 0 x.key = some idx := hplace
  simp only [Dev.commitLearn, hnew', List.find?_nil, hlimit', Bool.false_eq_true, if_false, hplace', learnedEntry]
  rfl

/-- What such a commit leaves of the queue and the L2 table. -/
theorem Dev.commitLearn_leaves (hnew : d.entriesOf mem 0 x.key = []) (hlimit : d.atLimit x.port = false)
    (hplace : d.place mem 0 x.key = some idx) :
    (d.commitLearn mem x).tbl.learnQ = d.tbl.learnQ ∧ (d.commitLearn mem x).tbl.em = SMap.put d.tbl.em idx (learnedEntry x) 0 := by
  have hset := Dev.tbl_setEntry_l2 (d.takeUntracked x.key).1 mem idx (learnedEntry x)
  rw [Dev.commitLearn_of_new hnew hlimit hplace]
  generalize (d.takeUntracked x.key).1.setEntry mem 0 idx (learnedEntry x) = written at hset ⊢
  obtain ⟨tracker, untracked, h⟩ := Dev.tbl_setTrack (written.bumpQ .TBL_CNT 0 2) ⟨x.key, d.time.ticks, [], none⟩
  rw [h, Dev.bumpQ_tbl, hset]
  exact ⟨rfl, rfl⟩

end learning

theorem exec_learnCommit {s : State} {x : LearnEv} {idx : Nat} (hq : s.dev.tbl.learnQ = [x]) (hdma : s.dev.tbl.dma = none)
    (hnew : s.dev.entriesOf s.mem 0 x.key = []) (hlimit : s.dev.atLimit x.port = false)
    (hplace : s.dev.place s.mem 0 x.key = some idx) :
    ∃ t, exec .learnCommit s = .next t ∧ t.mem = s.mem ∧ t.dev.tbl.learnQ = [] ∧
      SMap.get t.dev.tbl.em idx 0 = learnedEntry x ∧ ∀ k, k ≠ idx → SMap.get t.dev.tbl.em k 0 = SMap.get s.dev.tbl.em k 0 := by
  obtain ⟨hqueue, hem⟩ := Dev.commitLearn_leaves (d := { s.dev.fresh with tbl := { s.dev.tbl with learnQ := [] } })
    hnew hlimit hplace
  refine ⟨s.withDev (s.dev.fresh.learnCommit s.mem), rfl, rfl, ?_⟩
  rw [State.withDev_dev, Dev.learnCommit_of_single (d := s.dev.fresh) hq hdma]
  refine ⟨hqueue, ?_, fun k hk => ?_⟩
  · exact (congrArg (SMap.get · idx 0) hem).trans (by simp [SMap.get_put])
  · exact (congrArg (SMap.get · k 0) hem).trans (by simp [SMap.get_put, hk])

/-! #### The tracker -/

/-- Has the hold of a pinned key run its time? -/
def Dev.holdEnds (d : Dev) (x : Track) : Bool :=
  match x.pinnedAt with
  | some t => decide (t + d.f F.TBL_FLAP_CFG_FLAP_HOLD_S * ticksPerS ≤ d.time.ticks)
  | none => false

/-- A tracker entry whose hold has ended. -/
def Track.released (y : Track) : Track := { y with moves := [], pinnedAt := none }

/-- The entry of a key whose hold has ended is pinned no more, and a notice says so. -/
def Dev.unpinEntry (d : Dev) (mem : Mem) (x : Track) (idx e : Nat) : Dev :=
  let d := d.setEntry mem 0 idx (withCtl 128 e (ctlOf 128 e - 2 ^ 10))
  d.tblNotice 3 false (beAt x.key 0 1) 0x7FF (bits e 111 101) (beAt x.key 3 6) (beAt x.key 1 2) (short d.now8)

/-- The tracker forgets the moves and the hold of a key. -/
def Dev.releaseKey (d : Dev) (x : Track) : Dev :=
  { d with tbl := { d.tbl with tracker := d.tbl.tracker.map fun (y : Track) => if y.key == x.key then y.released else y } }

/-- The end of one hold. -/
def Dev.unpinKey (d : Dev) (mem : Mem) (x : Track) : Dev :=
  match ((d.releaseKey x).entriesOf mem 0 x.key).find? fun y => bit (ctlOf 128 y.2) 10 with
  | some (idx, e) => (d.releaseKey x).unpinEntry mem x idx e
  | none => d.releaseKey x

section tracker
variable {d : Dev} (mem : Mem)

theorem Dev.unpin_eq_each : d.unpin mem = d.each (d.tbl.tracker.filter d.holdEnds) fun d x => d.unpinKey mem x := rfl

@[simp] theorem Dev.tracker_unpinEntry (x : Track) (idx e : Nat) : (d.unpinEntry mem x idx e).tbl.tracker = d.tbl.tracker := by
  rw [Dev.unpinEntry, Dev.tracker_tblNotice, Dev.tbl_setEntry_l2]

theorem Dev.tracker_unpinKey (x : Track) : (d.unpinKey mem x).tbl.tracker = (d.releaseKey x).tbl.tracker := by
  unfold Dev.unpinKey
  split
  · exact Dev.tracker_unpinEntry ..
  · rfl

/-- The hold of the only key tracked ends when its time has passed (R285). -/
theorem Dev.tracker_unpin {y : Track} (ht : d.tbl.tracker = [y]) (hends : d.holdEnds y = true) :
    (d.unpin mem).tbl.tracker = [y.released] := by
  have hdue : d.tbl.tracker.filter d.holdEnds = [y] := by simp [ht, hends]
  rw [Dev.unpin_eq_each, hdue, Dev.each, List.foldl_cons, List.foldl_nil, Dev.tracker_unpinKey, Dev.releaseKey, ht]
  simp

end tracker

theorem exec_unpin {s : State} {y : Track} {t8 : Nat} (ht : s.dev.tbl.tracker = [y]) (hp : y.pinnedAt = some t8)
    (hdue : t8 + s.dev.f F.TBL_FLAP_CFG_FLAP_HOLD_S * 800000000 ≤ s.dev.time.ticks) :
    ∃ t, exec .unpin s = .next t ∧ t.mem = s.mem ∧ t.dev.tbl.tracker = [y.released] := by
  have hends : s.dev.holdEnds y = true := by
    simp only [Dev.holdEnds, hp, decide_eq_true_eq]
    exact hdue
  exact ⟨s.withDev (s.dev.fresh.unpin s.mem), rfl, rfl, Dev.tracker_unpin (d := s.dev.fresh) s.mem ht hends⟩

/-! #### Ageing -/

/-- The first of two flags taken from a control field that has it and not the second. -/
theorem clear_first_flag (c x y : Nat) : c - b2n true * x - b2n false * y + x * b2n false = c - x := by
  simp only [b2n, if_true, Bool.false_eq_true, if_false, Nat.one_mul, Nat.zero_mul, Nat.mul_zero, Nat.sub_zero, Nat.add_zero]

section sweeper
variable {d : Dev} {mem : Mem} {idx e : Nat} (he : e = SMap.get d.tbl.em idx 0) (hsweep : d.on F.TBL_CTRL_SWEEP_EN = true)
  (hperiod : d.f F.TBL_AGE_CFG_PERIOD_MS ≠ 0) (hdma : d.tbl.dma = none) (hvalid : ctlValid (ctlOf 128 e) = true)
include he hsweep hperiod hdma hvalid

omit he in
/-- The sweeper is on, the entry is valid and nothing locks it: the visit is not turned away. -/
theorem Dev.sweeper_serves :
    (!((0 == 0) || (0 == 1)) || !entryValid 0 e || !d.on F.TBL_CTRL_SWEEP_EN || d.f F.TBL_AGE_CFG_PERIOD_MS == 0 ||
      d.lockedFor none 0 idx) = false := by
  have hentry : entryValid 0 e = true := hvalid
  simp only [hentry, hsweep, beq_eq_false_iff_ne.2 hperiod, Dev.lockedFor_of_no_dma hdma, BEq.rfl, Bool.true_or, Bool.not_true,
    Bool.or_false]

/-- The sweeper clears HIT of an entry that was hit since its last visit (R287). -/
theorem Dev.em_sweeperVisit_of_hit (hhit : bit (ctlOf 128 e) 12 = true) (hstale : bit (ctlOf 128 e) 11 = false) :
    (d.sweeperVisit mem 0 idx false).tbl.em = SMap.put d.tbl.em idx (withCtl 128 e (ctlOf 128 e - 2 ^ 12)) 0 := by
  have hentry : d.entry mem 0 idx = e := (Dev.entry_l2 ..).trans he.symm
  unfold Dev.sweeperVisit
  rw [hentry]
  extract_lets _ w c h base
  have hhit' : bit c 12 = true := hhit
  have hstale' : bit c 11 = false := hstale
  have hctl : base + h = c - 2 ^ 12 := by
    unfold base h
    rw [hhit', hstale', clear_first_flag]
  rw [Dev.sweeper_serves hsweep hperiod hdma hvalid, if_neg Bool.false_ne_true, if_pos hhit', hctl, Dev.tbl_setEntry_l2]
  rfl

/-- It removes a learned entry that stayed STALE and is not pinned, whether a notice follows or not (R287). -/
theorem Dev.em_sweeperVisit_of_stale (hhit : bit (ctlOf 128 e) 12 = false) (hstale : bit (ctlOf 128 e) 11 = true)
    (hlearned : ctlLearned (ctlOf 128 e) = true) (hpin : bit (ctlOf 128 e) 10 = false) :
    (d.sweeperVisit mem 0 idx false).tbl.em = SMap.put d.tbl.em idx 0 0 := by
  have hentry : d.entry mem 0 idx = e := (Dev.entry_l2 ..).trans he.symm
  unfold Dev.sweeperVisit
  rw [hentry]
  extract_lets _ w c h base
  have hhit' : ¬bit c 12 = true := Bool.eq_false_iff.1 hhit
  have hstale' : ¬(!bit c 11) = true := by rw [show bit c 11 = true from hstale]; exact Bool.false_ne_true
  have haged : (0 == 0 && ctlLearned c && !bit c 10) = true := by
    rw [show ctlLearned c = true from hlearned, show bit c 10 = false from hpin]
    rfl
  rw [Dev.sweeper_serves hsweep hperiod hdma hvalid, if_neg Bool.false_ne_true, if_neg hhit', if_neg hstale', if_pos haged,
    if_neg Bool.false_ne_true]
  split
  · rw [Dev.em_tblNotice, Dev.bumpQ_tbl, Dev.tbl_setEntry_l2]
  · rw [Dev.bumpQ_tbl, Dev.tbl_setEntry_l2]

end sweeper

/-- A visit that writes a value at the index it visits. -/
theorem exec_sweeperVisit_of_em {s : State} {idx v : Nat}
    (hem : (s.dev.fresh.sweeperVisit s.mem 0 idx false).tbl.em = SMap.put s.dev.tbl.em idx v 0) :
    ∃ t, exec (.sweeperVisit 0 idx false) s = .next t ∧ t.mem = s.mem ∧ SMap.get t.dev.tbl.em idx 0 = v := by
  refine ⟨s.withDev (s.dev.fresh.sweeperVisit s.mem 0 idx false), rfl, rfl, ?_⟩
  rw [State.withDev_dev, hem, SMap.get_put, if_pos rfl]

/-! #### Corrupt entries -/

theorem ctlValid_congr {a b : Nat} (h : a % 2 ^ 15 = b % 2 ^ 15) : ctlValid a = ctlValid b := by
  simp only [ctlValid, bit, Nat.testBit_eq_decide_div_mod_eq, decide_eq_decide]
  omega

/-- VALID is bit 14: taken from a control field that has it, it is gone. -/
theorem ctlValid_sub {c : Nat} (h : ctlValid c = true) : ctlValid (c - 2 ^ 14) = false := by
  simp only [ctlValid, bit, Nat.testBit_eq_decide_div_mod_eq, decide_eq_true_eq, decide_eq_false_iff_not] at h ⊢
  omega

theorem entryValid_invalid_action {e : Nat} (h : ctlValid (ctlOf 512 e) = true) : entryValid 4 (invalid 4 e) = false := by
  have hfield : ctlOf 512 (withCtl 512 e (ctlOf 512 e - 2 ^ 14)) % 2 ^ 15 = (ctlOf 512 e - 2 ^ 14) % 2 ^ 15 :=
    ctlOf_withCtl_mod 496 e _
  have hbit : bit (ctlOf 512 e) 14 = true := h
  simpa [entryValid, invalid, widthOf, hbit, b2n] using (ctlValid_congr hfield).trans (ctlValid_sub h)

/-- A TCAM entry holds the 15 bits of the control field put into it; the 16th is its parity. -/
theorem TcamEnt.ctl_withCtl_mod (z : TcamEnt) (c : Nat) : (z.withCtl c).ctl % 2 ^ 15 = c % 2 ^ 15 := by
  simp only [TcamEnt.ctl, TcamEnt.withCtl, bits]
  generalize parityOf _ _ = parity
  omega

section corrupt
variable {d : Dev} {mem : Mem} {p idx e str : Nat} {z : TcamEnt}

/-- A valid action entry found corrupt is written back with VALID 0 and logged (R294, R295). -/
theorem Dev.corruptEntry_action (he : e = SMap.get d.tbl.action idx 0) (hvalid : ctlValid (ctlOf 512 e) = true) (hlpm : str ≠ 2)
    (htcam : str ≠ 3) (pipe found : Nat) :
    d.corruptEntry mem 4 str pipe idx found = (d.setEntry mem 4 idx (invalid 4 e)).tblError 4 str found true 0 idx := by
  simp [Dev.corruptEntry, isEm, entryValid, widthOf, hlpm, htcam, ← he, hvalid]

theorem Dev.tcamAt_eq_some : d.tcamAt p idx = some z ↔ SMap.find? d.tbl.tcam (p * 4096 + idx) = some z ∧ ctlValid z.ctl = true :=
  Option.filter_eq_some_iff

/-- An entry without VALID is not in use. -/
theorem Dev.tcamAt_eq_none (h : SMap.find? d.tbl.tcam (p * 4096 + idx) = some z) (hz : ctlValid z.ctl = false) :
    d.tcamAt p idx = none := by
  simp [Dev.tcamAt, h, hz]

/-- A TCAM entry in use whose parity is bad stays with VALID 0, leaves the occupancy and is logged (R278, R294). -/
theorem Dev.tcamScrub_of_bad (h : d.tcamAt p idx = some z) :
    d.tcamScrub mem p idx true =
      ((d.setTcam p idx (z.withCtl (z.ctl - 2 ^ 14))).moveOcc 5 (-1)).tblError 5 3 3 true p idx := by
  simp [Dev.tcamScrub, Dev.corruptEntry, h]

end corrupt

theorem exec_corruptEntry_action {s : State} {idx e str : Nat} (n : Nat) (he : e = SMap.get s.dev.tbl.action idx 0)
    (hvalid : ctlValid (ctlOf 512 e) = true) (hlpm : str ≠ 2) (htcam : str ≠ 3) (hroom : s.dev.tbl.errors.length < 64) :
    ∃ t, exec (.corruptEntry 4 str 0 idx n) s = .next t ∧ t.mem = s.mem ∧ SMap.get t.dev.tbl.action idx 0 = invalid 4 e ∧
      entryValid 4 (invalid 4 e) = false ∧ t.dev.tbl.errors.length = s.dev.tbl.errors.length + 1 := by
  refine ⟨s.withDev (s.dev.fresh.corruptEntry s.mem 4 str 0 idx n), rfl, rfl, ?_⟩
  have hlog : (s.dev.fresh.setEntry s.mem 4 idx (invalid 4 e)).tbl.errors.length < 64 := by simpa using hroom
  obtain ⟨entry, htbl⟩ := Dev.tbl_tblError_of_room hlog 4 str n true 0 idx
  rw [State.withDev_dev, Dev.corruptEntry_action (d := s.dev.fresh) he hvalid hlpm htcam, htbl]
  exact ⟨by simp [SMap.get_put], entryValid_invalid_action hvalid, by simp⟩

theorem exec_tcamScrub {s : State} {n idx : Nat} {z : TcamEnt} (h : s.dev.tcamAt n idx = some z)
    (hroom : s.dev.tbl.errors.length < 64) :
    ∃ t, exec (.tcamScrub n idx true) s = .next t ∧ t.mem = s.mem ∧
      SMap.find? t.dev.tbl.tcam (n * 4096 + idx) = some (z.withCtl (z.ctl - 2 ^ 14)) ∧ t.dev.tcamAt n idx = none ∧
      t.dev.tbl.errors.length = s.dev.tbl.errors.length + 1 := by
  obtain ⟨entry, htbl⟩ := Dev.tbl_tblError_of_room
    (d := (s.dev.fresh.setTcam n idx (z.withCtl (z.ctl - 2 ^ 14))).moveOcc 5 (-1)) hroom 5 3 3 true n idx
  have hused : s.dev.fresh.tcamAt n idx = some z := h
  have hfound : SMap.find? (s.dev.fresh.tcamScrub s.mem n idx true).tbl.tcam (n * 4096 + idx) =
      some (z.withCtl (z.ctl - 2 ^ 14)) := by
    rw [Dev.tcamScrub_of_bad hused, htbl]
    exact SMap.find?_set_same ..
  have hunused : ctlValid (z.withCtl (z.ctl - 2 ^ 14)).ctl = false :=
    (ctlValid_congr (z.ctl_withCtl_mod _)).trans (ctlValid_sub (Dev.tcamAt_eq_some.1 h).2)
  refine ⟨s.withDev (s.dev.fresh.tcamScrub s.mem n idx true), rfl, rfl, hfound, Dev.tcamAt_eq_none hfound hunused, ?_⟩
  rw [State.withDev_dev, Dev.tcamScrub_of_bad hused, htbl]
  simp [Dev.setTcam]

/-- Every entry of a rebuilt node is good again (R294). -/
theorem exec_lpmRebuildDone (s : State) (n : Nat) :
    ∃ t, exec (.lpmRebuildDone n) s = .next t ∧ t.mem = s.mem ∧ ∀ z, z ∈ t.dev.tbl.lpm → z.node = n → z.bad = false := by
  refine ⟨s.withDev (s.dev.fresh.lpmRebuilt n), rfl, rfl, fun z hz hnode => ?_⟩
  obtain ⟨x, -, rfl⟩ := List.mem_map.1 hz
  by_cases hx : x.node = n
  · simp [hx]
  · simp [hx] at hnode

/-! #### Notices and errors popped -/

/-- Words 1 to 3 of a popped entry latched for a master (R301). -/
def Dev.latched (d : Dev) (latch : Reg) (m : Nat) (b c e : Word) : Dev :=
  ((d.set latch b 0 0 0 m).set latch c 1 0 0 m).set latch e 2 0 0 m

section pops
variable {s : State} {m : Nat} {latch r : Reg} {a b c e : Word} {more : List (List Word)}

/-- The oldest entry of a log leaves it: its first word is the answer, the others are latched. -/
theorem Dev.popWords_of_entry (d : Dev) (hl : (latch == Reg.IVL_TT_POP) = false) (i : Nat) :
    d.popWords ([a, b, c, e] :: more) latch m 4 i = (more, d.latched latch m b c e, a) := by
  simp [Dev.popWords, List.range, List.range.loop, hl, Dev.latched]

/-- Elements of a register at different offsets have different keys, for one master too. -/
theorem regKey_ne_of_off {i j k i' j' k' : Nat} (h : r.off i j k ≠ r.off i' j' k') : regKey r i j k m ≠ regKey r i' j' k' m := by
  unfold regKey
  split
  · omega
  · exact h

theorem Dev.get_latched (d : Dev) (h01 : latch.off 0 ≠ latch.off 1) (h02 : latch.off 0 ≠ latch.off 2)
    (h12 : latch.off 1 ≠ latch.off 2) :
    (List.range 3).map (fun w => (d.latched latch m b c e).get latch w 0 0 m) = [b, c, e] := by
  have hkey01 := regKey_ne_of_off (m := m) h01
  have hkey02 := regKey_ne_of_off (m := m) h02
  have hkey12 := regKey_ne_of_off (m := m) h12
  simp [List.range, List.range.loop, Dev.latched, Dev.get_set, hkey01, hkey02, hkey12]

/-- A read that reaches the first word of a log, and pops it. -/
theorem onMem_readReg_of_pop {tbl : Tables} (h : Reaches s m none r 0 0) (hw : r.row.wide = false)
    (hr : (r == Reg.TEL_RING_RD_DATA0) = false)
    (hread : s.dev.fresh.readWord s.mem m (hitOf r 0 0) = ({ s.dev.fresh.latched latch m b c e with tbl := tbl }, a.toNat))
    (h01 : latch.off 0 ≠ latch.off 1) (h02 : latch.off 0 ≠ latch.off 2) (h12 : latch.off 1 ≠ latch.off 2) :
    ∃ t, onMem (readReg r 0 0 m) s = .next t ∧ t.mem = s.mem ∧ t.dev.last = [⟨m, .ok, a.toNat⟩] ∧ t.dev.tbl = tbl ∧
      (List.range 3).map (fun w => t.dev.get latch w 0 0 m) = [b, c, e] := by
  have hpop := readReg_of_reaches h
  rw [hw, readStatus_ok hr] at hpop
  simp only [Bool.false_eq_true, if_false, hread] at hpop
  refine ⟨s.withDev (({ s.dev.fresh.latched latch m b c e with tbl := tbl } : Dev).done m .ok a.toNat), ?_, rfl, rfl, rfl, ?_⟩
  · exact congrArg (fun x : Mem × Dev => Host.Outcome.next (s.withBoth x.1 x.2)) hpop
  · exact s.dev.fresh.get_latched h01 h02 h12

theorem exec_tblNoticePop (h : Reaches s m none .TBL_NOTICE_POP0 0 0) (hlog : s.dev.tbl.notices = [a, b, c, e] :: more) :
    ∃ t, exec (.tblNoticePop m) s = .next t ∧ t.mem = s.mem ∧ t.dev.last = [⟨m, .ok, a.toNat⟩] ∧
      t.dev.tbl = { s.dev.tbl with notices := more } ∧
      (List.range 3).map (fun w => t.dev.get .TBL_NOTICE_POP w 0 0 m) = [b, c, e] := by
  have hread : s.dev.fresh.readWord s.mem m (hitOf .TBL_NOTICE_POP0 0 0) =
      ({ s.dev.fresh.latched .TBL_NOTICE_POP m b c e with tbl := { s.dev.tbl with notices := more } }, a.toNat) := by
    simp only [Dev.readWord, hitOf, Dev.fresh_tbl, hlog, Dev.popWords_of_entry _ (latch := .TBL_NOTICE_POP) rfl]
    rfl
  exact onMem_readReg_of_pop h rfl rfl hread (by decide) (by decide) (by decide)

theorem exec_tblErrPop (h : Reaches s m none .TBL_ERR_POP0 0 0) (hlog : s.dev.tbl.errors = [a, b, c, e] :: more) :
    ∃ t, exec (.tblErrPop m) s = .next t ∧ t.mem = s.mem ∧ t.dev.last = [⟨m, .ok, a.toNat⟩] ∧
      t.dev.tbl = { s.dev.tbl with errors := more } ∧
      (List.range 3).map (fun w => t.dev.get .TBL_ERR_POP w 0 0 m) = [b, c, e] := by
  have hread : s.dev.fresh.readWord s.mem m (hitOf .TBL_ERR_POP0 0 0) =
      ({ s.dev.fresh.latched .TBL_ERR_POP m b c e with tbl := { s.dev.tbl with errors := more } }, a.toNat) := by
    simp only [Dev.readWord, hitOf, Dev.fresh_tbl, hlog, Dev.popWords_of_entry _ (latch := .TBL_ERR_POP) rfl]
    rfl
  exact onMem_readReg_of_pop h rfl rfl hread (by decide) (by decide) (by decide)

end pops

/-- Settles O52: the commit, the end of a hold, the sweeper's visit and the finding of a corrupt entry are each one write of one
entry, and the pops take the head of their log. -/
theorem learnedEntriesComeAndGo : Obligations.LearnedEntriesComeAndGo := by
  intro s m n t8 idx e str x y z a b c d more
  refine ⟨exec_learnCommit, exec_unpin, rfl, fun he _ hsweep hperiod hdma hvalid => ⟨fun hhit hstale => ?_,
      fun hhit hstale hlearned hpin => ?_⟩,
    exec_corruptEntry_action n, exec_tcamScrub, exec_lpmRebuildDone s n, exec_tblNoticePop, exec_tblErrPop⟩
  · exact exec_sweeperVisit_of_em (Dev.em_sweeperVisit_of_hit (d := s.dev.fresh) he hsweep hperiod hdma hvalid hhit hstale)
  · exact exec_sweeperVisit_of_em
      (Dev.em_sweeperVisit_of_stale (d := s.dev.fresh) he hsweep hperiod hdma hvalid hhit hstale hlearned hpin)

end Sys2Proof.Machine
end
